-- ==== Sys2Proof/Word.lean ====
section
/-! DEFINITION. The word types of the E512 (R95, R102, R304, R418) and nothing else. -/

namespace Sys2Proof

/-- One byte of memory. -/
abbrev Byte := BitVec 8
/-- A half word (16 bits). -/
abbrev W16 := BitVec 16
/-- An instruction word, a vector lane, a word index (R304, R418). -/
abbrev W32 := BitVec 32
/-- A scalar, predicate, branch-target or control register (R80, R307, R317). -/
abbrev W64 := BitVec 64
/-- An entry of the anchored accumulator (R102). -/
abbrev AW := BitVec 128
/-- A vector register: 64 lanes of 32 bits, lane 0 first (R418). -/
abbrev VReg := Vector W32 64

end Sys2Proof
end

