-- ==== Sys2Proof/Machine/Payload.lean ====
section
/-! DEFINITION. The operand types of instructions: the layouts of strand words (R305, R308), the names of tile
commands, and what the messages and inputs carried by device events hold. -/

namespace Sys2Proof

/-- The four engines (R63), in the order of their tags. -/
inductive Engine where
  | s | l | a | w
  deriving DecidableEq, Repr, Inhabited

/-- RR with a fixed fn: DQ nibble, destination, sources and their policy bits (R305). -/
structure RRR where
  q : BitVec 4
  d : BitVec 5
  fa : Bool
  a : BitVec 5
  fb : Bool
  b : BitVec 5
  deriving DecidableEq, Repr, Inhabited

/-- RR whose fn field is an operand (type, size, predicate, scale, width). -/
structure RRF where
  q : BitVec 4
  d : BitVec 5
  fa : Bool
  a : BitVec 5
  fb : Bool
  b : BitVec 5
  fn : BitVec 3
  deriving DecidableEq, Repr, Inhabited

/-- RR with a size code in fn bits 1:0. -/
structure RRS where
  q : BitVec 4
  d : BitVec 5
  fa : Bool
  a : BitVec 5
  fb : Bool
  b : BitVec 5
  size : BitVec 2
  deriving DecidableEq, Repr, Inhabited

/-- RR with destination and source a only. -/
structure RDA where
  q : BitVec 4
  d : BitVec 5
  fa : Bool
  a : BitVec 5
  deriving DecidableEq, Repr, Inhabited

/-- RR with destination, source a and a type in fn. -/
structure RDAT where
  q : BitVec 4
  d : BitVec 5
  fa : Bool
  a : BitVec 5
  t : BitVec 3
  deriving DecidableEq, Repr, Inhabited

/-- RR with destination, source a, an operation number in field b and a type in fn. -/
structure RDAO where
  q : BitVec 4
  d : BitVec 5
  fa : Bool
  a : BitVec 5
  op : BitVec 5
  t : BitVec 3
  deriving DecidableEq, Repr, Inhabited

/-- RR with a register pair: b is even, its upper four bits are kept (R315). -/
structure RPair where
  q : BitVec 4
  d : BitVec 5
  fa : Bool
  a : BitVec 5
  fb : Bool
  bp : BitVec 4
  t : BitVec 3
  deriving DecidableEq, Repr, Inhabited

/-- RR with source a only. -/
structure RA where
  q : BitVec 4
  fa : Bool
  a : BitVec 5
  deriving DecidableEq, Repr, Inhabited

/-- RR with sources a and b. -/
structure RAB where
  q : BitVec 4
  fa : Bool
  a : BitVec 5
  fb : Bool
  b : BitVec 5
  deriving DecidableEq, Repr, Inhabited

/-- RR with sources a and b and a size code. -/
structure RABS where
  q : BitVec 4
  fa : Bool
  a : BitVec 5
  fb : Bool
  b : BitVec 5
  size : BitVec 2
  deriving DecidableEq, Repr, Inhabited

/-- RR with sources a and b and an fn operand. -/
structure RABF where
  q : BitVec 4
  fa : Bool
  a : BitVec 5
  fb : Bool
  b : BitVec 5
  fn : BitVec 3
  deriving DecidableEq, Repr, Inhabited

/-- RR whose destination is a predicate (CMP, VCMP); `cc` is the condition. -/
structure RCmp where
  q : BitVec 4
  d : BitVec 3
  fa : Bool
  a : BitVec 5
  fb : Bool
  b : BitVec 5
  cc : BitVec 3
  deriving DecidableEq, Repr, Inhabited

/-- VCMP: a compare with a type beside its condition. -/
structure RVCmp where
  q : BitVec 4
  cc : BitVec 3
  d : BitVec 3
  fa : Bool
  a : BitVec 5
  fb : Bool
  b : BitVec 5
  t : BitVec 3
  deriving DecidableEq, Repr, Inhabited

/-- The order field of FLADD and FLWAIT (R308) with sources a and b. -/
structure ROrd where
  q : BitVec 4
  ord : BitVec 2
  scope : BitVec 2
  fa : Bool
  a : BitVec 5
  fb : Bool
  b : BitVec 5
  deriving DecidableEq, Repr, Inhabited

/-- RI: destination, source a, nine-bit immediate (R305). -/
structure RI where
  q : BitVec 4
  d : BitVec 5
  fa : Bool
  a : BitVec 5
  imm : BitVec 9
  deriving DecidableEq, Repr, Inhabited

/-- RI with the size code of LD and GLD in OP bits 1:0. -/
structure RIS where
  q : BitVec 4
  size : BitVec 2
  d : BitVec 5
  fa : Bool
  a : BitVec 5
  imm : BitVec 9
  deriving DecidableEq, Repr, Inhabited

/-- A 2W head with source a and a 28-bit immediate in the extension word (R306). -/
structure R2W28 where
  q : BitVec 4
  d : BitVec 5
  fa : Bool
  a : BitVec 5
  imm : BitVec 28
  deriving DecidableEq, Repr, Inhabited

/-- BFX and BFI: position and length minus one (R312). -/
structure RBits where
  q : BitVec 4
  d : BitVec 5
  fa : Bool
  a : BitVec 5
  pos : BitVec 6
  len1 : BitVec 6
  deriving DecidableEq, Repr, Inhabited

/-- A register an instruction reads or writes, for the full/empty bits (R75). -/
inductive RegRef where
  | s (r : BitVec 5)
  | v (r : BitVec 5)
  deriving DecidableEq, Repr, Inhabited

/-- The atomic operations (R314), in the order of their opcodes. -/
inductive AmoOp where
  | add | and | or | xor | min | max | minu | maxu | swap | cas | fmin | fmax | fadd
  deriving DecidableEq, Repr, Inhabited

/-- A command of a tile's engines: the tile and the command's acceptance number (R83). -/
structure CmdRef where
  tile : Nat
  seq : Nat
  deriving DecidableEq, Repr, Inhabited

/-- Who a reply or a failure goes back to: package, tile, task and rank of the strand, and the number of its continuation
record when the word departed. -/
structure Origin where
  chip : Nat
  tile : Nat
  task : Nat
  rank : Nat
  slot : Nat
  record : Nat
  /-- The tracking slot in which the job counts its messages (R253). -/
  track : Nat
  job : W16
  taskId : W32
  super : Bool
  deriving DecidableEq, Repr, Inhabited

/-- The test of a remote wait (R375, R378). -/
inductive WaitTest where
  | future
  | pip (threshold : W64) (sub : Bool)
  deriving DecidableEq, Repr, Inhabited

/-- Why a request fails (R267): cause, subcode, and the DETAIL that the fault record of its trap gets (R473, R275). -/
structure Failure where
  cause : Nat
  sub : Nat := 0
  detail : List Byte := []
  deriving DecidableEq, Repr, Inhabited

/-- What a memory message asks of its home, or answers (R342, R370, R373, R378, R401). -/
inductive MsgBody where
  | store (ia : Nat) (bytes : List Byte)
  /-- A misaligned store of which the home has performed the first bytes, one access each (R151). -/
  | storeRest (ia : Nat) (bytes : List Byte)
  | amo (op : AmoOp) (size : Nat) (ia : Nat) (v c : W64) (returning : Bool)
  | xadd (ia : Nat) (fmt : BitVec 3) (v : W64)
  | load (ia : Nat) (size : Nat) (lane : Option Nat)
  /-- A misaligned load of which the home has performed the first bytes, one access each (R151). -/
  | loadRest (ia : Nat) (size : Nat) (lane : Option Nat) (got : List Byte)
  /-- The add of a FLADD; of a release form, the walk count that L has to reach first (R154, R373). -/
  | fladd (ia : Nat) (addend : W64) (release : Option Nat)
  /-- The fill of a PUTF, a release, with the same walk count (R401). -/
  | putf (ia : Nat) (value : W64) (release : Nat)
  | wait (ia : Nat) (test : WaitTest)
  | reply (lane : Option Nat) (value : W64) (error : Option Failure) (flags : BitVec 8)
  | ack (flags : BitVec 8)
  /-- What the home answers to a wait: with the cycle count of the test that failed there first, and who made the increment that
  satisfied it (R284). -/
  | answer (passed : Bool) (value : W64) (error : Option Failure) (failedAt : Option W64) (setter : Nat × Nat × Nat × Nat)
  /-- A posted write or publish that failed at its home, with the DETAIL of its record (R470, R473). -/
  | failed (cause sub : Nat) (ia : Nat) (detail : List Byte)
  /-- A command's publish at another home chip, performed there whole (R161). -/
  | publish (writes : List (Nat × List Byte))
  /-- An AMSG, COLL traffic and a decrement, as far as their loss goes (R261): the chip that they go to. -/
  | task (chip : Nat)
  | coll (chip : Nat)
  | tdec (ia : Nat)
  deriving DecidableEq, Repr, Inhabited

/-- The message counts in INJ and CON when it goes to another package (R254). -/
def MsgBody.counted : MsgBody → Bool
  | .wait _ _ => false
  | .answer _ _ _ _ _ => false
  | .failed _ _ _ _ => false
  | .ack _ => false
  | .publish _ => false
  | _ => true

/-- A posted write (R64). -/
def MsgBody.posted : MsgBody → Bool
  | .store _ _ => true
  | .storeRest _ _ => true
  | .amo _ _ _ _ _ r => !r
  | .xadd _ _ _ => true
  | .fladd _ _ _ => true
  | .putf _ _ _ => true
  | _ => false

/-- A release form (R373, R401): the walk count that L reaches before it is performed, so that the loads before it are. -/
def MsgBody.behind : MsgBody → Option Nat
  | .fladd _ _ r => r
  | .putf _ _ k => some k
  | _ => none

/-- A release form (R373, R401). -/
def MsgBody.release (b : MsgBody) : Bool := b.behind.isSome

/-- First IA and length of what a message reaches at its home. -/
def MsgBody.span : MsgBody → Nat × Nat
  | .store ia bs => (ia, bs.length)
  | .storeRest ia bs => (ia, bs.length)
  | .amo _ n ia _ _ _ => (ia, n)
  | .xadd ia _ _ => (ia, 64)
  | .load ia n _ => (ia, n)
  | .loadRest ia n _ _ => (ia, n)
  | .fladd ia _ _ => (ia, 8)
  | .putf ia _ _ => (ia, 16)
  | .wait ia .future => (ia, 16)
  | .wait ia (.pip _ _) => (ia, 8)
  | .task c => (2 ^ 47 * c, 0)
  | .coll c => (2 ^ 47 * c, 0)
  | .tdec ia => (ia, 0)
  | .publish ws => ((ws.head?.map (·.1)).getD 0, 0)
  | _ => (0, 0)

/-- Everything that a message reaches at its home, piece by piece. -/
def MsgBody.spans : MsgBody → List (Nat × Nat)
  | .publish ws => ws.map fun w => (w.1, w.2.length)
  | b => [b.span]

/-- The message writes at its home, so that its page must permit it. -/
def MsgBody.writes : MsgBody → Bool
  | .load _ _ _ => false
  | .loadRest _ _ _ _ => false
  | .wait _ (.pip _ sub) => sub
  | .wait _ .future => false
  | _ => true

/-- The kind of a message in a loss record (R275). -/
def MsgBody.lossKind : MsgBody → Nat
  | .task _ => 1
  | .coll _ => 6
  | .load _ _ _ => 4
  | .loadRest _ _ _ _ => 4
  | .amo _ _ _ _ _ r => if r then 4 else 3
  | .reply _ _ _ _ => 5
  | .wait _ _ => 7
  | .answer _ _ _ _ _ => 7
  | .failed _ _ _ _ => 7
  | .ack _ => 7
  | .publish _ => 7
  | _ => 3

/-- An access of n bytes at an IA is performed at once: it is aligned, and one of the sizes of R151 or of R107. -/
def oneAccess (ia n : Nat) : Bool := [1, 2, 4, 8, 16, 64].contains n && ia % n == 0

/-- One message: its number, who sent it, what it carries. -/
structure Msg where
  num : Nat
  origin : Origin
  body : MsgBody
  deriving DecidableEq, Repr, Inhabited

/-- The message writes for its strand's W engine: a posted write, or a returning atomic (R152). -/
def MsgBody.ofW : MsgBody → Bool
  | .amo _ _ _ _ _ _ => true
  | b => b.posted

/-- What stands for a message at a port (R280). -/
def Msg.key (m : Msg) : Nat := 512 * m.num + m.origin.chip

/-- The lane of a load. -/
def MsgBody.lane : MsgBody → Option Nat
  | .load _ _ l => l
  | .loadRest _ _ l _ => l
  | .reply l _ _ _ => l
  | _ => none

/-- A task record on its way to a dispatch controller (R345, R346, R251). -/
structure TaskMsg where
  record : List Byte
  job : W16
  seed : W64
  cluster : Nat
  fromChip : Nat
  /-- The job's tracking slot and error queue, for a package that meets the job first here (R41, R253). -/
  track : Nat
  errq : Nat
  /-- The task that it becomes is a counted one (R254). -/
  counted : Bool
  /-- The successors of a task of a graph instance (R239). -/
  succs : Option (List Nat)
  deriving DecidableEq, Repr, Inhabited

/-- A firmware image as the boot ROM and the management controller see it (R292): the fields of its header, whether the bytes that the
header leaves unused are zero, and its body. -/
structure FwImage where
  magic : W32
  unit : Byte
  reservedZero : Bool
  svn : W32
  length : W32
  body : List Byte
  digest : BitVec 512
  signature : List Byte
  deriving DecidableEq, Repr, Inhabited

/-- What the boot ROM reads from the SPI flash (R292): the bytes of the root block, and those of the copies A and B of the image of
each unit, in the order in which it tries them (R293). -/
structure Flash where
  root : List Byte
  images : List (List Byte × List Byte)
  deriving DecidableEq, Repr, Inhabited

/-- The steps of a replacement of firmware (R297): the request, which names a unit and the IA of an image, and the load of the next
instance of the unit, which is drained. -/
inductive FwPhase where
  | request (unit : Byte) (ia : Nat)
  | load (unit : Byte)
  deriving DecidableEq, Repr, Inhabited

/-- How a host access reaches the package (R237): through a window of its own, forwarded by another package for a window's JOB, or as
the answer of another package to an access forwarded there. -/
inductive HostVia where
  | window (rkey : W32)
  | forwarded (chip : Nat) (job : W16)
  | answered (ok : Bool) (bytes : List Byte)
  deriving DecidableEq, Repr, Inhabited

/-- Where a TRACK_RESET or an END_JOB comes from (R236): the packet of a submission queue, or another package, with the slot or the
job. -/
inductive PacketSrc where
  | queue (n : Nat)
  | forwarded (n : Nat)
  deriving DecidableEq, Repr, Inhabited

/-- What the fault processor does with a page fault (R135): it puts a leaf entry in place, of a 2 MiB page or of a 64 KiB one,
or gives up. -/
inductive FaultService where
  | install (entry : W64) (large : Bool)
  | unserviceable
  deriving DecidableEq, Repr, Inhabited

/-- The steps of a fabric-port service (R30). -/
inductive PortPhase where
  | drain | service | train | up
  deriving DecidableEq, Repr, Inhabited

/-- The unit whose drain completes (R30). -/
inductive DrainUnit where
  | hbmChannel (channel : Nat)
  | lpddrChannel (channel : Nat)
  | cxlPort (port : Nat) (gib : Nat)
  deriving DecidableEq, Repr, Inhabited

/-- A Heltis access to a stopped tile (R280). -/
inductive HeltisOp where
  | readMem (ia : Nat) (len : Nat)
  | writeMem (ia : Nat) (bytes : List Byte)
  | readS (slot : Nat) (r : BitVec 5)
  | writeS (slot : Nat) (r : BitVec 5) (v : W64)
  | readV (slot : Nat) (r : BitVec 5)
  | writeV (slot : Nat) (r : BitVec 5) (v : VReg)
  | readP (slot : Nat) (r : BitVec 3)
  | writeP (slot : Nat) (r : BitVec 3) (v : W64)
  | readB (slot : Nat) (r : BitVec 3)
  | writeB (slot : Nat) (r : BitVec 3) (v : W64)
  | readPc (slot : Nat) (e : Engine)
  | writePc (slot : Nat) (e : Engine) (v : W32)
  | readCtl (slot : Nat) (num : BitVec 9)
  | writeCtl (slot : Nat) (num : BitVec 9) (v : W64)
  | stopImage
  deriving DecidableEq, Repr, Inhabited

end Sys2Proof
end

