-- ==== Sys2Proof/Syntax.lean ====
section
/-! DEFINITION. The instructions: one constructor per row of spec/opcode_table.json. Strand words carry
the fields of their encoding (R304 to R309), engine commands the command of a tile that starts, device events what the
event concerns and what comes in from outside the package. -/

namespace Sys2Proof

/-- The steps of the E512, row by row of its table of operations and events. -/
inductive Instr where
  /-- R339. Writes the 64-bit wrapped sum of two scalar registers. -/
  | add (o : RRR)
  /-- R416. Writes the 64-bit wrapped difference of two scalar registers. -/
  | sub (o : RRR)
  /-- R348. Writes the bitwise AND of two scalar registers. -/
  | andW (o : RRR)
  /-- R396. Writes the bitwise OR of two scalar registers. -/
  | orW (o : RRR)
  /-- R449. Writes the bitwise exclusive OR of two scalar registers. -/
  | xorW (o : RRR)
  /-- R411. Shifts a scalar left by s_b[5:0]. -/
  | shl (o : RRR)
  /-- R411. Shifts a scalar right by s_b[5:0] and fills with zeros. -/
  | shrl (o : RRR)
  /-- R411. Shifts a scalar right by s_b[5:0] and fills with copies of the sign bit. -/
  | shra (o : RRR)
  /-- R395. Writes the low 64 bits of the product. -/
  | mul (o : RRR)
  /-- R395. Writes the high 64 bits of the signed 128-bit product. -/
  | mulh (o : RRR)
  /-- R395. Writes the high 64 bits of the unsigned 128-bit product. -/
  | mulhu (o : RRR)
  /-- R390. Writes the signed minimum of two scalars. -/
  | minW (o : RRR)
  /-- R390. Writes the unsigned minimum of two scalars. -/
  | minu (o : RRR)
  /-- R390. Writes the signed maximum of two scalars. -/
  | maxW (o : RRR)
  /-- R390. Writes the unsigned maximum of two scalars. -/
  | maxu (o : RRR)
  /-- R360. Performs signed division truncated toward zero; it never traps. -/
  | div (o : RRR)
  /-- R360. Performs unsigned division; division by zero gives all ones. -/
  | divu (o : RRR)
  /-- R405. Writes the remainder of signed division. -/
  | rem (o : RRR)
  /-- R405. Writes the remainder of unsigned division. -/
  | remu (o : RRR)
  /-- R354. Counts the leading zero bits of a scalar. -/
  | clz (o : RDA)
  /-- R399. Counts the 1 bits of a scalar. -/
  | popc (o : RDA)
  /-- R355. Compares two scalars under a condition and writes all ones or zero to a predicate. -/
  | cmp (o : RCmp)
  /-- R409. Selects one of two scalars by bit 0 of a predicate. -/
  | sel (o : RRF)
  /-- R339. Adds a sign-extended 9-bit immediate to a scalar. -/
  | addi (o : RI)
  /-- R348. ANDs a scalar with a sign-extended immediate. -/
  | andi (o : RI)
  /-- R396. ORs a scalar with a sign-extended immediate. -/
  | ori (o : RI)
  /-- R449. XORs a scalar with a sign-extended immediate. -/
  | xori (o : RI)
  /-- R411. Shifts a scalar left by an immediate of 0 to 63. -/
  | shli (o : RI)
  /-- R392. Writes a sign-extended 37-bit immediate; the instruction has two words. -/
  | movi (q : BitVec 4) (d : BitVec 5) (imm : BitVec 37)
  /-- R392. Writes imm28 into bits 63:36 and keeps s_a[35:0]. -/
  | movhi (o : R2W28)
  /-- R385. Adds a sign-extended 37-bit immediate to a scalar without translating it. -/
  | lea (q : BitVec 4) (d : BitVec 5) (fa : Bool) (a : BitVec 5) (imm : BitVec 37)
  /-- R350. Extracts a bit field and zero-extends it. -/
  | bfx (o : RBits)
  /-- R350. Inserts the low bits of s_a into a field of s_d. -/
  | bfi (o : RBits)
  /-- R397. Writes a relative branch target into a b register and starts fetching the target. -/
  | pbr (q : BitVec 4) (b : BitVec 3) (off : BitVec 17)
  /-- R397. Writes an absolute target, imm28, into a b register. -/
  | pbrxImm (q : BitVec 4) (b : BitVec 3) (imm : BitVec 28)
  /-- R397. Writes the target s_a plus an offset into a b register. -/
  | pbrxReg (q : BitVec 4) (b : BitVec 3) (fa : Bool) (a : BitVec 5) (imm : BitVec 28)
  /-- R352. Posts a taken or not-taken branch outcome from a predicate and its polarity. -/
  | br (q : BitVec 4) (b : BitVec 3) (p : BitVec 3) (pol : Bool) (hint : BitVec 13)
  /-- R353. Posts a taken outcome to the target and writes the return index to s31. -/
  | call (q : BitVec 4) (b : BitVec 3) (hint : BitVec 13)
  /-- R406. Posts a taken outcome to s31[31:0]. -/
  | ret (q : BitVec 4) (hint : BitVec 13)
  /-- R387. Starts a counted loop in a b register and posts its entry outcome. -/
  | loopW (q : BitVec 4) (b : BitVec 3) (fa : Bool) (a : BitVec 5) (len : BitVec 16)
  /-- R366. Meeting word that ends the strand once L, A and W are held at it. -/
  | endW (q : BitVec 4)
  /-- R451. Always departs with a record that is ready at once. -/
  | yield (q : BitVec 4)
  /-- R383. Meeting word that writes an idempotent snapshot and opens a region. -/
  | idem (q : BitVec 4)
  /-- R386. Writes one half of LIVEMASK; the instruction has two words. -/
  | live (q : BitVec 4) (half : Bool) (mask : W32)
  /-- R421. Retires and takes a SOFTWARE trap with the code as subcode. -/
  | trapW (q : BitVec 4) (imm : BitVec 9)
  /-- R351. Retires, then takes a BREAK trap or makes a precise stop under BKPT_STOP. -/
  | bkpt (q : BitVec 4)
  /-- R274. Meeting word that restores the strand from its trap frame and returns it to user level. -/
  | rte (q : BitVec 4)
  /-- R414. Hands a task record from the own slice to the package's dispatch controller. -/
  | spawn (o : RA)
  /-- R420. Sends a dependence decrement for a task record to its dispatch controller. -/
  | tdec (o : RA)
  /-- R345. Sends a task record, with the job and SEED, to the dispatch controller of another chip. -/
  | amsg (o : RAB)
  /-- R365. Copies a 128-byte command record into one of an engine's command queues. -/
  | ecmd (q : BitVec 4) (eng : BitVec 4) (fa : Bool) (a : BitVec 5) (queue : BitVec 2)
  /-- R450. Sends an expert hint block for a layer to the expert predictor. -/
  | xpf (o : RAB)
  /-- R349. Departs at the gang barrier until the generation completes. -/
  | bar (q : BitVec 4)
  /-- R403. Departs until the next quiet broadcast of the job's tracking slot. -/
  | qwait (q : BitVec 4) (d : BitVec 5)
  /-- R338. Exchanges the WORK and VIS bank roles, or departs until the bank is quiescent. -/
  | accswap (q : BitVec 4)
  /-- R377. Reads a control register into a scalar. -/
  | getc (q : BitVec 4) (d : BitVec 5) (imm : BitVec 9)
  /-- R410. Writes a control register after the number, privilege and value checks; this row covers registers with no row of their own. -/
  | setc (q : BitVec 4) (fa : Bool) (a : BitVec 5) (imm : BitVec 9)
  /-- R404. Reads the tile cycle count and marks the destination time-tainted. -/
  | rdcyc (q : BitVec 4) (d : BitVec 5)
  /-- R404. Reads FRAME and marks the destination time-tainted. -/
  | rdfrm (q : BitVec 4) (d : BitVec 5)
  /-- R422. Writes a MARK trace record when marks are enabled. -/
  | trmark (q : BitVec 4) (fa : Bool) (a : BitVec 5) (imm : BitVec 9)
  /-- R398. Reads a per-tile performance counter. -/
  | perfrd (q : BitVec 4) (d : BitVec 5) (imm : BitVec 9)
  /-- R413. Idles the engine named by the tag for n tile cycles. -/
  | skip (q : BitVec 4) (e : BitVec 2) (imm : BitVec 9)
  /-- R384. Local scalar load of size n from the own slice. -/
  | ld (o : RIS)
  /-- R384. Local load of 256 bytes into a vector. -/
  | ldv (o : RI)
  /-- R384. Local strided vector load. -/
  | ldvs (o : RRR)
  /-- R384. Local indexed vector load. -/
  | ldvx (o : RRF)
  /-- R379. Global scalar load that always departs until the reply arrives. -/
  | gld (o : RIS)
  /-- R380. Global gather of the active lanes; it departs when any lane is active. -/
  | gldv (o : RRF)
  /-- R378. Reads a full future, or departs until it is filled. -/
  | getf (o : RDA)
  /-- R374. Reads a pip; it departs when the pip lies on another tile. -/
  | flrd (o : RDA)
  /-- R407. Proceeds if a ring slot is filled, otherwise departs keyed to the write pointer. -/
  | rngwait (o : RAB)
  /-- R372. L half of a fence, completing when earlier loads are performed. -/
  | fenceL (q : BitVec 4) (ord : BitVec 2) (scope : BitVec 2)
  /-- R389. L half of MARK, paired by count with a W half. -/
  | markL (q : BitVec 4)
  /-- R415. Local scalar store to the own slice. -/
  | st (o : RRS)
  /-- R415. Local store of a 256-byte vector. -/
  | stv (o : RRR)
  /-- R415. Local strided vector store. -/
  | stvs (o : RRR)
  /-- R415. Local indexed vector store. -/
  | stvx (o : RRF)
  /-- R381. Global scalar store, posted unless it targets the own slice. -/
  | gst (o : RRS)
  /-- R382. Global scatter of the active lanes. -/
  | gstv (o : RRF)
  /-- R401. Fills a future as a release at DOMAIN scope. -/
  | putf (o : RAB)
  /-- R373. Atomically adds to a pip, with an optional release. -/
  | fladd (o : ROrd)
  /-- R375. Tests a pip against a threshold, optionally subtracting it; it departs on failure or when the pip is remote. -/
  | flwait (o : ROrd) (sub : Bool)
  /-- R407. Releases the ring slot at HEAD as a release at CHIP scope. -/
  | rngrel (o : RA)
  /-- R400. Advances a ring's TAIL over slots that the strand has filled. -/
  | pub (o : RAB)
  /-- R372. W half of a fence; it departs at a wide scope while posted stores are unperformed. -/
  | fenceW (q : BitVec 4) (ord : BitVec 2) (scope : BitVec 2)
  /-- R389. W half of MARK, paired by count with an L half. -/
  | markW (q : BitVec 4)
  /-- R341. Returning atomic add. -/
  | amoAdd (o : RRS)
  /-- R341. Returning atomic AND. -/
  | amoAnd (o : RRS)
  /-- R341. Returning atomic OR. -/
  | amoOr (o : RRS)
  /-- R341. Returning atomic XOR. -/
  | amoXor (o : RRS)
  /-- R341. Returning atomic signed minimum. -/
  | amoMin (o : RRS)
  /-- R341. Returning atomic signed maximum. -/
  | amoMax (o : RRS)
  /-- R341. Returning atomic unsigned minimum. -/
  | amoMinu (o : RRS)
  /-- R341. Returning atomic unsigned maximum. -/
  | amoMaxu (o : RRS)
  /-- R341. Returning atomic swap. -/
  | amoSwap (o : RRS)
  /-- R341. Atomic compare-and-swap that returns the old value. -/
  | amoCas (o : RRS)
  /-- R341. Returning atomic FP32 minimumNumber. -/
  | amoFmin (o : RRR)
  /-- R341. Returning atomic FP32 maximumNumber. -/
  | amoFmax (o : RRR)
  /-- R341. Returning atomic FP32 add, rounded and logged to DETCAUSE. -/
  | amoFadd (o : RRR)
  /-- R341. Non-returning atomic add. -/
  | amoAddNr (o : RABS)
  /-- R341. Non-returning atomic AND. -/
  | amoAndNr (o : RABS)
  /-- R341. Non-returning atomic OR. -/
  | amoOrNr (o : RABS)
  /-- R341. Non-returning atomic XOR. -/
  | amoXorNr (o : RABS)
  /-- R341. Non-returning atomic signed minimum. -/
  | amoMinNr (o : RABS)
  /-- R341. Non-returning atomic signed maximum. -/
  | amoMaxNr (o : RABS)
  /-- R341. Non-returning atomic unsigned minimum. -/
  | amoMinuNr (o : RABS)
  /-- R341. Non-returning atomic unsigned maximum. -/
  | amoMaxuNr (o : RABS)
  /-- R341. Non-returning atomic swap. -/
  | amoSwapNr (o : RABS)
  /-- R341. Non-returning atomic FP32 minimumNumber. -/
  | amoFminNr (o : RAB)
  /-- R341. Non-returning atomic FP32 maximumNumber. -/
  | amoFmaxNr (o : RAB)
  /-- R341. Non-returning atomic FP32 add. -/
  | amoFaddNr (o : RAB)
  /-- R344. Adds one value exactly into an XA with xa_add. -/
  | amoXadd (o : RABF)
  /-- R424. Lane-wise add. -/
  | vadd (o : RRF)
  /-- R424. Lane-wise subtract. -/
  | vsub (o : RRF)
  /-- R424. Lane-wise multiply. -/
  | vmul (o : RRF)
  /-- R424. Lane-wise fused multiply-add into v_d. -/
  | vfma (o : RRF)
  /-- R424. Lane-wise fused multiply-subtract from v_d. -/
  | vfms (o : RRF)
  /-- R424. Lane-wise minimum. -/
  | vmin (o : RRF)
  /-- R424. Lane-wise maximum. -/
  | vmax (o : RRF)
  /-- R423. Lane-wise absolute value. -/
  | vabs (o : RDAT)
  /-- R423. Lane-wise negation. -/
  | vneg (o : RDAT)
  /-- R425. Lane-wise bitwise AND. -/
  | vand (o : RRR)
  /-- R425. Lane-wise bitwise OR. -/
  | vor (o : RRR)
  /-- R425. Lane-wise bitwise XOR. -/
  | vxor (o : RRR)
  /-- R445. Lane-wise left shift. -/
  | vshl (o : RRR)
  /-- R445. Lane-wise logical right shift. -/
  | vshrL (o : RRR)
  /-- R445. Lane-wise arithmetic right shift. -/
  | vshrA (o : RRR)
  /-- R427. Lane-wise compare that writes a predicate. -/
  | vcmp (o : RVCmp)
  /-- R444. Selects lanes by predicate. -/
  | vsel (o : RRF)
  /-- R434. Copies a vector. -/
  | vmov (o : RDA)
  /-- R426. Broadcasts a scalar element to every lane. -/
  | vbcast (o : RDAT)
  /-- R430. Extracts one lane into a scalar. -/
  | vext (o : RI)
  /-- R433. Writes the start value plus the lane number into each lane. -/
  | viota (o : RDA)
  /-- R435. Permutes lanes by an index vector. -/
  | vperm (o : RRR)
  /-- R441. Rotates lanes toward lane 0. -/
  | vrot (o : RI)
  /-- R436. Counts the bits of a predicate. -/
  | vpopc (q : BitVec 4) (d : BitVec 5) (p : BitVec 3)
  /-- R439. Reduces the lanes to a scalar, or adds them into an XA. -/
  | vred (o : RDAO)
  /-- R443. Writes the prefix combination over lanes. -/
  | vscan (o : RDAO)
  /-- R428. Converts lanes under a tensor parameter record. -/
  | vcvt (o : RRF)
  /-- R440. Rounds lanes to integral values under a mode. -/
  | vrnd (o : RDAO)
  /-- R431. Computes 2^x per lane, correctly rounded. -/
  | vfexp (o : RDAT)
  /-- R442. Scales each lane by a power of two with one rounding. -/
  | vscale (o : RRF)
  /-- R432. Writes each lane's exponent as an integer. -/
  | vgetexp (o : RDAT)
  /-- R431. Computes the reciprocal per lane. -/
  | vrcp (o : RDAT)
  /-- R431. Computes the reciprocal square root per lane. -/
  | vrsq (o : RDAT)
  /-- R431. Computes log2 per lane. -/
  | vflog (o : RDAT)
  /-- R438. Writes KX-128 random bits per lane. -/
  | vrand (o : RRR)
  /-- R446. Converts lanes with stochastic rounding. -/
  | vsrnd (o : RPair)
  /-- R437. Quantises the two halves of a vector to BFP blocks. -/
  | vquant (o : RPair)
  /-- R429. Expands block mantissas to FP32. -/
  | vdeq (o : RRF)
  /-- R447. Adds exact products of a scale and each lane into an XA. -/
  | vxacc (o : RRR)
  /-- R337. Reads 64 VIS entries into a vector. -/
  | accrd (o : RRR)
  /-- R336. Clears a run of VIS entries. -/
  | accclr (o : RAB)
  /-- R448. Clears an XA in the slice. -/
  | xclr (o : RA)
  /-- R448. Adds every lane into an XA as one atomic update. -/
  | xaddv (o : RABF)
  /-- R448. Reads an XA rounded once into a scalar. -/
  | xrd (o : RDAT)
  /-- R358. Copy command that starts when eligible and copies, converts, encodes or decodes along a nest. -/
  | cpy (c : CmdRef)
  /-- R187. Copy command that gathers table rows by index into packed rows. -/
  | cpyg (c : CmdRef)
  /-- R187. Copy command that scatters packed rows into table rows by index. -/
  | cpys (c : CmdRef)
  /-- R391. Matrix command that classifies, clears and multiplies into WORK entries by exact aw_add. -/
  | mma (c : CmdRef)
  /-- R367. Matrix command that drains VIS entries through an epilogue program into DST. -/
  | epil (c : CmdRef)
  /-- R393. Merge command that merges up to 8 sorted key streams. -/
  | mrg (c : CmdRef)
  /-- R412. Stream command that intersects two sorted key streams. -/
  | sisect (c : CmdRef)
  /-- R394. Mask command that classifies a grid of score tiles into a map. -/
  | mskev (c : CmdRef)
  /-- R356. Collective command that joins a group reduce, gather or reduce-scatter. -/
  | coll (c : CmdRef)
  /-- R402. Queue-control command that moves the oldest continuation records to the spill area. -/
  | qctlSpill (c : CmdRef)
  /-- R89. A command publishes its writes, writes its completion record and increments its SIGMASK pips. -/
  | commandCompletion (c : CmdRef)
  /-- R92. At its stamp edge a stamped command starts, or takes a schedule-miss fault. -/
  | stampEdge (c : CmdRef)
  /-- R184. A copy command eligible for 65,536 FRAME cycles is treated as SLACK 0. -/
  | copyAgePromotion (c : CmdRef)
  /-- R83. After 4,096 cycles on a full queue, ECMD raises QUEUE_FULL. -/
  | ecmdQueueTimeout (n : Nat)
  /-- R26. A write of ENVELOPE.MODE starts a mode transition, or is refused while one is pending. -/
  | envelopeModeWrite (mode : BitVec 2)
  /-- R26. PENDING clears and ACTIVE takes the new mode once every step is done. -/
  | envelopeTransitionDone
  /-- R68. A SETC to WINDOW sets the slip limit for every engine at S's retirement. -/
  | windowWrite (n : Nat) (v : W64)
  /-- R39. A SETC to SEED updates the package's copy of the job's SEED, ordered against enqueues. -/
  | seedWrite (job : W16) (v : W64)
  /-- R270. Installs or removes the trap-frame area after the placement check. -/
  | trapFramesWrite (n : Nat) (v : W64)
  /-- R279. Arms or disarms a precise stop at a FRAME value. -/
  | stopAtWrite (tile : Nat) (v : W64)
  /-- R288. A supervisor SETC of 0 clears a DETCAUSE entry or the summary. -/
  | detcauseClear (tile : Nat) (num : BitVec 9)
  /-- R120. A supervisor write of a range register takes effect for later words. -/
  | rangeRegisterWrite (n : Nat) (num : BitVec 9) (v : W64)
  /-- R94. A SETC clears flags whose bits are written as 1. -/
  | arithFlagsWrite (tile : Nat) (v : W64)
  /-- R126. A supervisor write to a valid tile-table QCW grows a CONTQ in place or clears VALID of an empty queue. -/
  | qcwWrite (ia : Nat) (bytes : List Byte)
  /-- R85. Package reset zeroes pips, renumbers enabled clusters and sets reset values. -/
  | packageReset
  /-- R293. At power-on the boot ROM verifies each firmware image, or leaves the package in RECOVERY. -/
  | boot (flash : Flash)
  /-- R301. At 115 °C a hardware trip removes core power. -/
  | thermalTrip (temp : Nat)
  /-- R301. At 100 or 110 °C the management controller requests COOL or SERVICE. -/
  | thermalModeRequest (temp : Nat)
  /-- R299. The power controller gates array steps and vector issue to hold current and power limits. -/
  | powerGating (gated : Nat) (watts : Nat)
  /-- R303. Every 2^32 FRAME cycles each monitor entry is republished and its state updated. -/
  | ageingMonitorUpdate (monitor : Nat) (oscKhz : W32) (margin : W16) (eolDays : Nat)
  /-- R29. A failing tile is replaced by a spare, or marked offline. -/
  | tileFailure (tile : Nat)
  /-- R30. A tile is drained, its tasks are pre-empted and its slice is moved to a spare. -/
  | tileService (tile : Nat)
  /-- R30. An HBM channel's pages are migrated and the channel is drained. -/
  | hbmChannelService (freeFrames : Nat) (channel : Nat)
  /-- R30. An LPDDR channel's pages are migrated and the channel is drained. -/
  | lpddrChannelService (freeFrames : Nat) (channel : Nat)
  /-- R30. A CXL port's pooled pages migrate and the port is taken down. -/
  | cxlPortService (freeFrames : Nat) (port : Nat)
  /-- R30. A fabric port passes through DRAINING, SERVICE and TRAINING back to UP. -/
  | fabricPortService (port : Nat) (phase : PortPhase)
  /-- R30. A channel drain completes and the capacity counts fall. -/
  | drainComplete (unit : DrainUnit)
  /-- R297. A unit's firmware image is verified, drained, loaded and resumed while requests are held. -/
  | firmwareReplacement (phase : FwPhase)
  /-- R294. The fused minimum SVN of a unit is raised to an accepted image's SVN. -/
  | svnMinimumRaise (unit : Byte) (svn : W32)
  /-- R296. The management controller returns a signed attestation report. -/
  | attestationRequest (nonce : Nat)
  /-- R141. Key material is loaded into a key-table index. -/
  | keyLoad (index : Nat)
  /-- R135. The home chip's fault processor installs or corrects an entry, or declares the fault unserviceable. -/
  | pageFaultMessage (fault : Nat) (service : FaultService)
  /-- R136. A page migration starts: new accesses are held, accepted accesses drain, and the contents are copied and re-encrypted. -/
  | pageMigration (page : Nat) (entry : W64)
  /-- R136. The leaf entry is replaced and the held accesses are performed at the new frame. -/
  | migrationComplete (page : Nat)
  /-- R147. The scrubber reports an uncorrectable unit to the home fault processor. -/
  | scrubberError (ia : Nat)
  /-- R143. The predictor updates scores, ranks the next layer and promotes experts. -/
  | expertHintApply
  /-- R167. The host's TAIL write releases its writes and lets the controller consume packets. -/
  | submissionTailWrite (queue : Nat) (tail : W32)
  /-- R235. The packet creates a job if needed and enqueues a task record. -/
  | launchTask (queue : Nat)
  /-- R239. The packet instantiates a graph template as a new job. -/
  | launchGraph (queue : Nat)
  /-- R236. The packet resets a tracking slot's counters across the domain. -/
  | trackReset (src : PacketSrc)
  /-- R236. The packet cancels every unfinished task of the job and discards its SEED. -/
  | endJob (src : PacketSrc)
  /-- R237. The host reads device memory by RDMA through a host window. -/
  | hostRdmaRead (via : HostVia) (ia : Nat) (len : Nat)
  /-- R237. The host writes device memory by RDMA through a host window. -/
  | hostRdmaWrite (via : HostVia) (ia : Nat) (bytes : List Byte)
  /-- R13. An Ethernet host port loses link and its queue pairs move to the other port. -/
  | hostPortDown (port : Nat)
  /-- R346. The receiving dispatch controller enqueues an AMSG record as a counted task. -/
  | amsgArrival (m : TaskMsg)
  /-- R420. The dispatch controller performs or refuses a dependence decrement. -/
  | taskDecrement (copy : Nat) (job : W16) (counted : Bool)
  /-- R42. Every lease is good; the task takes a lease reference and becomes READY. -/
  | stagingComplete (task : Nat)
  /-- R247. A free slot takes the first usable new task and its members are placed. -/
  | dispatch (cluster : Nat)
  /-- R54. A free slot relaunches a ready continuation record and restores the strand. -/
  | relaunch (n : Nat)
  /-- R246. A task that has waited longer than AGE_LIMIT moves to the next higher level. -/
  | priorityAgeing (task : Nat)
  /-- R246. A starved level-0 task causes the pre-emption of one running task of its cluster. -/
  | agePreemption (task : Nat)
  /-- R252. The scheduler pre-empts a task under SAVE or DISCARD for each strand. -/
  | preemption (task : Nat) (progress : List (Nat × Nat))
  /-- R252. Every member has its record, and the task moves to READY. -/
  | preemptionComplete (task : Nat)
  /-- R250. An idle cluster steals the oldest unpinned ready task from its busiest neighbour. -/
  | clusterSteal (cluster : Nat)
  /-- R251. Once per microsecond a package sends its load to each torus neighbour. -/
  | loadReport (chip : Nat) (load : Nat)
  /-- R251. The victim package gives its oldest unpinned never-run ready task, or refuses. -/
  | packageStealRequest (chip : Nat)
  /-- R251. A stolen task record enters STAGING on the thief package. -/
  | stolenTaskArrival (m : TaskMsg) (taskId : W32)
  /-- R48. After trailing engines run on, the continuation record is written and the slot freed. -/
  | departureCommit (n : Nat)
  /-- R54. A reply or event writes the record image and brings DEP toward zero. -/
  | replyArrival (m : Msg)
  /-- R379. A remote load or returning atomic request is performed at its home and a reply is sent. -/
  | remoteLoadRequest (m : Msg)
  /-- R370. A posted store is checked and performed at its home, or fails and is reported. -/
  | remoteStoreArrival (m : Msg)
  /-- R342. A remote atomic is checked and performed at its home. -/
  | remoteAmoArrival (m : Msg)
  /-- R373. A posted FLADD is applied at the home pip in arrival order. -/
  | remoteFladdArrival (m : Msg)
  /-- R401. A posted PUTF fills the future at its home and wakes its watchers. -/
  | remotePutfArrival (m : Msg)
  /-- R56. The home tests a remote GETF or FLWAIT, and holds a watch if the test fails. -/
  | remoteWaitRequest (m : Msg)
  /-- R56. A passing watch test, or a refusal, reaches the departed record. -/
  | watchAnswer (m : Msg)
  /-- R470. A failed posted write is reported to the issuing tile, and its task ends at its next event. -/
  | postedFailureReport (m : Msg)
  /-- R58. A back-off record becomes ready after 64 × 2^BACKOFF tile cycles. -/
  | backoffExpiry (tile : Nat) (rec : Nat)
  /-- R211. A deferred ACCSWAP exchanges the roles at the first quiescent cycle. -/
  | accswapAtQuiescence (tile : Nat)
  /-- R243. The task writes its completion record, decrements its successors and becomes DONE. -/
  | taskRetirement (task : Nat)
  /-- R257. Every PERIOD_NS the root starts a sillage pass down the tree. -/
  | wavePass
  /-- R257. A package snapshots its slot counters when the pass reaches it. -/
  | waveSnapshot (abandoned : Bool) (others : List (Nat × W64 × W64 × W64))
  /-- R258. A quiet signal readies the QWAIT records of the slot with status and loss count. -/
  | quietBroadcast (slot : Nat) (loss : W64)
  /-- R73. When every engine is held with no way forward, RING_DEADLOCK is trapped. -/
  | ringDeadlockDetect (n : Nat)
  /-- R276. A held error record is posted once the error queue has room. -/
  | heldErrorRecordPost (job : W16)
  /-- R280. When FRAME reaches FRAME_VAL the tile makes a precise stop. -/
  | stopAtExpiry (tile : Nat)
  /-- R283. Every 2^SAMPLE_LOG2 FRAME cycles a PC sample record is written. -/
  | traceSample (tile : Nat)
  /-- R280. A Heltis request stops one or more tiles at a named edge. -/
  | heltisStopRequest (tiles : List Nat) (frame : W64)
  /-- R282. A stopped tile resumes, and in-flight results land after their counts. -/
  | heltisResume (tile : Nat)
  /-- R280. Heltis reads or writes registers, memory or the stop image of a stopped tile. -/
  | heltisAccess (tile : Nat) (op : HeltisOp)
  /-- R289. Heltis requests a dump of a task. -/
  | heltisDumpRequest (task : Nat)
  /-- R21. A fabric link retrains outside a service action, changing LANES or STATE and raising RETRAINS. -/
  | linkRetraining (port : Nat) (lanes : BitVec 2) (state : BitVec 3)
  /-- R22. An Ethernet host port regains link and HOST_LINK.UPn becomes 1. -/
  | hostPortUp (port : Nat)
  /-- R11. A fault processor adds or releases a CXL dynamic capacity extent, changing the pooled capacity now mapped. -/
  | dynamicCapacityExtent (gib : Int)
  /-- R133. A fault processor page operation unmaps a valid entry and invalidates its cached copies, and is refused while the page is pinned. -/
  | pageUnmap (page : Nat)
  /-- R260. A lost or corrupt flit is resent with every later flit under go-back-8. -/
  | linkFlitLoss (port : Nat)
  /-- R261. A fabric port goes DOWN holding unacknowledged flits, which become loss records. -/
  | portDown (port : Nat) (lost : List Nat)
  deriving DecidableEq, Repr, Inhabited

end Sys2Proof
end

