-- ==== Sys2Proof/Decode.lean ====
section
/-! DEFINITION. The decoder of strand words (R304 to R315), total on any bytes and refusing by name in the order of R310,
and after it the encoder written from the same tables. Operand limits that lie inside a field (a reserved type code, an
order combination, a shift of 64 or more) are no matter of decoding here: the word decodes to its instruction, whose
meaning raises the exception R310 names. -/

namespace Sys2Proof

/-- Why a word decodes to no instruction (R310, R306). `operandSup` is OPERAND at a supervisor-only word. -/
inductive DecodeError where
  | truncated
  | reservedOp
  | dqExt
  | operand
  | operandSup
  deriving DecidableEq, Repr

/-- DQ nibble (R304). -/
def fQ (w : W32) : BitVec 4 := w.extractLsb' 28 4
/-- TAG and OP (R304). -/
def fOp (w : W32) : BitVec 8 := w.extractLsb' 20 8
/-- Field d (R305). -/
def fD (w : W32) : BitVec 5 := w.extractLsb' 15 5
/-- Field d naming a predicate (R307). -/
def fD3 (w : W32) : BitVec 3 := w.extractLsb' 15 3
/-- Policy bit fa (R305). -/
def fFa (w : W32) : Bool := w.getLsbD 14
/-- Field a (R305). -/
def fA (w : W32) : BitVec 5 := w.extractLsb' 9 5
/-- Policy bit fb (R305). -/
def fFb (w : W32) : Bool := w.getLsbD 8
/-- Field b (R305). -/
def fB (w : W32) : BitVec 5 := w.extractLsb' 3 5
/-- Field fn (R305). -/
def fFn (w : W32) : BitVec 3 := w.extractLsb' 0 3
/-- The size code in fn bits 1:0. -/
def fSize (w : W32) : BitVec 2 := w.extractLsb' 0 2
/-- Field imm9 (R305). -/
def fImm (w : W32) : BitVec 9 := w.extractLsb' 0 9
/-- The b register of PBR, BR and BX (R305). -/
def fB3 (w : W32) : BitVec 3 := w.extractLsb' 17 3
/-- ORD of the order field (R308). -/
def fOrd (w : W32) : BitVec 2 := w.extractLsb' 18 2
/-- SCOPE of the order field (R308). -/
def fScope (w : W32) : BitVec 2 := w.extractLsb' 16 2

/-- The bits that a row's format says must be zero are zero (R307). -/
def zeroAt (w : W32) (mask : Nat) : Bool := (w &&& BitVec.ofNat 32 mask) == 0#32

/-- A type code that VCMP reserves: 6 and 7, and the floating-point types for .LTU and .LEU (R315). -/
def vcmpReserved (w : W32) : Bool := 6 ≤ (fFn w).toNat || (4 ≤ (w.extractLsb' 20 3).toNat && 3 ≤ (fFn w).toNat)

/-- The two-word heads (R312): every engine steps over the pair together (R306). -/
def isTwoWordHead (w : W32) : Bool :=
  match (fOp w).toNat with
  | 0x0A => true
  | 0x0B => true
  | 0x0C => true
  | 0x0D => true
  | 0x0E => true
  | 0x11 => true
  | 0x15 => true
  | 0x19 => true
  | _ => false

/-- One-word instructions by TAG and OP (R312 to R315, R335, R369, R417). -/
def decodeOne (w : W32) : Except DecodeError Instr :=
  match (fOp w).toNat with
  | 0x00 => match (fFn w).toNat with
    | 0 => .ok (.add ⟨fQ w, fD w, fFa w, fA w, fFb w, fB w⟩)
    | 1 => .ok (.sub ⟨fQ w, fD w, fFa w, fA w, fFb w, fB w⟩)
    | 2 => .ok (.andW ⟨fQ w, fD w, fFa w, fA w, fFb w, fB w⟩)
    | 3 => .ok (.orW ⟨fQ w, fD w, fFa w, fA w, fFb w, fB w⟩)
    | 4 => .ok (.xorW ⟨fQ w, fD w, fFa w, fA w, fFb w, fB w⟩)
    | 5 => .ok (.shl ⟨fQ w, fD w, fFa w, fA w, fFb w, fB w⟩)
    | 6 => .ok (.shrl ⟨fQ w, fD w, fFa w, fA w, fFb w, fB w⟩)
    | _ => .ok (.shra ⟨fQ w, fD w, fFa w, fA w, fFb w, fB w⟩)
  | 0x01 => match (fFn w).toNat with
    | 0 => .ok (.mul ⟨fQ w, fD w, fFa w, fA w, fFb w, fB w⟩)
    | 1 => .ok (.mulh ⟨fQ w, fD w, fFa w, fA w, fFb w, fB w⟩)
    | 2 => .ok (.mulhu ⟨fQ w, fD w, fFa w, fA w, fFb w, fB w⟩)
    | 3 => .ok (.minW ⟨fQ w, fD w, fFa w, fA w, fFb w, fB w⟩)
    | 4 => .ok (.minu ⟨fQ w, fD w, fFa w, fA w, fFb w, fB w⟩)
    | 5 => .ok (.maxW ⟨fQ w, fD w, fFa w, fA w, fFb w, fB w⟩)
    | 6 => .ok (.maxu ⟨fQ w, fD w, fFa w, fA w, fFb w, fB w⟩)
    | _ => .error .reservedOp
  | 0x02 => match (fFn w).toNat with
    | 0 => .ok (.div ⟨fQ w, fD w, fFa w, fA w, fFb w, fB w⟩)
    | 1 => .ok (.divu ⟨fQ w, fD w, fFa w, fA w, fFb w, fB w⟩)
    | 2 => .ok (.rem ⟨fQ w, fD w, fFa w, fA w, fFb w, fB w⟩)
    | 3 => .ok (.remu ⟨fQ w, fD w, fFa w, fA w, fFb w, fB w⟩)
    | 4 => if zeroAt w 0x1F8 then .ok (.clz ⟨fQ w, fD w, fFa w, fA w⟩) else .error .operand
    | 5 => if zeroAt w 0x1F8 then .ok (.popc ⟨fQ w, fD w, fFa w, fA w⟩) else .error .operand
    | _ => .error .reservedOp
  | 0x03 => if zeroAt w 0xC0000 then .ok (.cmp ⟨fQ w, fD3 w, fFa w, fA w, fFb w, fB w, fFn w⟩) else (if 6 ≤ (fFn w).toNat then .error .reservedOp else .error .operand)
  | 0x04 => .ok (.sel ⟨fQ w, fD w, fFa w, fA w, fFb w, fB w, fFn w⟩)
  | 0x05 => .ok (.addi ⟨fQ w, fD w, fFa w, fA w, fImm w⟩)
  | 0x06 => .ok (.andi ⟨fQ w, fD w, fFa w, fA w, fImm w⟩)
  | 0x07 => .ok (.ori ⟨fQ w, fD w, fFa w, fA w, fImm w⟩)
  | 0x08 => .ok (.xori ⟨fQ w, fD w, fFa w, fA w, fImm w⟩)
  | 0x09 => .ok (.shli ⟨fQ w, fD w, fFa w, fA w, fImm w⟩)
  | 0x10 => .ok (.pbr (fQ w) (fB3 w) (w.extractLsb' 0 17))
  | 0x12 => .ok (.br (fQ w) (fB3 w) (w.extractLsb' 14 3) (w.getLsbD 13) (w.extractLsb' 0 13))
  | 0x13 => if zeroAt w 0x1E000 then .ok (.call (fQ w) (fB3 w) (w.extractLsb' 0 13)) else .error .operand
  | 0x14 => if zeroAt w 0xFE000 then .ok (.ret (fQ w) (w.extractLsb' 0 13)) else .error .operand
  | 0x16 => match (fFn w).toNat with
    | 0 => if zeroAt w 0xFFFF8 then .ok (.endW (fQ w)) else .error .operand
    | _ => .error .reservedOp
  | 0x17 => match (fFn w).toNat with
    | 0 => if zeroAt w 0xFFFF8 then .ok (.yield (fQ w)) else .error .operand
    | _ => .error .reservedOp
  | 0x18 => match (fFn w).toNat with
    | 0 => if zeroAt w 0xFFFF8 then .ok (.idem (fQ w)) else .error .operand
    | _ => .error .reservedOp
  | 0x1A => if zeroAt w 0xFFE00 then .ok (.trapW (fQ w) (fImm w)) else .error .operand
  | 0x1B => match (fFn w).toNat with
    | 0 => if zeroAt w 0xFFFF8 then .ok (.bkpt (fQ w)) else .error .operand
    | _ => .error .reservedOp
  | 0x1C => match (fFn w).toNat with
    | 0 => if zeroAt w 0xFFFF8 then .ok (.rte (fQ w)) else .error .operandSup
    | _ => .error .reservedOp
  | 0x20 => match (fFn w).toNat with
    | 0 => if zeroAt w 0xF81F8 then .ok (.spawn ⟨fQ w, fFa w, fA w⟩) else .error .operand
    | _ => .error .reservedOp
  | 0x21 => match (fFn w).toNat with
    | 0 => if zeroAt w 0xF81F8 then .ok (.tdec ⟨fQ w, fFa w, fA w⟩) else .error .operand
    | _ => .error .reservedOp
  | 0x22 => match (fFn w).toNat with
    | 0 => if zeroAt w 0xF8000 then .ok (.amsg ⟨fQ w, fFa w, fA w, fFb w, fB w⟩) else .error .operand
    | _ => .error .reservedOp
  | 0x23 => if zeroAt w 0x3FC then .ok (.ecmd (fQ w) (w.extractLsb' 16 4) (w.getLsbD 15) (w.extractLsb' 10 5) (w.extractLsb' 0 2)) else .error .operand
  | 0x24 => match (fFn w).toNat with
    | 0 => if zeroAt w 0xF8000 then .ok (.xpf ⟨fQ w, fFa w, fA w, fFb w, fB w⟩) else .error .operand
    | _ => .error .reservedOp
  | 0x25 => match (fFn w).toNat with
    | 0 => if zeroAt w 0xFFFF8 then .ok (.bar (fQ w)) else .error .operand
    | _ => .error .reservedOp
  | 0x26 => match (fFn w).toNat with
    | 0 => if zeroAt w 0x7FF8 then .ok (.qwait (fQ w) (fD w)) else .error .operand
    | _ => .error .reservedOp
  | 0x27 => match (fFn w).toNat with
    | 0 => if zeroAt w 0xFFFF8 then .ok (.accswap (fQ w)) else .error .operand
    | _ => .error .reservedOp
  | 0x28 => if zeroAt w 0x7E00 then .ok (.getc (fQ w) (fD w) (fImm w)) else .error .operand
  | 0x29 => if zeroAt w 0xF8000 then .ok (.setc (fQ w) (fFa w) (fA w) (fImm w)) else .error .operand
  | 0x2A => match (fFn w).toNat with
    | 0 => if zeroAt w 0x7FF8 then .ok (.rdcyc (fQ w) (fD w)) else .error .operand
    | _ => .error .reservedOp
  | 0x2B => match (fFn w).toNat with
    | 0 => if zeroAt w 0x7FF8 then .ok (.rdfrm (fQ w) (fD w)) else .error .operand
    | _ => .error .reservedOp
  | 0x2C => if zeroAt w 0xF8000 then .ok (.trmark (fQ w) (fFa w) (fA w) (fImm w)) else .error .operand
  | 0x2D => if zeroAt w 0x7E00 then .ok (.perfrd (fQ w) (fD w) (fImm w)) else .error .operand
  | 0x40 => .ok (.ld ⟨fQ w, w.extractLsb' 20 2, fD w, fFa w, fA w, fImm w⟩)
  | 0x41 => .ok (.ld ⟨fQ w, w.extractLsb' 20 2, fD w, fFa w, fA w, fImm w⟩)
  | 0x42 => .ok (.ld ⟨fQ w, w.extractLsb' 20 2, fD w, fFa w, fA w, fImm w⟩)
  | 0x43 => .ok (.ld ⟨fQ w, w.extractLsb' 20 2, fD w, fFa w, fA w, fImm w⟩)
  | 0x44 => .ok (.ldv ⟨fQ w, fD w, fFa w, fA w, fImm w⟩)
  | 0x45 => match (fFn w).toNat with
    | 0 => .ok (.ldvs ⟨fQ w, fD w, fFa w, fA w, fFb w, fB w⟩)
    | _ => .error .reservedOp
  | 0x46 => .ok (.ldvx ⟨fQ w, fD w, fFa w, fA w, fFb w, fB w, fFn w⟩)
  | 0x48 => .ok (.gld ⟨fQ w, w.extractLsb' 20 2, fD w, fFa w, fA w, fImm w⟩)
  | 0x49 => .ok (.gld ⟨fQ w, w.extractLsb' 20 2, fD w, fFa w, fA w, fImm w⟩)
  | 0x4A => .ok (.gld ⟨fQ w, w.extractLsb' 20 2, fD w, fFa w, fA w, fImm w⟩)
  | 0x4B => .ok (.gld ⟨fQ w, w.extractLsb' 20 2, fD w, fFa w, fA w, fImm w⟩)
  | 0x4C => .ok (.gldv ⟨fQ w, fD w, fFa w, fA w, fFb w, fB w, fFn w⟩)
  | 0x50 => match (fFn w).toNat with
    | 0 => if zeroAt w 0x1F8 then .ok (.getf ⟨fQ w, fD w, fFa w, fA w⟩) else .error .operand
    | _ => .error .reservedOp
  | 0x51 => match (fFn w).toNat with
    | 0 => if zeroAt w 0x1F8 then .ok (.flrd ⟨fQ w, fD w, fFa w, fA w⟩) else .error .operand
    | _ => .error .reservedOp
  | 0x52 => match (fFn w).toNat with
    | 0 => if zeroAt w 0xF8000 then .ok (.rngwait ⟨fQ w, fFa w, fA w, fFb w, fB w⟩) else .error .operand
    | _ => .error .reservedOp
  | 0x58 => match (fFn w).toNat with
    | 0 => if zeroAt w 0xFFF8 then .ok (.fenceL (fQ w) (fOrd w) (fScope w)) else .error .operand
    | _ => .error .reservedOp
  | 0x59 => match (fFn w).toNat with
    | 0 => if zeroAt w 0xFFFF8 then .ok (.markL (fQ w)) else .error .operand
    | _ => .error .reservedOp
  | 0x80 => .ok (.vadd ⟨fQ w, fD w, fFa w, fA w, fFb w, fB w, fFn w⟩)
  | 0x81 => .ok (.vsub ⟨fQ w, fD w, fFa w, fA w, fFb w, fB w, fFn w⟩)
  | 0x82 => .ok (.vmul ⟨fQ w, fD w, fFa w, fA w, fFb w, fB w, fFn w⟩)
  | 0x83 => .ok (.vfma ⟨fQ w, fD w, fFa w, fA w, fFb w, fB w, fFn w⟩)
  | 0x84 => .ok (.vfms ⟨fQ w, fD w, fFa w, fA w, fFb w, fB w, fFn w⟩)
  | 0x85 => .ok (.vmin ⟨fQ w, fD w, fFa w, fA w, fFb w, fB w, fFn w⟩)
  | 0x86 => .ok (.vmax ⟨fQ w, fD w, fFa w, fA w, fFb w, fB w, fFn w⟩)
  | 0x87 => if zeroAt w 0x1F8 then .ok (.vabs ⟨fQ w, fD w, fFa w, fA w, fFn w⟩) else (if 6 ≤ (fFn w).toNat then .error .reservedOp else .error .operand)
  | 0x88 => if zeroAt w 0x1F8 then .ok (.vneg ⟨fQ w, fD w, fFa w, fA w, fFn w⟩) else (if 6 ≤ (fFn w).toNat then .error .reservedOp else .error .operand)
  | 0x89 => match (fFn w).toNat with
    | 0 => .ok (.vand ⟨fQ w, fD w, fFa w, fA w, fFb w, fB w⟩)
    | _ => .error .reservedOp
  | 0x8A => match (fFn w).toNat with
    | 0 => .ok (.vor ⟨fQ w, fD w, fFa w, fA w, fFb w, fB w⟩)
    | _ => .error .reservedOp
  | 0x8B => match (fFn w).toNat with
    | 0 => .ok (.vxor ⟨fQ w, fD w, fFa w, fA w, fFb w, fB w⟩)
    | _ => .error .reservedOp
  | 0x8C => match (fFn w).toNat with
    | 0 => .ok (.vshl ⟨fQ w, fD w, fFa w, fA w, fFb w, fB w⟩)
    | _ => .error .reservedOp
  | 0x8D => match (fFn w).toNat with
    | 0 => .ok (.vshrL ⟨fQ w, fD w, fFa w, fA w, fFb w, fB w⟩)
    | 1 => .ok (.vshrA ⟨fQ w, fD w, fFa w, fA w, fFb w, fB w⟩)
    | _ => .error .reservedOp
  | 0x90 => if zeroAt w 0xC0000 then .ok (.vcmp ⟨fQ w, w.extractLsb' 20 3, fD3 w, fFa w, fA w, fFb w, fB w, fFn w⟩) else (if vcmpReserved w then .error .reservedOp else .error .operand)
  | 0x91 => if zeroAt w 0xC0000 then .ok (.vcmp ⟨fQ w, w.extractLsb' 20 3, fD3 w, fFa w, fA w, fFb w, fB w, fFn w⟩) else (if vcmpReserved w then .error .reservedOp else .error .operand)
  | 0x92 => if zeroAt w 0xC0000 then .ok (.vcmp ⟨fQ w, w.extractLsb' 20 3, fD3 w, fFa w, fA w, fFb w, fB w, fFn w⟩) else (if vcmpReserved w then .error .reservedOp else .error .operand)
  | 0x93 => if zeroAt w 0xC0000 then .ok (.vcmp ⟨fQ w, w.extractLsb' 20 3, fD3 w, fFa w, fA w, fFb w, fB w, fFn w⟩) else (if vcmpReserved w then .error .reservedOp else .error .operand)
  | 0x94 => if zeroAt w 0xC0000 then .ok (.vcmp ⟨fQ w, w.extractLsb' 20 3, fD3 w, fFa w, fA w, fFb w, fB w, fFn w⟩) else (if vcmpReserved w then .error .reservedOp else .error .operand)
  | 0x95 => if zeroAt w 0xC0000 then .ok (.vcmp ⟨fQ w, w.extractLsb' 20 3, fD3 w, fFa w, fA w, fFb w, fB w, fFn w⟩) else (if vcmpReserved w then .error .reservedOp else .error .operand)
  | 0x96 => .ok (.vsel ⟨fQ w, fD w, fFa w, fA w, fFb w, fB w, fFn w⟩)
  | 0x97 => match (fFn w).toNat with
    | 0 => if zeroAt w 0x1F8 then .ok (.vmov ⟨fQ w, fD w, fFa w, fA w⟩) else .error .operand
    | _ => .error .reservedOp
  | 0x98 => if zeroAt w 0x1F8 then .ok (.vbcast ⟨fQ w, fD w, fFa w, fA w, fFn w⟩) else (if 6 ≤ (fFn w).toNat then .error .reservedOp else .error .operand)
  | 0x99 => .ok (.vext ⟨fQ w, fD w, fFa w, fA w, fImm w⟩)
  | 0x9A => match (fFn w).toNat with
    | 0 => if zeroAt w 0x1F8 then .ok (.viota ⟨fQ w, fD w, fFa w, fA w⟩) else .error .operand
    | _ => .error .reservedOp
  | 0x9B => match (fFn w).toNat with
    | 0 => .ok (.vperm ⟨fQ w, fD w, fFa w, fA w, fFb w, fB w⟩)
    | _ => .error .reservedOp
  | 0x9C => .ok (.vrot ⟨fQ w, fD w, fFa w, fA w, fImm w⟩)
  | 0x9D => match (fFn w).toNat with
    | 0 => if zeroAt w 0x71F8 then .ok (.vpopc (fQ w) (fD w) (w.extractLsb' 9 3)) else .error .operand
    | _ => .error .reservedOp
  | 0x9E => if zeroAt w 0x100 then .ok (.vred ⟨fQ w, fD w, fFa w, fA w, fB w, fFn w⟩) else (if 6 ≤ (fFn w).toNat then .error .reservedOp else .error .operand)
  | 0x9F => if zeroAt w 0x100 then .ok (.vscan ⟨fQ w, fD w, fFa w, fA w, fB w, fFn w⟩) else (if 6 ≤ (fFn w).toNat then .error .reservedOp else .error .operand)
  | 0xA0 => .ok (.vcvt ⟨fQ w, fD w, fFa w, fA w, fFb w, fB w, fFn w⟩)
  | 0xA1 => if zeroAt w 0x100 then .ok (.vrnd ⟨fQ w, fD w, fFa w, fA w, fB w, fFn w⟩) else (if (fFn w).toNat < 3 ∨ 6 ≤ (fFn w).toNat then .error .reservedOp else .error .operand)
  | 0xA2 => if zeroAt w 0x1F8 then .ok (.vfexp ⟨fQ w, fD w, fFa w, fA w, fFn w⟩) else (if (fFn w).toNat < 3 ∨ 6 ≤ (fFn w).toNat then .error .reservedOp else .error .operand)
  | 0xA3 => .ok (.vscale ⟨fQ w, fD w, fFa w, fA w, fFb w, fB w, fFn w⟩)
  | 0xA4 => if zeroAt w 0x1F8 then .ok (.vgetexp ⟨fQ w, fD w, fFa w, fA w, fFn w⟩) else (if (fFn w).toNat < 3 ∨ 6 ≤ (fFn w).toNat then .error .reservedOp else .error .operand)
  | 0xA5 => if zeroAt w 0x1F8 then .ok (.vrcp ⟨fQ w, fD w, fFa w, fA w, fFn w⟩) else (if (fFn w).toNat < 3 ∨ 6 ≤ (fFn w).toNat then .error .reservedOp else .error .operand)
  | 0xA6 => if zeroAt w 0x1F8 then .ok (.vrsq ⟨fQ w, fD w, fFa w, fA w, fFn w⟩) else (if (fFn w).toNat < 3 ∨ 6 ≤ (fFn w).toNat then .error .reservedOp else .error .operand)
  | 0xA7 => if zeroAt w 0x1F8 then .ok (.vflog ⟨fQ w, fD w, fFa w, fA w, fFn w⟩) else (if (fFn w).toNat < 3 ∨ 6 ≤ (fFn w).toNat then .error .reservedOp else .error .operand)
  | 0xA8 => match (fFn w).toNat with
    | 0 => .ok (.vrand ⟨fQ w, fD w, fFa w, fA w, fFb w, fB w⟩)
    | _ => .error .reservedOp
  | 0xA9 => if zeroAt w 0x8 then .ok (.vsrnd ⟨fQ w, fD w, fFa w, fA w, fFb w, w.extractLsb' 4 4, fFn w⟩) else (if 6 ≤ (fFn w).toNat then .error .reservedOp else .error .operand)
  | 0xAA => if zeroAt w 0x8 then .ok (.vquant ⟨fQ w, fD w, fFa w, fA w, fFb w, w.extractLsb' 4 4, fFn w⟩) else (if 6 ≤ (fFn w).toNat then .error .reservedOp else .error .operand)
  | 0xAB => .ok (.vdeq ⟨fQ w, fD w, fFa w, fA w, fFb w, fB w, fFn w⟩)
  | 0xAC => match (fFn w).toNat with
    | 0 => .ok (.vxacc ⟨fQ w, fD w, fFa w, fA w, fFb w, fB w⟩)
    | _ => .error .reservedOp
  | 0xB0 => match (fFn w).toNat with
    | 0 => .ok (.accrd ⟨fQ w, fD w, fFa w, fA w, fFb w, fB w⟩)
    | _ => .error .reservedOp
  | 0xB1 => match (fFn w).toNat with
    | 0 => if zeroAt w 0xF8000 then .ok (.accclr ⟨fQ w, fFa w, fA w, fFb w, fB w⟩) else .error .operand
    | _ => .error .reservedOp
  | 0xB2 => match (fFn w).toNat with
    | 0 => if zeroAt w 0xF81F8 then .ok (.xclr ⟨fQ w, fFa w, fA w⟩) else .error .operand
    | _ => .error .reservedOp
  | 0xB3 => if zeroAt w 0xF8000 then .ok (.xaddv ⟨fQ w, fFa w, fA w, fFb w, fB w, fFn w⟩) else (if (fFn w).toNat < 2 ∨ 6 ≤ (fFn w).toNat then .error .reservedOp else .error .operand)
  | 0xB4 => if zeroAt w 0x1F8 then .ok (.xrd ⟨fQ w, fD w, fFa w, fA w, fFn w⟩) else (if (fFn w).toNat < 3 ∨ 6 ≤ (fFn w).toNat then .error .reservedOp else .error .operand)
  | 0xC0 => if (fFn w &&& 4#3) == 0#3 then (.ok (.st ⟨fQ w, fD w, fFa w, fA w, fFb w, fB w, fSize w⟩)) else .error .reservedOp
  | 0xC1 => match (fFn w).toNat with
    | 0 => .ok (.stv ⟨fQ w, fD w, fFa w, fA w, fFb w, fB w⟩)
    | _ => .error .reservedOp
  | 0xC2 => match (fFn w).toNat with
    | 0 => .ok (.stvs ⟨fQ w, fD w, fFa w, fA w, fFb w, fB w⟩)
    | _ => .error .reservedOp
  | 0xC3 => .ok (.stvx ⟨fQ w, fD w, fFa w, fA w, fFb w, fB w, fFn w⟩)
  | 0xC4 => if (fFn w &&& 4#3) == 0#3 then (.ok (.gst ⟨fQ w, fD w, fFa w, fA w, fFb w, fB w, fSize w⟩)) else .error .reservedOp
  | 0xC5 => .ok (.gstv ⟨fQ w, fD w, fFa w, fA w, fFb w, fB w, fFn w⟩)
  | 0xC6 => match (fFn w).toNat with
    | 0 => if zeroAt w 0xF8000 then .ok (.putf ⟨fQ w, fFa w, fA w, fFb w, fB w⟩) else .error .operand
    | _ => .error .reservedOp
  | 0xC7 => match (fFn w).toNat with
    | 0 => if zeroAt w 0x8000 then .ok (.fladd ⟨fQ w, fOrd w, fScope w, fFa w, fA w, fFb w, fB w⟩) else .error .operand
    | _ => .error .reservedOp
  | 0xC8 => if (fFn w &&& 6#3) == 0#3 then (if zeroAt w 0x8000 then .ok (.flwait ⟨fQ w, fOrd w, fScope w, fFa w, fA w, fFb w, fB w⟩ (w.getLsbD 0)) else .error .operand) else .error .reservedOp
  | 0xC9 => match (fFn w).toNat with
    | 0 => if zeroAt w 0xF81F8 then .ok (.rngrel ⟨fQ w, fFa w, fA w⟩) else .error .operand
    | _ => .error .reservedOp
  | 0xCA => match (fFn w).toNat with
    | 0 => if zeroAt w 0xF8000 then .ok (.pub ⟨fQ w, fFa w, fA w, fFb w, fB w⟩) else .error .operand
    | _ => .error .reservedOp
  | 0xD8 => match (fFn w).toNat with
    | 0 => if zeroAt w 0xFFF8 then .ok (.fenceW (fQ w) (fOrd w) (fScope w)) else .error .operand
    | _ => .error .reservedOp
  | 0xD9 => match (fFn w).toNat with
    | 0 => if zeroAt w 0xFFFF8 then .ok (.markW (fQ w)) else .error .operand
    | _ => .error .reservedOp
  | 0xE0 => if (fFn w &&& 4#3) == 0#3 then (.ok (.amoAdd ⟨fQ w, fD w, fFa w, fA w, fFb w, fB w, fSize w⟩)) else .error .reservedOp
  | 0xE1 => if (fFn w &&& 4#3) == 0#3 then (.ok (.amoAnd ⟨fQ w, fD w, fFa w, fA w, fFb w, fB w, fSize w⟩)) else .error .reservedOp
  | 0xE2 => if (fFn w &&& 4#3) == 0#3 then (.ok (.amoOr ⟨fQ w, fD w, fFa w, fA w, fFb w, fB w, fSize w⟩)) else .error .reservedOp
  | 0xE3 => if (fFn w &&& 4#3) == 0#3 then (.ok (.amoXor ⟨fQ w, fD w, fFa w, fA w, fFb w, fB w, fSize w⟩)) else .error .reservedOp
  | 0xE4 => if (fFn w &&& 4#3) == 0#3 then (.ok (.amoMin ⟨fQ w, fD w, fFa w, fA w, fFb w, fB w, fSize w⟩)) else .error .reservedOp
  | 0xE5 => if (fFn w &&& 4#3) == 0#3 then (.ok (.amoMax ⟨fQ w, fD w, fFa w, fA w, fFb w, fB w, fSize w⟩)) else .error .reservedOp
  | 0xE6 => if (fFn w &&& 4#3) == 0#3 then (.ok (.amoMinu ⟨fQ w, fD w, fFa w, fA w, fFb w, fB w, fSize w⟩)) else .error .reservedOp
  | 0xE7 => if (fFn w &&& 4#3) == 0#3 then (.ok (.amoMaxu ⟨fQ w, fD w, fFa w, fA w, fFb w, fB w, fSize w⟩)) else .error .reservedOp
  | 0xE8 => if (fFn w &&& 4#3) == 0#3 then (.ok (.amoSwap ⟨fQ w, fD w, fFa w, fA w, fFb w, fB w, fSize w⟩)) else .error .reservedOp
  | 0xE9 => if (fFn w &&& 4#3) == 0#3 then (.ok (.amoCas ⟨fQ w, fD w, fFa w, fA w, fFb w, fB w, fSize w⟩)) else .error .reservedOp
  | 0xEA => match (fFn w).toNat with
    | 2 => .ok (.amoFmin ⟨fQ w, fD w, fFa w, fA w, fFb w, fB w⟩)
    | _ => .error .reservedOp
  | 0xEB => match (fFn w).toNat with
    | 2 => .ok (.amoFmax ⟨fQ w, fD w, fFa w, fA w, fFb w, fB w⟩)
    | _ => .error .reservedOp
  | 0xEC => match (fFn w).toNat with
    | 2 => .ok (.amoFadd ⟨fQ w, fD w, fFa w, fA w, fFb w, fB w⟩)
    | _ => .error .reservedOp
  | 0xF0 => if (fFn w &&& 4#3) == 0#3 then (if zeroAt w 0xF8000 then .ok (.amoAddNr ⟨fQ w, fFa w, fA w, fFb w, fB w, fSize w⟩) else .error .operand) else .error .reservedOp
  | 0xF1 => if (fFn w &&& 4#3) == 0#3 then (if zeroAt w 0xF8000 then .ok (.amoAndNr ⟨fQ w, fFa w, fA w, fFb w, fB w, fSize w⟩) else .error .operand) else .error .reservedOp
  | 0xF2 => if (fFn w &&& 4#3) == 0#3 then (if zeroAt w 0xF8000 then .ok (.amoOrNr ⟨fQ w, fFa w, fA w, fFb w, fB w, fSize w⟩) else .error .operand) else .error .reservedOp
  | 0xF3 => if (fFn w &&& 4#3) == 0#3 then (if zeroAt w 0xF8000 then .ok (.amoXorNr ⟨fQ w, fFa w, fA w, fFb w, fB w, fSize w⟩) else .error .operand) else .error .reservedOp
  | 0xF4 => if (fFn w &&& 4#3) == 0#3 then (if zeroAt w 0xF8000 then .ok (.amoMinNr ⟨fQ w, fFa w, fA w, fFb w, fB w, fSize w⟩) else .error .operand) else .error .reservedOp
  | 0xF5 => if (fFn w &&& 4#3) == 0#3 then (if zeroAt w 0xF8000 then .ok (.amoMaxNr ⟨fQ w, fFa w, fA w, fFb w, fB w, fSize w⟩) else .error .operand) else .error .reservedOp
  | 0xF6 => if (fFn w &&& 4#3) == 0#3 then (if zeroAt w 0xF8000 then .ok (.amoMinuNr ⟨fQ w, fFa w, fA w, fFb w, fB w, fSize w⟩) else .error .operand) else .error .reservedOp
  | 0xF7 => if (fFn w &&& 4#3) == 0#3 then (if zeroAt w 0xF8000 then .ok (.amoMaxuNr ⟨fQ w, fFa w, fA w, fFb w, fB w, fSize w⟩) else .error .operand) else .error .reservedOp
  | 0xF8 => if (fFn w &&& 4#3) == 0#3 then (if zeroAt w 0xF8000 then .ok (.amoSwapNr ⟨fQ w, fFa w, fA w, fFb w, fB w, fSize w⟩) else .error .operand) else .error .reservedOp
  | 0xFA => match (fFn w).toNat with
    | 2 => if zeroAt w 0xF8000 then .ok (.amoFminNr ⟨fQ w, fFa w, fA w, fFb w, fB w⟩) else .error .operand
    | _ => .error .reservedOp
  | 0xFB => match (fFn w).toNat with
    | 2 => if zeroAt w 0xF8000 then .ok (.amoFmaxNr ⟨fQ w, fFa w, fA w, fFb w, fB w⟩) else .error .operand
    | _ => .error .reservedOp
  | 0xFC => match (fFn w).toNat with
    | 2 => if zeroAt w 0xF8000 then .ok (.amoFaddNr ⟨fQ w, fFa w, fA w, fFb w, fB w⟩) else .error .operand
    | _ => .error .reservedOp
  | 0xFD => if zeroAt w 0xF8000 then .ok (.amoXadd ⟨fQ w, fFa w, fA w, fFb w, fB w, fFn w⟩) else (if 5 ≤ (fFn w).toNat then .error .reservedOp else .error .operand)
  | 0x3F => if zeroAt w 0xFFE00 then .ok (.skip (fQ w) (w.extractLsb' 26 2) (fImm w)) else .error .operand
  | 0x7F => if zeroAt w 0xFFE00 then .ok (.skip (fQ w) (w.extractLsb' 26 2) (fImm w)) else .error .operand
  | 0xBF => if zeroAt w 0xFFE00 then .ok (.skip (fQ w) (w.extractLsb' 26 2) (fImm w)) else .error .operand
  | 0xFF => if zeroAt w 0xFFE00 then .ok (.skip (fQ w) (w.extractLsb' 26 2) (fImm w)) else .error .operand
  | _ => .error .reservedOp

/-- Two-word instructions: the head and the 28 immediate bits of the extension word (R306, R312). -/
def decodeTwo (w : W32) (x : BitVec 28) : Except DecodeError Instr :=
  match (fOp w).toNat with
  | 0x0A => if zeroAt w 0x7E00 then .ok (.movi (fQ w) (fD w) (fImm w ++ x)) else .error .operand
  | 0x0B => if zeroAt w 0x1FF then .ok (.movhi ⟨fQ w, fD w, fFa w, fA w, x⟩) else .error .operand
  | 0x0C => .ok (.lea (fQ w) (fD w) (fFa w) (fA w) (fImm w ++ x))
  | 0x0D => if zeroAt w 0x1FF && (x.extractLsb' 12 16 == 0#16) then .ok (.bfx ⟨fQ w, fD w, fFa w, fA w, x.extractLsb' 0 6, x.extractLsb' 6 6⟩) else .error .operand
  | 0x0E => if zeroAt w 0x1FF && (x.extractLsb' 12 16 == 0#16) then .ok (.bfi ⟨fQ w, fD w, fFa w, fA w, x.extractLsb' 0 6, x.extractLsb' 6 6⟩) else .error .operand
  | 0x11 => if w.getLsbD 16 then (if zeroAt w 0x81FF then .ok (.pbrxReg (fQ w) (fB3 w) (fFa w) (fA w) x) else .error .operand)
    else (if zeroAt w 0xFFFF then .ok (.pbrxImm (fQ w) (fB3 w) x) else .error .operand)
  | 0x15 => if zeroAt w 0x181FF && (x.extractLsb' 16 12 == 0#12) then .ok (.loopW (fQ w) (fB3 w) (fFa w) (fA w) (x.extractLsb' 0 16)) else .error .operand
  | 0x19 => if zeroAt w 0xFFEF0 then .ok (.live (fQ w) (w.getLsbD 8) (w.extractLsb' 0 4 ++ x)) else .error .operand
  | _ => .error .reservedOp

/-- A head word and, where it needs one, its extension word: the instruction and its length in words. -/
def decodeWords (w : W32) (ext : Option W32) : Except DecodeError (Instr × Nat) :=
  if isTwoWordHead w then
    match ext with
    | none => .error .truncated
    | some x =>
      if x.extractLsb' 28 4 == 0#4 then
        match decodeTwo w (x.extractLsb' 0 28) with
        | .ok i => .ok (i, 2)
        | .error e => .error e
      else .error .dqExt
  else
    match decodeOne w with
    | .ok i => .ok (i, 1)
    | .error e => .error e

/-- Four bytes as a little-endian word (R304). -/
def wordOfBytes (b0 b1 b2 b3 : Byte) : W32 := b3 ++ b2 ++ b1 ++ b0

/-- The decoder on bytes: the instruction and the bytes after it. -/
def decode : List Byte → Except DecodeError (Instr × List Byte)
  | b0 :: b1 :: b2 :: b3 :: rest =>
    let w := wordOfBytes b0 b1 b2 b3
    let ext := match rest with
      | c0 :: c1 :: c2 :: c3 :: _ => some (wordOfBytes c0 c1 c2 c3)
      | _ => none
    match decodeWords w ext with
    | .ok (i, n) => .ok (i, rest.drop (4 * (n - 1)))
    | .error e => .error e
  | _ => .error .truncated

/-- The bytes of a word, little-endian. -/
def bytesOfWord (w : W32) : List Byte := [w.extractLsb' 0 8, w.extractLsb' 8 8, w.extractLsb' 16 8, w.extractLsb' 24 8]

/-- The instruction that the decoder reads from the bits `w` of a table row: word 0 in bits 31:0, the extension word,
zero above `nbits`, in bits 63:32. -/
def decodeTableWord (nbits w : Nat) : Option Instr :=
  let v := w % 2 ^ nbits
  match decode (bytesOfWord (BitVec.ofNat 32 v) ++ bytesOfWord (BitVec.ofNat 32 (v / 2 ^ 32))) with
  | .ok (i, _) => some i
  | .error _ => none

/-- Format RR (R305). -/
def packRR (q : BitVec 4) (op : BitVec 8) (d : BitVec 5) (fa : Bool) (a : BitVec 5) (fb : Bool) (b : BitVec 5) (fn : BitVec 3) : W32 :=
  q ++ op ++ d ++ BitVec.ofBool fa ++ a ++ BitVec.ofBool fb ++ b ++ fn
/-- Format RI (R305). -/
def packRI (q : BitVec 4) (op : BitVec 8) (d : BitVec 5) (fa : Bool) (a : BitVec 5) (imm : BitVec 9) : W32 :=
  q ++ op ++ d ++ BitVec.ofBool fa ++ a ++ imm
/-- Formats PBR, BR, BX and ECMD: a three-bit field at 19:17 and seventeen bits below it (R305). -/
def packB (q : BitVec 4) (op : BitVec 8) (b : BitVec 3) (low : BitVec 17) : W32 :=
  q ++ op ++ b ++ low

/-- The word or words of an instruction; none for commands and device events, which have no word. -/
def encode (i : Instr) : Option (W32 × Option W32) :=
  match i with
  | .add o => some (packRR o.q 0x00#8 o.d o.fa o.a o.fb o.b 0#3, none)
  | .sub o => some (packRR o.q 0x00#8 o.d o.fa o.a o.fb o.b 1#3, none)
  | .andW o => some (packRR o.q 0x00#8 o.d o.fa o.a o.fb o.b 2#3, none)
  | .orW o => some (packRR o.q 0x00#8 o.d o.fa o.a o.fb o.b 3#3, none)
  | .xorW o => some (packRR o.q 0x00#8 o.d o.fa o.a o.fb o.b 4#3, none)
  | .shl o => some (packRR o.q 0x00#8 o.d o.fa o.a o.fb o.b 5#3, none)
  | .shrl o => some (packRR o.q 0x00#8 o.d o.fa o.a o.fb o.b 6#3, none)
  | .shra o => some (packRR o.q 0x00#8 o.d o.fa o.a o.fb o.b 7#3, none)
  | .mul o => some (packRR o.q 0x01#8 o.d o.fa o.a o.fb o.b 0#3, none)
  | .mulh o => some (packRR o.q 0x01#8 o.d o.fa o.a o.fb o.b 1#3, none)
  | .mulhu o => some (packRR o.q 0x01#8 o.d o.fa o.a o.fb o.b 2#3, none)
  | .minW o => some (packRR o.q 0x01#8 o.d o.fa o.a o.fb o.b 3#3, none)
  | .minu o => some (packRR o.q 0x01#8 o.d o.fa o.a o.fb o.b 4#3, none)
  | .maxW o => some (packRR o.q 0x01#8 o.d o.fa o.a o.fb o.b 5#3, none)
  | .maxu o => some (packRR o.q 0x01#8 o.d o.fa o.a o.fb o.b 6#3, none)
  | .div o => some (packRR o.q 0x02#8 o.d o.fa o.a o.fb o.b 0#3, none)
  | .divu o => some (packRR o.q 0x02#8 o.d o.fa o.a o.fb o.b 1#3, none)
  | .rem o => some (packRR o.q 0x02#8 o.d o.fa o.a o.fb o.b 2#3, none)
  | .remu o => some (packRR o.q 0x02#8 o.d o.fa o.a o.fb o.b 3#3, none)
  | .clz o => some (packRR o.q 0x02#8 o.d o.fa o.a false 0#5 4#3, none)
  | .popc o => some (packRR o.q 0x02#8 o.d o.fa o.a false 0#5 5#3, none)
  | .cmp o => some (packRR o.q 0x03#8 (0#2 ++ o.d) o.fa o.a o.fb o.b o.cc, none)
  | .sel o => some (packRR o.q 0x04#8 o.d o.fa o.a o.fb o.b o.fn, none)
  | .addi o => some (packRI o.q 0x05#8 o.d o.fa o.a o.imm, none)
  | .andi o => some (packRI o.q 0x06#8 o.d o.fa o.a o.imm, none)
  | .ori o => some (packRI o.q 0x07#8 o.d o.fa o.a o.imm, none)
  | .xori o => some (packRI o.q 0x08#8 o.d o.fa o.a o.imm, none)
  | .shli o => some (packRI o.q 0x09#8 o.d o.fa o.a o.imm, none)
  | .movi q d imm => some (packRI q 0x0A#8 d false 0#5 (imm.extractLsb' 28 9), some (0#4 ++ imm.extractLsb' 0 28))
  | .movhi o => some (packRI o.q 0x0B#8 o.d o.fa o.a 0#9, some (0#4 ++ o.imm))
  | .lea q d fa a imm => some (packRI q 0x0C#8 d fa a (imm.extractLsb' 28 9), some (0#4 ++ imm.extractLsb' 0 28))
  | .bfx o => some (packRI o.q 0x0D#8 o.d o.fa o.a 0#9, some (0#20 ++ o.len1 ++ o.pos))
  | .bfi o => some (packRI o.q 0x0E#8 o.d o.fa o.a 0#9, some (0#20 ++ o.len1 ++ o.pos))
  | .pbr q b off => some (packB q 0x10#8 b off, none)
  | .pbrxImm q b imm => some (packB q 0x11#8 b 0#17, some (0#4 ++ imm))
  | .pbrxReg q b fa a imm => some (packB q 0x11#8 b (0b10#2 ++ BitVec.ofBool fa ++ a ++ 0#9), some (0#4 ++ imm))
  | .br q b p pol hint => some (packB q 0x12#8 b (p ++ BitVec.ofBool pol ++ hint), none)
  | .call q b hint => some (packB q 0x13#8 b (0#4 ++ hint), none)
  | .ret q hint => some (packB q 0x14#8 0#3 (0#4 ++ hint), none)
  | .loopW q b fa a len => some (packB q 0x15#8 b (0b00#2 ++ BitVec.ofBool fa ++ a ++ 0#9), some (0#16 ++ len))
  | .endW q => some (packRR q 0x16#8 0#5 false 0#5 false 0#5 0#3, none)
  | .yield q => some (packRR q 0x17#8 0#5 false 0#5 false 0#5 0#3, none)
  | .idem q => some (packRR q 0x18#8 0#5 false 0#5 false 0#5 0#3, none)
  | .live q half mask => some (packRI q 0x19#8 0#5 false 0#5 (BitVec.ofBool half ++ 0#4 ++ mask.extractLsb' 28 4), some (0#4 ++ mask.extractLsb' 0 28))
  | .trapW q imm => some (packRI q 0x1A#8 0#5 false 0#5 imm, none)
  | .bkpt q => some (packRR q 0x1B#8 0#5 false 0#5 false 0#5 0#3, none)
  | .rte q => some (packRR q 0x1C#8 0#5 false 0#5 false 0#5 0#3, none)
  | .spawn o => some (packRR o.q 0x20#8 0#5 o.fa o.a false 0#5 0#3, none)
  | .tdec o => some (packRR o.q 0x21#8 0#5 o.fa o.a false 0#5 0#3, none)
  | .amsg o => some (packRR o.q 0x22#8 0#5 o.fa o.a o.fb o.b 0#3, none)
  | .ecmd q eng fa a queue => some (packB q 0x23#8 (eng.extractLsb' 1 3) (eng.extractLsb' 0 1 ++ BitVec.ofBool fa ++ a ++ 0#8 ++ queue), none)
  | .xpf o => some (packRR o.q 0x24#8 0#5 o.fa o.a o.fb o.b 0#3, none)
  | .bar q => some (packRR q 0x25#8 0#5 false 0#5 false 0#5 0#3, none)
  | .qwait q d => some (packRR q 0x26#8 d false 0#5 false 0#5 0#3, none)
  | .accswap q => some (packRR q 0x27#8 0#5 false 0#5 false 0#5 0#3, none)
  | .getc q d imm => some (packRI q 0x28#8 d false 0#5 imm, none)
  | .setc q fa a imm => some (packRI q 0x29#8 0#5 fa a imm, none)
  | .rdcyc q d => some (packRR q 0x2A#8 d false 0#5 false 0#5 0#3, none)
  | .rdfrm q d => some (packRR q 0x2B#8 d false 0#5 false 0#5 0#3, none)
  | .trmark q fa a imm => some (packRI q 0x2C#8 0#5 fa a imm, none)
  | .perfrd q d imm => some (packRI q 0x2D#8 d false 0#5 imm, none)
  | .skip q e imm => some (packRI q (e ++ 0b111111#6) 0#5 false 0#5 imm, none)
  | .ld o => some (packRI o.q (0x10#6 ++ o.size) o.d o.fa o.a o.imm, none)
  | .ldv o => some (packRI o.q 0x44#8 o.d o.fa o.a o.imm, none)
  | .ldvs o => some (packRR o.q 0x45#8 o.d o.fa o.a o.fb o.b 0#3, none)
  | .ldvx o => some (packRR o.q 0x46#8 o.d o.fa o.a o.fb o.b o.fn, none)
  | .gld o => some (packRI o.q (0x12#6 ++ o.size) o.d o.fa o.a o.imm, none)
  | .gldv o => some (packRR o.q 0x4C#8 o.d o.fa o.a o.fb o.b o.fn, none)
  | .getf o => some (packRR o.q 0x50#8 o.d o.fa o.a false 0#5 0#3, none)
  | .flrd o => some (packRR o.q 0x51#8 o.d o.fa o.a false 0#5 0#3, none)
  | .rngwait o => some (packRR o.q 0x52#8 0#5 o.fa o.a o.fb o.b 0#3, none)
  | .fenceL q ord scope => some (packRR q 0x58#8 (ord ++ scope ++ 0#1) false 0#5 false 0#5 0#3, none)
  | .markL q => some (packRR q 0x59#8 0#5 false 0#5 false 0#5 0#3, none)
  | .st o => some (packRR o.q 0xC0#8 o.d o.fa o.a o.fb o.b (0#1 ++ o.size), none)
  | .stv o => some (packRR o.q 0xC1#8 o.d o.fa o.a o.fb o.b 0#3, none)
  | .stvs o => some (packRR o.q 0xC2#8 o.d o.fa o.a o.fb o.b 0#3, none)
  | .stvx o => some (packRR o.q 0xC3#8 o.d o.fa o.a o.fb o.b o.fn, none)
  | .gst o => some (packRR o.q 0xC4#8 o.d o.fa o.a o.fb o.b (0#1 ++ o.size), none)
  | .gstv o => some (packRR o.q 0xC5#8 o.d o.fa o.a o.fb o.b o.fn, none)
  | .putf o => some (packRR o.q 0xC6#8 0#5 o.fa o.a o.fb o.b 0#3, none)
  | .fladd o => some (packRR o.q 0xC7#8 (o.ord ++ o.scope ++ 0#1) o.fa o.a o.fb o.b 0#3, none)
  | .flwait o sub => some (packRR o.q 0xC8#8 (o.ord ++ o.scope ++ 0#1) o.fa o.a o.fb o.b (0#2 ++ BitVec.ofBool sub), none)
  | .rngrel o => some (packRR o.q 0xC9#8 0#5 o.fa o.a false 0#5 0#3, none)
  | .pub o => some (packRR o.q 0xCA#8 0#5 o.fa o.a o.fb o.b 0#3, none)
  | .fenceW q ord scope => some (packRR q 0xD8#8 (ord ++ scope ++ 0#1) false 0#5 false 0#5 0#3, none)
  | .markW q => some (packRR q 0xD9#8 0#5 false 0#5 false 0#5 0#3, none)
  | .amoAdd o => some (packRR o.q 0xE0#8 o.d o.fa o.a o.fb o.b (0#1 ++ o.size), none)
  | .amoAnd o => some (packRR o.q 0xE1#8 o.d o.fa o.a o.fb o.b (0#1 ++ o.size), none)
  | .amoOr o => some (packRR o.q 0xE2#8 o.d o.fa o.a o.fb o.b (0#1 ++ o.size), none)
  | .amoXor o => some (packRR o.q 0xE3#8 o.d o.fa o.a o.fb o.b (0#1 ++ o.size), none)
  | .amoMin o => some (packRR o.q 0xE4#8 o.d o.fa o.a o.fb o.b (0#1 ++ o.size), none)
  | .amoMax o => some (packRR o.q 0xE5#8 o.d o.fa o.a o.fb o.b (0#1 ++ o.size), none)
  | .amoMinu o => some (packRR o.q 0xE6#8 o.d o.fa o.a o.fb o.b (0#1 ++ o.size), none)
  | .amoMaxu o => some (packRR o.q 0xE7#8 o.d o.fa o.a o.fb o.b (0#1 ++ o.size), none)
  | .amoSwap o => some (packRR o.q 0xE8#8 o.d o.fa o.a o.fb o.b (0#1 ++ o.size), none)
  | .amoCas o => some (packRR o.q 0xE9#8 o.d o.fa o.a o.fb o.b (0#1 ++ o.size), none)
  | .amoFmin o => some (packRR o.q 0xEA#8 o.d o.fa o.a o.fb o.b 2#3, none)
  | .amoFmax o => some (packRR o.q 0xEB#8 o.d o.fa o.a o.fb o.b 2#3, none)
  | .amoFadd o => some (packRR o.q 0xEC#8 o.d o.fa o.a o.fb o.b 2#3, none)
  | .amoAddNr o => some (packRR o.q 0xF0#8 0#5 o.fa o.a o.fb o.b (0#1 ++ o.size), none)
  | .amoAndNr o => some (packRR o.q 0xF1#8 0#5 o.fa o.a o.fb o.b (0#1 ++ o.size), none)
  | .amoOrNr o => some (packRR o.q 0xF2#8 0#5 o.fa o.a o.fb o.b (0#1 ++ o.size), none)
  | .amoXorNr o => some (packRR o.q 0xF3#8 0#5 o.fa o.a o.fb o.b (0#1 ++ o.size), none)
  | .amoMinNr o => some (packRR o.q 0xF4#8 0#5 o.fa o.a o.fb o.b (0#1 ++ o.size), none)
  | .amoMaxNr o => some (packRR o.q 0xF5#8 0#5 o.fa o.a o.fb o.b (0#1 ++ o.size), none)
  | .amoMinuNr o => some (packRR o.q 0xF6#8 0#5 o.fa o.a o.fb o.b (0#1 ++ o.size), none)
  | .amoMaxuNr o => some (packRR o.q 0xF7#8 0#5 o.fa o.a o.fb o.b (0#1 ++ o.size), none)
  | .amoSwapNr o => some (packRR o.q 0xF8#8 0#5 o.fa o.a o.fb o.b (0#1 ++ o.size), none)
  | .amoFminNr o => some (packRR o.q 0xFA#8 0#5 o.fa o.a o.fb o.b 2#3, none)
  | .amoFmaxNr o => some (packRR o.q 0xFB#8 0#5 o.fa o.a o.fb o.b 2#3, none)
  | .amoFaddNr o => some (packRR o.q 0xFC#8 0#5 o.fa o.a o.fb o.b 2#3, none)
  | .amoXadd o => some (packRR o.q 0xFD#8 0#5 o.fa o.a o.fb o.b o.fn, none)
  | .vadd o => some (packRR o.q 0x80#8 o.d o.fa o.a o.fb o.b o.fn, none)
  | .vsub o => some (packRR o.q 0x81#8 o.d o.fa o.a o.fb o.b o.fn, none)
  | .vmul o => some (packRR o.q 0x82#8 o.d o.fa o.a o.fb o.b o.fn, none)
  | .vfma o => some (packRR o.q 0x83#8 o.d o.fa o.a o.fb o.b o.fn, none)
  | .vfms o => some (packRR o.q 0x84#8 o.d o.fa o.a o.fb o.b o.fn, none)
  | .vmin o => some (packRR o.q 0x85#8 o.d o.fa o.a o.fb o.b o.fn, none)
  | .vmax o => some (packRR o.q 0x86#8 o.d o.fa o.a o.fb o.b o.fn, none)
  | .vabs o => some (packRR o.q 0x87#8 o.d o.fa o.a false 0#5 o.t, none)
  | .vneg o => some (packRR o.q 0x88#8 o.d o.fa o.a false 0#5 o.t, none)
  | .vand o => some (packRR o.q 0x89#8 o.d o.fa o.a o.fb o.b 0#3, none)
  | .vor o => some (packRR o.q 0x8A#8 o.d o.fa o.a o.fb o.b 0#3, none)
  | .vxor o => some (packRR o.q 0x8B#8 o.d o.fa o.a o.fb o.b 0#3, none)
  | .vshl o => some (packRR o.q 0x8C#8 o.d o.fa o.a o.fb o.b 0#3, none)
  | .vshrL o => some (packRR o.q 0x8D#8 o.d o.fa o.a o.fb o.b 0#3, none)
  | .vshrA o => some (packRR o.q 0x8D#8 o.d o.fa o.a o.fb o.b 1#3, none)
  | .vcmp o => some (packRR o.q (0b10010#5 ++ o.cc) (0#2 ++ o.d) o.fa o.a o.fb o.b o.t, none)
  | .vsel o => some (packRR o.q 0x96#8 o.d o.fa o.a o.fb o.b o.fn, none)
  | .vmov o => some (packRR o.q 0x97#8 o.d o.fa o.a false 0#5 0#3, none)
  | .vbcast o => some (packRR o.q 0x98#8 o.d o.fa o.a false 0#5 o.t, none)
  | .vext o => some (packRI o.q 0x99#8 o.d o.fa o.a o.imm, none)
  | .viota o => some (packRR o.q 0x9A#8 o.d o.fa o.a false 0#5 0#3, none)
  | .vperm o => some (packRR o.q 0x9B#8 o.d o.fa o.a o.fb o.b 0#3, none)
  | .vrot o => some (packRI o.q 0x9C#8 o.d o.fa o.a o.imm, none)
  | .vpopc q d p => some (packRR q 0x9D#8 d false (0#2 ++ p) false 0#5 0#3, none)
  | .vred o => some (packRR o.q 0x9E#8 o.d o.fa o.a false o.op o.t, none)
  | .vscan o => some (packRR o.q 0x9F#8 o.d o.fa o.a false o.op o.t, none)
  | .vcvt o => some (packRR o.q 0xA0#8 o.d o.fa o.a o.fb o.b o.fn, none)
  | .vrnd o => some (packRR o.q 0xA1#8 o.d o.fa o.a false o.op o.t, none)
  | .vfexp o => some (packRR o.q 0xA2#8 o.d o.fa o.a false 0#5 o.t, none)
  | .vscale o => some (packRR o.q 0xA3#8 o.d o.fa o.a o.fb o.b o.fn, none)
  | .vgetexp o => some (packRR o.q 0xA4#8 o.d o.fa o.a false 0#5 o.t, none)
  | .vrcp o => some (packRR o.q 0xA5#8 o.d o.fa o.a false 0#5 o.t, none)
  | .vrsq o => some (packRR o.q 0xA6#8 o.d o.fa o.a false 0#5 o.t, none)
  | .vflog o => some (packRR o.q 0xA7#8 o.d o.fa o.a false 0#5 o.t, none)
  | .vrand o => some (packRR o.q 0xA8#8 o.d o.fa o.a o.fb o.b 0#3, none)
  | .vsrnd o => some (packRR o.q 0xA9#8 o.d o.fa o.a o.fb (o.bp ++ 0#1) o.t, none)
  | .vquant o => some (packRR o.q 0xAA#8 o.d o.fa o.a o.fb (o.bp ++ 0#1) o.t, none)
  | .vdeq o => some (packRR o.q 0xAB#8 o.d o.fa o.a o.fb o.b o.fn, none)
  | .vxacc o => some (packRR o.q 0xAC#8 o.d o.fa o.a o.fb o.b 0#3, none)
  | .accrd o => some (packRR o.q 0xB0#8 o.d o.fa o.a o.fb o.b 0#3, none)
  | .accclr o => some (packRR o.q 0xB1#8 0#5 o.fa o.a o.fb o.b 0#3, none)
  | .xclr o => some (packRR o.q 0xB2#8 0#5 o.fa o.a false 0#5 0#3, none)
  | .xaddv o => some (packRR o.q 0xB3#8 0#5 o.fa o.a o.fb o.b o.fn, none)
  | .xrd o => some (packRR o.q 0xB4#8 o.d o.fa o.a false 0#5 o.t, none)
  | .cpy _ => none
  | .cpyg _ => none
  | .cpys _ => none
  | .mma _ => none
  | .epil _ => none
  | .mrg _ => none
  | .sisect _ => none
  | .mskev _ => none
  | .coll _ => none
  | .qctlSpill _ => none
  | .commandCompletion _ => none
  | .stampEdge _ => none
  | .copyAgePromotion _ => none
  | .ecmdQueueTimeout _ => none
  | .envelopeModeWrite _ => none
  | .envelopeTransitionDone => none
  | .windowWrite _ _ => none
  | .seedWrite _ _ => none
  | .trapFramesWrite _ _ => none
  | .stopAtWrite _ _ => none
  | .detcauseClear _ _ => none
  | .rangeRegisterWrite _ _ _ => none
  | .arithFlagsWrite _ _ => none
  | .qcwWrite _ _ => none
  | .packageReset => none
  | .boot _ => none
  | .thermalTrip _ => none
  | .thermalModeRequest _ => none
  | .powerGating _ _ => none
  | .ageingMonitorUpdate _ _ _ _ => none
  | .tileFailure _ => none
  | .tileService _ => none
  | .hbmChannelService _ _ => none
  | .lpddrChannelService _ _ => none
  | .cxlPortService _ _ => none
  | .fabricPortService _ _ => none
  | .drainComplete _ => none
  | .firmwareReplacement _ => none
  | .svnMinimumRaise _ _ => none
  | .attestationRequest _ => none
  | .keyLoad _ => none
  | .pageFaultMessage _ _ => none
  | .pageMigration _ _ => none
  | .migrationComplete _ => none
  | .scrubberError _ => none
  | .expertHintApply => none
  | .submissionTailWrite _ _ => none
  | .launchTask _ => none
  | .launchGraph _ => none
  | .trackReset _ => none
  | .endJob _ => none
  | .hostRdmaRead _ _ _ => none
  | .hostRdmaWrite _ _ _ => none
  | .hostPortDown _ => none
  | .linkFlitLoss _ => none
  | .portDown _ _ => none
  | .amsgArrival _ => none
  | .taskDecrement _ _ _ => none
  | .stagingComplete _ => none
  | .dispatch _ => none
  | .relaunch _ => none
  | .priorityAgeing _ => none
  | .agePreemption _ => none
  | .preemption _ _ => none
  | .preemptionComplete _ => none
  | .clusterSteal _ => none
  | .loadReport _ _ => none
  | .packageStealRequest _ => none
  | .stolenTaskArrival _ _ => none
  | .departureCommit _ => none
  | .replyArrival _ => none
  | .remoteLoadRequest _ => none
  | .remoteStoreArrival _ => none
  | .remoteAmoArrival _ => none
  | .remoteFladdArrival _ => none
  | .remotePutfArrival _ => none
  | .remoteWaitRequest _ => none
  | .watchAnswer _ => none
  | .postedFailureReport _ => none
  | .backoffExpiry _ _ => none
  | .accswapAtQuiescence _ => none
  | .taskRetirement _ => none
  | .wavePass => none
  | .waveSnapshot _ _ => none
  | .quietBroadcast _ _ => none
  | .ringDeadlockDetect _ => none
  | .heldErrorRecordPost _ => none
  | .stopAtExpiry _ => none
  | .heltisStopRequest _ _ => none
  | .heltisResume _ => none
  | .heltisAccess _ _ => none
  | .heltisDumpRequest _ => none
  | .traceSample _ => none
  | .linkRetraining _ _ _ => none
  | .hostPortUp _ => none
  | .dynamicCapacityExtent _ => none
  | .pageUnmap _ => none

end Sys2Proof
end

