-- ==== Sys2Proof/Config.lean ====
section
/-! DEFINITION. What an implementation of the E512 fixes and the spec does not: free values. Each is an opaque
constant without a body, so that a statement holds whatever it is (assumption log 5). -/

namespace Sys2Proof.Config

/-- FRAME cycles that pass in step number `n` (R25 gives the clock, no rule the length of a step). -/
opaque frameElapsed : Nat → W64
/-- Tile cycles that pass in step number `n` (R404). -/
opaque cyclesElapsed : Nat → W64
/-- Chip-local address of the dispatch controller's copy of the `n`-th enqueued task record (R35, R38). -/
opaque taskCopyAt : Nat → Nat
/-- What an entry of a DISCARDed MMA's region holds: step number, tile and entry (R218 promises no subset of its products). -/
opaque discardedEntry : Nat → Nat → BitVec 128
/-- What is fused into the package: its unique secret, and the digest of the vendor key (R292, R295). -/
opaque fusedSecret : List Byte
opaque fusedDigest : List Byte
/-- The vendor key of the root block from which the package had booted before State.reset (R292). -/
opaque vendorKey : List Byte
/-- ML-DSA-65 verification: public key, message, signature (R292, R293). -/
opaque mldsaVerifies : List Byte → List Byte → List Byte → Bool
/-- An ML-DSA-65 signature under the key pair of a seed: seed, message, and the number of the step, for its random part (R295, R296). -/
opaque mldsaSign : List Byte → List Byte → Nat → List Byte
/-- What one byte of a frame decrypts to after its key index is loaded anew (R141). -/
opaque rekeyedByte : Nat → Nat → Byte → Byte
/-- The frame that the fault processor gives a page (R135): physical address bits, by request number. -/
opaque freeFrame : Nat → W64
/-- What a byte of another package's memory holds: its IA and the number of the step that reads it. -/
opaque remoteByte : Nat → Nat → Byte
/-- The order in which concurrent FP32 additions of one arrival-order MMA reach the bank (R215), as a rotation. -/
opaque arrivalOrder : Nat → Nat → Nat
/-- Bytes of the walk block, the idempotent snapshot and the pre-emption image, whose layouts are not architecture (R70, R217, R383). -/
opaque privateByte : Nat → Byte
/-- A member on another package of a collective that this package joins: 0 it joins with the same fields, 1 with other
fields, 2 it meets a lease fault, 3 an uncorrectable error (R264, R357). Step number and rank. -/
opaque collectiveFate : Nat → Nat → Nat
/-- What it contributes: step number, rank, element (R265). -/
opaque collectiveValue : Nat → Nat → Nat → Nat
/-- Granules that a pre-emption image of so many entries takes in the SPILL queue (R217: its layout is not architecture). -/
opaque imageGranules : Nat → Nat
/-- The other end of a fabric link asks for the DEEP FEC (R25): step number and port. -/
opaque neighbourDeep : Nat → Nat → Bool
/-- SVN and digest of the image in force from State.reset on, by unit (R293). -/
opaque bootSvn : Nat → W32
opaque bootDigest : Nat → BitVec 512
/-- Tile cycles until a result in flight at a stop is written (R281): step number, place in the image. -/
opaque remaining : Nat → Nat → W32
/-- PORT_MAP of a fabric port as boot firmware sets it (R21, R293): step number and port. -/
opaque bootPort : Nat → Nat → W64
/-- The width to which a linked CXL port trains at power-on: 1 ×4, 2 ×8, 3 ×16 (R11, R19): step number and port. -/
opaque cxlTrained : Nat → Nat → Nat
/-- A fabric port trains to both lanes (R21): step number and port. -/
opaque trainsWide : Nat → Nat → Bool
/-- Pages that lie on a memory channel or CXL port, for a service action (R30): step number, kind, unit. -/
opaque channelPages : Nat → Nat → Nat → Nat
/-- A home in memory refuses a watch, when there are more than one home holds and fewer than all of its kind hold (R56): step number. -/
opaque watchRefused : Nat → Bool
/-- The lease reference that a task takes (R42 says only that it is an index): step number. -/
opaque leaseRefAt : Nat → W16

/-- Tile cycles for which the write of a trace record holds other accesses of its tile (R285): step number and tile. -/
opaque traceDelay : Nat → Nat → W64
/-- The port by which a request came that a package in error answers with a loss (R275, R277): step number. -/
opaque lossPort : Nat → Nat
/-- Byte of the payload of a MARK trace record, whose layout is not in the spec (R284, R422): its place, tag, word index, value. -/
opaque markByte : Nat → Nat → Nat → Nat → Byte
/-- The fault processor that serves a page, by 64 KiB page, and the walker that reads its leaf node (R133, R135, R297). -/
opaque faultProcessor : Nat → Nat
opaque walkerOf : Nat → Nat
/-- By how much a service that recalibrates raises MARGIN and EOL_DAYS of a monitor; a MARGIN rise of 0 where it only replaces (R303):
step number and monitor. -/
opaque marginRise : Nat → Nat → Nat
opaque daysRise : Nat → Nat → Nat
/-- What a gang's barrier word holds (R129: the generation state): its generation and how many members have reached it. -/
opaque barrierWord : Nat → Nat → W64

end Sys2Proof.Config
end

