-- ==== Sys2Proof/Machine/Bits.lean ====
section
/-! DEFINITION. Bit fields, byte order and the canonical memory: the helpers that every meaning uses (R4, R95). -/

namespace Sys2Proof.Machine

/-- Bits lo to lo + len - 1 of a number. -/
def field (x lo len : Nat) : Nat := x / 2 ^ lo % 2 ^ len

/-- The number with bits lo to lo + len - 1 replaced by `y`. -/
def setField (x lo len y : Nat) : Nat := x - field x lo len * 2 ^ lo + (y % 2 ^ len) * 2 ^ lo

/-- Bit k of a number. -/
def bitAt (x k : Nat) : Bool := x / 2 ^ k % 2 == 1

/-- Bits lo to lo + len - 1 of a 64-bit register as a number. -/
def wfield (x : W64) (lo len : Nat) : Nat := field x.toNat lo len

/-- `n` bytes of a number, least significant first (R4: little-endian). -/
def toBytes : Nat → Nat → List Byte
  | 0, _ => []
  | n + 1, v => BitVec.ofNat 8 v :: toBytes n (v / 256)

/-- The number that bytes hold, least significant first. -/
def ofBytes : List Byte → Nat
  | [] => 0
  | b :: bs => b.toNat + 256 * ofBytes bs

/-- `n` bytes of a list from offset `o`, zero past its end, as a number. -/
def fieldAt (bs : List Byte) (o n : Nat) : Nat := ofBytes ((bs.drop o).take n)

/-- The list with the bytes from offset `o` on replaced by `v`. -/
def patch (bs : List Byte) (o : Nat) (v : List Byte) : List Byte := bs.take o ++ v ++ bs.drop (o + v.length)

/-- Every byte of a list from `o`, `n` long, is zero. -/
def allZero (bs : List Byte) (o n : Nat) : Bool := ((bs.drop o).take n).all (· == 0#8)

/-- All ones when the test holds, else zero. -/
def maskIf (b : Bool) : W64 := if b then BitVec.allOnes 64 else 0

/-- The signed number of the low `w` bits. -/
def sgn (w x : Nat) : Int := if bitAt (x % 2 ^ w) (w - 1) then (x % 2 ^ w : Nat) - (2 ^ w : Nat) else (x % 2 ^ w : Nat)

/-- An integer wrapped to `w` bits, as a number. -/
def wrapInt (w : Nat) (i : Int) : Nat := (i % (2 ^ w : Nat)).toNat

/-- Leading zero bits of a number seen as `w` bits wide, found from the top. -/
def leadingZeros : Nat → Nat → Nat
  | 0, _ => 0
  | w + 1, x => if bitAt x w then 0 else leadingZeros w x + 1

/-- The 1 bits among the low `w` bits. -/
def popCount : Nat → Nat → Nat
  | 0, _ => 0
  | w + 1, x => popCount w x + (if bitAt x w then 1 else 0)

/-- A multiple of `g` at or above `n`. -/
def roundUp (n g : Nat) : Nat := (n + g - 1) / g * g

/-- What an address of memory that nothing has written reads as: the reset contents of the key table (R140), else zero
(log 2). -/
def resetByte (a : Nat) : Byte :=
  if 0x180000800 ≤ a ∧ a < 0x180001800 then
    (if a % 8 < 2 then 0xFF else if a = 0x180000802 then 1 else 0)
  else 0

/-- The byte at an address. -/
def cellRead : List Host.Cell → Nat → Byte
  | [], a => resetByte a
  | (k, v) :: t, a => if a = k then v else if a < k then resetByte a else cellRead t a

/-- Writes one byte and keeps the form: addresses rising, no entry that an unlisted address would read as. -/
def cellWrite : List Host.Cell → Nat → Byte → List Host.Cell
  | [], a, b => if b = resetByte a then [] else [(a, b)]
  | (k, v) :: t, a, b =>
    if a = k then (if b = resetByte a then t else (k, b) :: t)
    else if a < k then (if b = resetByte a then (k, v) :: t else (a, b) :: (k, v) :: t)
    else (k, v) :: cellWrite t a b

/-- Canonical form: addresses strictly rising, and no entry equal to what an unlisted address reads as. -/
def Memory.wf : List Host.Cell → Bool
  | [] => true
  | (k, v) :: t =>
    (v != resetByte k) && (match t with
      | [] => true
      | (k', _) :: _ => decide (k < k')) && Memory.wf t

/-- `n` bytes from an address. -/
def cellsRead (m : List Host.Cell) : Nat → Nat → List Byte
  | _, 0 => []
  | a, n + 1 => cellRead m a :: cellsRead m (a + 1) n

/-- Writes bytes from an address on, the first first. -/
def cellsWrite (m : List Host.Cell) : Nat → List Byte → List Host.Cell
  | _, [] => m
  | a, b :: bs => cellsWrite (cellWrite m a b) (a + 1) bs

/-- Sixty-four lanes from 256 bytes, lane 0 first (R418). -/
def lanesOf (bs : List Byte) : VReg := Vector.ofFn fun i : Fin 64 => BitVec.ofNat 32 (fieldAt bs (4 * i.val) 4)

/-- The 256 bytes of a vector, lane 0 first. -/
def laneBytes (v : VReg) : List Byte := v.toList.flatMap fun l => toBytes 4 l.toNat

/-- A scalar and vector register file read by a register number. -/
def regAt {α : Type} (f : Vector α 32) (r : BitVec 5) : α := f[r.toNat]'(r.isLt)

/-- A register file with one register replaced. -/
def regPut {α : Type} (f : Vector α 32) (r : BitVec 5) (x : α) : Vector α 32 := f.set r.toNat x r.isLt

/-- A file of eight read by a register number. -/
def smallAt {α : Type} (f : Vector α 8) (r : BitVec 3) : α := f[r.toNat]'(r.isLt)

/-- A file of eight with one register replaced. -/
def smallPut {α : Type} (f : Vector α 8) (r : BitVec 3) (x : α) : Vector α 8 := f.set r.toNat x r.isLt

/-- Puts an element into its place by a key; behind those of an equal key. -/
def insertBy {α : Type} (key : α → Nat) (x : α) : List α → List α
  | [] => [x]
  | y :: ys => if key x < key y then x :: y :: ys else y :: insertBy key x ys

/-- Sorts by a key; elements of an equal key keep their order. -/
def sortBy {α : Type} (key : α → Nat) (xs : List α) : List α := xs.foldl (fun ys x => insertBy key x ys) []

end Sys2Proof.Machine
end

