-- ==== Sys2Proof/Machine/Keccak.lean ====
section
/-! DEFINITION. SHAKE256, which the spec names for image digests, the vendor key and the identity seed (R292, R295), as FIPS 202
defines it (assumption log 63). -/

namespace Sys2Proof.Machine

/-- Lane x, y of a Keccak state of 25 lanes: at x + 5y. -/
def kLane (a : List W64) (x y : Nat) : W64 := a.getD (x % 5 + 5 * (y % 5)) 0

/-- A state of 25 lanes from a function of x and y. -/
def kState (f : Nat → Nat → W64) : List W64 := (List.range 25).map fun i => f (i % 5) (i / 5)

/-- Where lane x, y is rotated by: the walk of 24 lanes from (1, 0), each step from (x, y) to (y, 2x + 3y), whose t-th lane turns by
the triangular number of t + 1. -/
def kTurn : Nat → Nat → Nat × Nat → Nat × Nat → Nat
  | 0, _, _, _ => 0
  | n + 1, t, here, lane =>
    if here = lane then (t + 1) * (t + 2) / 2 % 64 else kTurn n (t + 1) (here.2, (2 * here.1 + 3 * here.2) % 5) lane

/-- The successive states of the register that gives the round constants: x^8 + x^6 + x^5 + x^4 + 1 over GF(2). -/
def kFeedback : Nat → Nat → List Nat
  | 0, _ => []
  | n + 1, r => r :: kFeedback n (if r < 128 then 2 * r else (2 * r) ^^^ 0x171)

/-- The constant of a round, from the seven states of the register that belong to it: state j gives bit 2^j - 1. -/
def kConstant (states : List Nat) : W64 :=
  BitVec.ofNat 64 ((states.zipIdx.map fun x => x.1 % 2 * 2 ^ (2 ^ x.2 - 1)).sum)

/-- The constants of the 24 rounds. -/
def kRounds : List W64 := (List.range 24).map fun r => kConstant (((kFeedback 168 1).drop (7 * r)).take 7)

/-- One round. -/
def kRound (a : List W64) (rc : W64) : List W64 :=
  let c := (List.range 5).map fun x => kLane a x 0 ^^^ kLane a x 1 ^^^ kLane a x 2 ^^^ kLane a x 3 ^^^ kLane a x 4
  let col (x : Nat) : W64 := c.getD (x % 5) 0
  let a := kState fun x y => kLane a x y ^^^ col (x + 4) ^^^ (col (x + 1)).rotateLeft 1
  let b := kState fun x y => (kLane a (x + 3 * y) x).rotateLeft (kTurn 24 0 (1, 0) ((x + 3 * y) % 5, x))
  let a := kState fun x y => kLane b x y ^^^ (~~~(kLane b (x + 1) y) &&& kLane b (x + 2) y)
  (a.headD 0 ^^^ rc) :: a.drop 1

/-- The permutation of 24 rounds. -/
def keccak (a : List W64) : List W64 := kRounds.foldl kRound a

/-- Absorbs so many blocks of 136 bytes. -/
def kAbsorb : Nat → List Byte → List W64 → List W64
  | 0, _, a => a
  | n + 1, bs, a =>
    kAbsorb n (bs.drop 136) (keccak (a.zipIdx.map fun x => if x.2 < 17 then x.1 ^^^ BitVec.ofNat 64 (fieldAt bs (8 * x.2) 8) else x.1))

/-- The first n bytes of SHAKE256 of a message, n at most 136. -/
def shake256 (msg : List Byte) (n : Nat) : List Byte :=
  let blocks := msg.length / 136 + 1
  let last := 136 * blocks - 1
  let padded := (List.range (136 * blocks)).map fun i =>
    (if i < msg.length then msg.getD i 0 else if i = msg.length then 0x1F else 0) ||| (if i = last then 0x80 else 0)
  ((kAbsorb blocks padded (List.replicate 25 0)).flatMap fun l => toBytes 8 l.toNat).take n

end Sys2Proof.Machine
end

