-- ==== Sys2Proof/Machine/State.lean ====
section
/-! DEFINITION. The state of one E512 package (R6): every slot's strand, every tile, the package's units, memory, the
tasks and jobs of its dispatch controller, the messages in flight, and the model's own agenda. Plain data. -/

namespace Sys2Proof.Machine

/-- Why the machine stops. -/
inductive Fault where
  /-- Raised by `step` when the agenda names an agent that the package does not have (a strand number of 4096 or more).
  Safe: the hardware has no such agent. -/
  | noAgent
  deriving DecidableEq, Repr

/-- Why an instruction has no meaning here. -/
inductive Refusal where
  /-- Raised by `exec` for a row of the opcode table without a meaning yet. Safe: the run ends. -/
  | notModelled (mnemonic : String)
  deriving DecidableEq, Repr

/-- A sparse table: keys strictly rising; a key that is not listed holds the reader's default. -/
abbrev Tab (α : Type) := List (Nat × α)

/-- The value a table lists for a key. -/
def Tab.find {α : Type} : Tab α → Nat → Option α
  | [], _ => none
  | (k, v) :: t, key => if key = k then some v else if key < k then none else Tab.find t key

/-- The value a table holds for a key, or the default. -/
def Tab.get {α : Type} (d : α) (t : Tab α) (key : Nat) : α := (Tab.find t key).getD d

/-- Sets the value of a key, keeping the keys rising. -/
def Tab.put {α : Type} : Tab α → Nat → α → Tab α
  | [], key, x => [(key, x)]
  | (k, v) :: t, key, x =>
    if key = k then (k, x) :: t else if key < k then (key, x) :: (k, v) :: t else (k, v) :: Tab.put t key x

/-- Removes a key. -/
def Tab.del {α : Type} : Tab α → Nat → Tab α
  | [], _ => []
  | (k, v) :: t, key => if key = k then t else if key < k then (k, v) :: t else (k, v) :: Tab.del t key

/-- A branch outcome in an engine's queue (R69): S's walk count at the word, and the target when taken. -/
structure BranchOutcome where
  tag : Nat
  target : Option W32
  deriving DecidableEq, Repr, Inhabited

/-- A result or signal still to come of a word that an engine has issued (R64, R75, R281). -/
structure Flight where
  engine : Engine
  dest : Option RegRef
  sval : W64
  vval : VReg
  taint : Bool
  sp : Bool
  sn : Bool
  /-- A SKIP whose cycles have not passed: its engine issues nothing (R413). -/
  skip : Bool := false
  deriving DecidableEq, Repr, Inhabited

/-- A departure under way (R47, R48): what its record will carry. -/
structure Departure where
  engine : Engine
  walk : Nat
  reason : Byte
  key : W64
  dep : Nat
  dest : Option RegRef
  /-- The departing engine resumes past the word. -/
  past : Bool
  /-- The words of the departing instruction. -/
  len : Nat
  /-- Requests sent at the commit, with the IA of each one's home. -/
  sends : List (Nat × MsgBody)
  /-- VAs of the elements asked for, by lane (R270). -/
  vas : List (Nat × W64)
  q : BitVec 4
  deriving DecidableEq, Repr, Inhabited

/-- One range-register triple (R118). -/
structure RangeReg where
  base : W64 := 0
  limit : W64 := 0
  offset : W64 := 0
  deriving DecidableEq, Repr, Inhabited

/-- The walk block of a departure or trap (R70, R271): what the record bytes do not hold. -/
structure WalkBlock where
  walks : Vector Nat 4
  outcomes : Vector (List BranchOutcome) 4
  closing : Vector (Option Nat) 4
  loopRegs : Vector (BitVec 5) 8
  halves : Vector Nat 4
  halfAt : Vector Nat 4
  atomMark : Option Nat
  liveBefore : List (Nat × W64)
  /-- The engine whose word is to execute again after a wake (R57). -/
  rewoke : Option Engine
  deriving DecidableEq, Repr, Inhabited

/-- The registers of a strand (R32, R307). -/
structure Regs where
  s : Vector W64 32 := Vector.replicate 32 0
  v : Vector VReg 32 := Vector.replicate 32 (Vector.replicate 64 0)
  p : Vector W64 8 := Vector.replicate 8 0
  b : Vector W64 8 := Vector.replicate 8 0
  deriving DecidableEq, Repr, Inhabited

/-- What an IDEM captured (R383). -/
structure Snapshot where
  regs : Regs
  pcs : Vector W32 4
  tokens : Vector Nat 8
  livemask : W64
  block : WalkBlock
  deriving DecidableEq, Repr, Inhabited

/-- What a trap handler returns to, beside the registers in its frame (R271, R272, R274): the trapping engine, the walk block,
the engine PCs and token counts as the frame took them, the cause, subcode and DETAIL, the address of the frame, whether the
word had retired, and the idempotent region that the strand stood in (R383). -/
structure TrapSave where
  engine : Engine
  block : WalkBlock
  pcs : Vector W32 4
  tokens : Vector Nat 8
  cause : Nat
  sub : Nat
  frame : Nat
  after : Bool
  detail : List Byte
  snapshot : Option (Snapshot × Nat)
  /-- Signals of retired words for which the trap found no room: they come after the return (R72, R268). -/
  flights : List Flight
  deriving DecidableEq, Repr, Inhabited

/-- One strand slot of a tile (R32, R33, R38, R266). -/
structure Strand where
  /-- A strand stands in the slot. -/
  live : Bool := false
  /-- The task to which the slot is reserved or whose strand it runs. -/
  task : Option Nat := none
  rank : Nat := 0
  super : Bool := false
  regs : Regs := {}
  sFull : W32 := BitVec.allOnes 32
  vFull : W32 := BitVec.allOnes 32
  sTaint : W32 := 0
  vTaint : W32 := 0
  /-- Token queues in the order of R52: S to L, L to A, A to W, W to S, L to S, A to L, W to A, S to W. -/
  tokens : Vector Nat 8 := Vector.replicate 8 0
  pcs : Vector W32 4 := Vector.replicate 4 0
  walks : Vector Nat 4 := Vector.replicate 4 0
  outcomes : Vector (List BranchOutcome) 4 := Vector.replicate 4 []
  /-- An engine that has passed a closing word whose outcome S has not posted, with the word's walk count (R69). -/
  closing : Vector (Option Nat) 4 := Vector.replicate 4 none
  loopRegs : Vector (BitVec 5) 8 := Vector.replicate 8 0
  flights : List Flight := []
  /-- MARK halves reached by L and by W, FENCE halves completed by L and by W (R155, R372). -/
  halves : Vector Nat 4 := Vector.replicate 4 0
  /-- Walk count, plus one, of the half that each of the four counts counted last. -/
  halfAt : Vector Nat 4 := Vector.replicate 4 0
  /-- Walk count of the last atomic that L stepped over (R154). -/
  atomMark : Option Nat := none
  livemask : W64 := BitVec.allOnes 64
  /-- LIVEMASK in program order (R50): S's walk count at each write that an engine behind S has still to pass, newest
  first, with the value before it. -/
  liveBefore : List (Nat × W64) := []
  window : BitVec 11 := 256
  ranges : Vector RangeReg 16 := Vector.replicate 16 {}
  /-- The same for range registers (R120). -/
  rangesBefore : List (Nat × Vector RangeReg 16) := []
  trapCause : W64 := 0
  trapPc : W64 := 0
  trapAddr : W64 := 0
  departing : Option Departure := none
  snapshot : Option (Snapshot × Nat) := none
  trapSave : Option TrapSave := none
  /-- BACKOFF step of the word an engine re-executes, and how the record was readied (R57, R58). -/
  backoff : Nat := 0
  polled : Bool := false
  /-- The engine whose word executes again after a wake, until it does (R57). -/
  rewoke : Option Engine := none
  /-- Walk count, plus one, of the last schedule violation counted on each engine (R77). -/
  violAt : Vector Nat 4 := Vector.replicate 4 0
  /-- Tile cycle at which S found the command queue of its ECMD full (R83). -/
  ecmdSince : Option W64 := none
  /-- That queue's index in the tile's table. -/
  ecmdQueue : Nat := 0
  /-- Tile cycle and pip of the first failed test of a FLWAIT (R284). -/
  flagWaitSince : Option (W64 × Nat) := none
  /-- The deferral of a pre-emption that found too few granules (R252). -/
  preemptPending : Bool := false
  /-- The accesses that L's word has performed so far, by their bytes, and how many W's word has, of a word that is no single
  access (R151). -/
  partL : List (List Byte) := []
  partW : Nat := 0
  /-- Such a word of L or W that has been issued, with the accesses that are left (R79, R151): of a load the VA of the element, the IA and
  the length of each, of a store the IA and the bytes. -/
  begunL : Option Instr := none
  begunW : Option Instr := none
  leftL : List (W64 × Nat × Nat) := []
  leftW : List (Nat × List Byte) := []
  deriving DecidableEq, Repr, Inhabited

/-- A fault of a command (R267): its element, and the VA and DETAIL of its record. -/
structure CmdFault where
  cause : Nat
  sub : Nat := 0
  element : Nat := 0
  addr : W64 := 0
  detail : List Byte := []
  /-- `addr` is an IA: another home tells where a publish failed (R275). -/
  isIA : Bool := false
  deriving DecidableEq, Repr, Inhabited

/-- How a command stands (R87, R89, R161, R164): `publishing` while other home chips have not acknowledged its publish. -/
inductive CmdState where
  | queued
  | running
  | stopped
  | publishing
  deriving DecidableEq, Repr, Inhabited

/-- A row of the array with its queue (R199, R201): the inner position and emission cycle of each entry, and the step in
progress: its position and the cycle after its last. -/
structure RowQueue where
  queue : List (Nat × Nat) := []
  pos : Nat := 0
  until_ : Nat := 0
  deriving DecidableEq, Repr, Inhabited

/-- The front end's schedule of a sparse MMA (R198 to R203): LAG, policy and the cycles of a step as they stood at its
start, the cycle, the rows, the spilled entries, and the counts of R216. -/
structure Schedule where
  lag : Nat := 16
  policy : Nat := 0
  width : Nat := 1
  cycle : Nat := 0
  rows : List RowQueue := []
  spilled : List Nat := []
  stalls : Nat := 0
  splits : Nat := 0
  spills : Nat := 0
  deriving DecidableEq, Repr, Inhabited

/-- What an engine has read at a command's start and what it counts while it runs (R189, R216, R227, R229, R327). -/
structure CmdWork where
  /-- Elements of the command (R90). -/
  total : Nat := 0
  flags : BitVec 8 := 0
  skipped : Nat := 0
  firstSkipped : Nat := 0xFFFFFFFF
  /-- Products of an MMA, common keys of a SISECT. -/
  count : Nat := 0
  nonfinite : Nat := 0
  metaSkips : Nat := 0
  metaFirst : List Byte := []
  /-- Panels whose nonfinite elements and failures are counted. -/
  panelsSeen : Nat := 0
  /-- Panels whose ring slots have been popped (R208). -/
  popped : Nat := 0
  /-- Products that have not reached the bank, in arrival-order mode: panel, row, column, FP32 bits (R215). -/
  late : List (Nat × Nat × Nat × Nat) := []
  /-- Products of spilled entries, in slot order, in arrival-order mode (R203, R215). -/
  parked : List (Nat × Nat × Nat × Nat) := []
  sched : Schedule := {}
  /-- Program words (R213, R231). -/
  prog : List W32 := []
  /-- Bytes read at start: a tensor parameter record, a code table, a mask descriptor, a stream table. -/
  head : List Byte := []
  /-- VEC0 and VEC1 as read at start (R362). -/
  vecs : List Byte := []
  /-- Indexes read: a batch (R187), or the rows of a gathered operand (R208). -/
  index : List Nat := []
  /-- Classes of the tiles classified so far: 0 EMPTY, 1 PARTIAL, 2 FULL (R225, R228). -/
  classes : List Nat := []
  /-- The BITS words in the shadow (R227). -/
  bits : List Byte := []
  /-- Byte offsets reached in packed source and destination sequences (R321). -/
  srcOff : Nat := 0
  dstOff : Nat := 0
  /-- HEAD of the operands' rings at start (R208). -/
  headA : Nat := 0
  headB : Nat := 0
  /-- Positions of a walk over streams, and the last key read of each (R262, R263). -/
  cursor : List Nat := []
  lastKeys : List (Option Nat) := []
  /-- Table entries read (R231). -/
  tables : Tab Nat := []
  /-- Values of the block that an epilogue or encode is gathering (R363). -/
  block : List (Option Nat) := []
  deriving DecidableEq, Repr, Inhabited

/-- An accepted engine command (R83 to R92). -/
structure Cmd where
  seq : Nat
  engine : Nat
  queue : Nat
  task : Nat
  rank : Nat
  slot : Nat
  super : Bool
  bytes : List Byte
  ranges : Vector RangeReg 16
  state : CmdState
  /-- Element index at which it goes on (R84, R90). -/
  progress : W64
  /-- The destination extent (R161): first IA and length of each piece. -/
  extent : List (Nat × Nat)
  /-- FRAME at which a copy command became eligible-pending (R184). -/
  eligibleAt : Option W64
  /-- Pips of WAITMASK found at zero, and the tile cycle of that (R284). -/
  waits : List (Nat × W64)
  slackZero : Bool
  /-- A stamp that lay outside the range of R92. -/
  missed : Bool
  /-- Word index of its ECMD. -/
  wordIndex : W32
  /-- The order in which the tile's commands started. -/
  started : Nat := 0
  /-- IA of the completion record, when the command names one that it may write. -/
  crec : Option Nat := none
  /-- Writes of the elements performed so far, in order (R161). -/
  shadow : List (Nat × List Byte) := []
  work : CmdWork := {}
  /-- A fault that it has met and with which it ends once every earlier command of its queue has completed (R89), or once its
  publish is acknowledged (R161). -/
  fault : Option CmdFault := none
  /-- It never started (R164). -/
  refused : Bool := false
  /-- Its completion record for STATUS 0 and for STATUS 1, while it publishes (R161, R276). -/
  records : List Byte × List Byte := ([], [])
  /-- Its start waits: queued, for a page that its checks read or for the other members of its collective (R264); running, for a page
that its engine reads at the start (R135, R136). -/
  unset : Bool := false
  /-- Numbers of its publish messages that are not acknowledged (R161). -/
  acks : List Nat := []
  /-- What the bytes held that its publishes at pre-emptions have written, in order: its own reads still return that (R90, R185). -/
  before : List (Nat × List Byte) := []
  /-- The step in which its ECMD retired: the order of the commands of all tiles (R146). -/
  born : Nat := 0
  deriving DecidableEq, Repr, Inhabited

/-- A continuation record's bookkeeping beside its bytes (R52 to R61). -/
structure ContRec where
  num : Nat
  /-- Granule number since the queue was carved, before the move modulo DEPTH; or IA in the spill area. -/
  granule : Nat
  granules : Nat
  spilled : Bool
  /-- The record has been relaunched or dropped and only holds its space (R54). -/
  gone : Bool
  task : Nat
  rank : Nat
  slot : Nat
  engine : Engine
  reason : Byte
  key : W64
  dest : Option RegRef
  dep : Nat
  /-- Order in which it became ready (R61). -/
  readyAt : Option Nat
  /-- Tile cycle at which it leaves the back-off list (R58). -/
  backoffAt : Option W64
  super : Bool
  stamp : W64
  block : WalkBlock
  livemask : W64
  /-- The failure of its request, and the VA that it names (R147, R261). -/
  error : Option (Failure × W64)
  backoff : Nat
  /-- It was readied from the back-off list (R58). -/
  polled : Bool
  trapSave : Option TrapSave
  /-- The departing word's DQ nibble, length and index; whether its engine has passed it, and whether the home's test
  passed for it (R47, R56). -/
  q : BitVec 4
  len : Nat
  pcAt : W32
  vas : List (Nat × W64)
  past : Bool
  passed : Bool
  /-- The entry is an idempotent snapshot, which only takes space (R383). -/
  isSnapshot : Bool
  /-- Progress entries of stopped commands (R53, R459). -/
  progress : List Nat
  flagWaitSince : Option (W64 × Nat)
  /-- The walk block before the departing word was passed, to which an error of its request returns (R69, R147). -/
  unpassed : Option WalkBlock
  deriving DecidableEq, Repr, Inhabited

/-- A watch held at this package for a remote wait (R56). -/
structure Watch where
  ia : Nat
  origin : Origin
  test : WaitTest
  /-- Cycle count at the test that failed (R284). -/
  failedAt : W64
  deriving DecidableEq, Repr, Inhabited

/-- An open ring (R125): IA of its QCW, the task that opened it, and BASE, DEPTH and ELEM as they stood then. -/
structure Ring where
  qcw : Nat
  task : Nat
  base : Nat
  depth : Nat
  elem : Nat
  deriving DecidableEq, Repr, Inhabited

/-- One tile (R7). -/
structure Tile where
  chk : Bool := false
  viol : W16 := 0
  violPc : W32 := 0
  arithFlags : BitVec 8 := 0
  rowLag : BitVec 8 := 16
  rowqPolicy : BitVec 2 := 0
  trapBase : W64 := 0
  trapFrames : W64 := 0
  bkptStop : Bool := false
  stopped : Bool := false
  stopAt : W64 := 0
  /-- FRAME of a stop that Heltis asked for (R280). -/
  stopEdge : Option W64 := none
  /-- FRAME of the stop (R278). -/
  stoppedAt : W64 := 0
  /-- TRACE_CTL without WRITTEN. -/
  traceCtl : W32 := 0
  traceWritten : W32 := 0
  traceBase : W64 := 0
  /-- Trace records accepted and not yet written (R285). -/
  traceBuf : List (List Byte) := []
  /-- FRAME of the last PC sample (R283). -/
  sampledAt : W64 := 0
  detcause : Vector W64 16 := Vector.replicate 16 0
  perf : Tab W64 := []
  /-- Cycles subtracted from the package's count, and the count at the stop while stopped (R280, R404). -/
  cycleOff : W64 := 0
  cycleHeld : Option W64 := none
  /-- The bank that is VIS (R210). -/
  visBank : Bool := false
  /-- Entries of bank 0 at 0 to 4095 and of bank 1 at 4096 to 8191 (R102). -/
  banks : Tab AW := []
  cmds : List Cmd := []
  cmdNext : Nat := 0
  startNext : Nat := 0
  /-- FRAME at which each engine last made a stamped start (R92). -/
  stampStarts : Tab W64 := []
  recs : List ContRec := []
  recNext : Nat := 0
  /-- Granules of the continuation queue reclaimed and written since it was carved. -/
  contHead : Nat := 0
  contTail : Nat := 0
  /-- Cycle of the last departure that committed, and the slot that it left (R61). -/
  commitLast : Option (W64 × Nat) := none
  /-- Keys and records of the wait table (R56): IA, span in bytes, record. -/
  waitTable : List (Nat × Nat × Nat) := []
  /-- The keys of departures that have not committed, by slot: IA, span in bytes, and whether a write has met it since the test
  (R56). -/
  early : Tab (Nat × Nat × Bool) := []
  rings : List Ring := []
  /-- The tile's copies of jobs' SEEDs, where they differ from the controller's (R377). -/
  seeds : Tab W64 := []
  /-- Who made the last increment of each pip: tile, chip, kind, unit (R284). -/
  setters : Tab (Nat × Nat × Nat × Nat) := []
  /-- Records waiting for the banks to be quiescent, each with the number of the next command at its commit (R211). -/
  swaps : List (Nat × Nat) := []
  spareSubst : Bool := false
  /-- Position within its die, 8 × row + column, of the spare that serves the tile number (R302; log 49). -/
  sparePos : Nat := 0
  offline : Bool := false
  /-- The tile is being drained for service (R30). -/
  draining : Bool := false
  deriving DecidableEq, Repr, Inhabited

/-- The states of a task (R240, R241). -/
inductive TState where
  | created | waiting | staging | ready | running | preempted | retiring | done
  deriving DecidableEq, Repr, Inhabited

/-- A lease entry (R36). -/
structure Lease where
  va : W64
  mode : BitVec 2
  sliceOff : Nat
  length : Nat
  deriving DecidableEq, Repr, Inhabited

/-- A member strand of a task: its slot, or its record, or neither. -/
structure Member where
  slot : Option Nat := none
  record : Option (Nat × Nat) := none
  ended : Bool := false
  /-- BAR generation reached. -/
  bar : Nat := 0
  deriving DecidableEq, Repr, Inhabited

/-- A task of the dispatch controller (R35 to R45). -/
structure Task where
  copy : Nat := 0
  id : W32 := 0
  job : W16 := 0
  ctl : Byte := 0
  gang : Nat := 1
  deps : W32 := 0
  window : BitVec 11 := 256
  leases : List Lease := []
  affinity : Byte := 0
  textBase : W64 := 0
  entry : W32 := 0
  rangePtr : Nat := 0
  seed : W64 := 0
  args : Vector W64 4 := Vector.replicate 4 0
  succPtr : Nat := 0
  succCount : Nat := 0
  /-- IAs of the successors' copies, in a graph instance (R239). -/
  succs : Option (List Nat) := none
  complPtr : Nat := 0
  complTag : W64 := 0
  state : TState := .created
  result : Byte := 0
  /-- The controller's copy of the record as it last wrote it, and whether memory has yet to take it (R35, R240; log 26). -/
  record : List Byte := []
  owed : Bool := false
  /-- IA extents held under its leases, with permission to write (R43): first, last, write. -/
  extents : List (Nat × Nat × Bool) := []
  leaseRef : W16 := 0
  cluster : Nat := 0
  level : Nat := 0
  enteredAt : W64 := 0
  order : Nat := 0
  /-- Tiles bound at staging, by rank. -/
  bound : List Nat := []
  /-- Slots reserved while the gang gathers them (R248). -/
  gathered : List Nat := []
  members : List Member := []
  barGen : Nat := 0
  counted : Bool := false
  hasRun : Bool := false
  dispatchedAt : Nat := 0
  /-- The failure that ends the task at its next event (R470): cause, subcode. -/
  failure : Option (Nat × Nat) := none
  /-- Pre-emption asked for: SAVE, or dropped regions. -/
  preempting : Bool := false
  /-- Rank and index of the entries of the banks that each member has written since launch, and their image while the task is
  pre-empted: rank, whether the role is VIS, the index, the value (R217). -/
  touched : List (Nat × Nat) := []
  image : List (Nat × Bool × Nat × AW) := []
  /-- Stolen within the package since it last ran: it keeps its place at restaging, and its records move (R55, R250). -/
  stolen : Bool := false
  /-- FRAME at which its waiting was last tested (R246). -/
  agedAt : W64 := 0
  /-- Messages that BAR orders before every access after it: posted writes not performed when the generation completed (R34). -/
  barWrites : List Nat := []
  /-- The gang's barrier word: tile and index in its BARRIER region (R129). -/
  barWord : Option (Nat × Nat) := none
  /-- Error records that wait until the task's writes are performed (R168). -/
  held : List (List Nat × List Byte) := []
  deriving DecidableEq, Repr, Inhabited

/-- A job (R32, R39, R235). -/
structure Job where
  live : Bool := false
  track : Nat := 0
  seed : Option W64 := none
  errq : Nat := 0
  enqueues : Nat := 0
  lastCluster : Option Nat := none
  /-- Error records held while their queue is full: the queue's QCW, the record (R276). -/
  heldErrors : List (Nat × List Byte) := []
  deriving DecidableEq, Repr, Inhabited

/-- What meets a page fault and waits for it (R135, R237). -/
inductive FaultWaiter where
  | staging (task : Nat)
  /-- An instruction fetch of an engine (R65, R135). -/
  | fetch (strand : Nat) (engine : Engine)
  /-- A message: 512 times its number, plus the chip that sent it. -/
  | message (key : Nat)
  /-- A read or write of the host, and the package that has forwarded it, if any. -/
  | hostRead (len : Nat) (chip : Option Nat)
  | hostWrite (bytes : List Byte) (chip : Option Nat)
  | command (tile seq : Nat)
  /-- The dispatch controller, at a submission queue (R234, R239). -/
  | controller (queue : Nat)
  /-- The dump of a descriptor (R291). -/
  | dump (slot : Nat)
  deriving DecidableEq, Repr, Inhabited

/-- A page fault of this package, and the chip whose fault processor serves it (R134, R135). -/
structure PageFault where
  num : Nat
  ia : Nat
  /-- Where the access begins that has met it. -/
  access : Nat
  write : Bool
  job : W16
  waiter : FaultWaiter
  home : Nat
  deriving DecidableEq, Repr, Inhabited

/-- What leaves the package: to other packages, to the host, to the management controller and to Heltis. -/
inductive Out where
  | message (chip : Nat) (m : Msg)
  | taskMessage (chip : Nat) (m : TaskMsg)
  | loadReport (chip : Nat) (load : Nat)
  | stealRequest (chip : Nat)
  | stolenTask (chip : Nat) (m : TaskMsg) (id : W32)
  | stealRefused (chip : Nat)
  | trackReset (slot : Nat)
  | endJob (job : W16)
  /-- A pass on its way to a child, a child's sums for its parent, or that the pass is abandoned, and a quiet signal on its way to a
  child (R257, R258). -/
  | wavePass (chip : Nat)
  | waveSums (chip : Nat) (sums : Option (List (Nat × W64 × W64 × W64)))
  | quiet (chip slot : Nat) (loss : W64)
  /-- A host access for another package, and the answer to a package that has forwarded one: bytes, or an error (R237). -/
  | hostForward (chip ia : Nat) (job : W16) (access : FaultWaiter)
  | hostAnswer (chip ia : Nat) (bytes : Option (List Byte))
  | hostData (bytes : List Byte)
  | hostAck
  | hostError
  | notify (what : Nat)
  /-- The scrubber's report of an uncorrectable unit to a chip's fault processor: IA and size (R147). -/
  | scrubError (chip ia n : Nat)
  | attestation (report signature : List Byte)
  | heltisData (bytes : List Byte)
  /-- A stop image (R278, R281): its schedule cycle, the results in flight, and what else is in flight in a form that is not
  architecture. -/
  | stopImage (chip tile : Nat) (frame : W64) (results held : List Byte)
  | errorRecord (chip ia : Nat) (bytes : List Byte)
  | completion (chip ia : Nat) (bytes : List Byte)
  /-- A fault message to the fault processor of another chip (R135): IA, access kind, job, task. -/
  | pageFault (chip ia : Nat) (write : Bool) (job : W16) (task : Nat)
  /-- A decrement, and whether a TDEC sends it (R254). -/
  | decrement (chip copy : Nat) (job : W16) (counted : Bool)
  /-- A command's publish at another home chip (R161). -/
  | publish (chip : Nat) (writes : List (Nat × List Byte))
  /-- A member's contribution to a collective that spans packages (R264). -/
  | contribution (tile seq : Nat)
  deriving DecidableEq, Repr, Inhabited

/-- The sums of a sillage pass (R257, R258). -/
structure Wave where
  pass : Nat := 0
  /-- The package's own counters as the pass under way read them. -/
  snap : List (Nat × W64 × W64 × W64) := []
  startedAt : W64 := 0
  previous : Tab (W64 × W64 × W64) := []
  abandoned : Bool := true
  deriving DecidableEq, Repr, Inhabited

/-- A page migration in progress (R136): the IA page, its size, the new leaf entry. -/
structure Migration where
  page : Nat
  entry : W64
  deriving DecidableEq, Repr, Inhabited

/-- A dump in progress (R289 to R291): its descriptor, the task, job and tile that it names, the FRAME of its event, BASE, the end
of the buffer and REQUIRED; whether its first header is written, where the next section goes, what is still to write, and the
count, flags and first omitted section so far. -/
structure Dump where
  slot : Nat
  task : W32
  job : W16
  tile : Nat
  frame : W64
  base : Nat
  end_ : Nat
  required : Nat
  begun : Bool := false
  at_ : Nat
  rest : List (Nat × List Byte)
  count : Nat := 0
  flags : Nat := 0
  omitted : Nat := 0
  deriving DecidableEq, Repr, Inhabited

/-- Messages for the dispatch controller in the order in which they reach it (R39). -/
inductive DispatchMsg where
  | seedWrite (job : W16) (v : W64)
  | amsg (m : TaskMsg)
  | decrement (copy : Nat) (job : W16)
  deriving DecidableEq, Repr, Inhabited

/-- A replacement of a unit's firmware under way (R297): where the new image lies, the image as verified, and the instance of the unit
that is being replaced. -/
structure FwReplacing where
  ia : Nat
  image : FwImage
  number : Nat := 0
  deriving DecidableEq, Repr, Inhabited

/-- Whether the package is on (R293, R301). -/
inductive Power where
  | on | recovery | off
  deriving DecidableEq, Repr, Inhabited

/-- The registers and units of the package that are not a tile's. -/
structure Pkg where
  power : Power := .on
  /-- R277. -/
  packageError : Bool := false
  /-- Physical numbers of the enabled clusters, rising (R28). -/
  clusters : List Nat := List.range 32
  /-- Spare tiles left on each die (R7, R29). -/
  spares : List Nat := [8, 8, 8, 8]
  /-- HBM channels that are not enabled, channel c of stack n at 32 × n + c (R10, R18). -/
  hbmOff : List Nat := []
  /-- GiB of each LPDDR channel, 0 for one that is not enabled (R10, R19). -/
  lpddrGib : List Nat := List.replicate 16 512
  cxlLinked : BitVec 4 := 0xF
  cxlWidth : BitVec 8 := 0xFF
  poolGib : Nat := 16384
  coord : W64 := 0
  hostLink : BitVec 2 := 3
  portMap : Tab W64 := []
  envMode : BitVec 2 := 0
  envActive : BitVec 2 := 0
  envPending : Bool := false
  envRefused : Bool := false
  thermalHeld : Option (BitVec 2) := none
  schedAge : W32 := 0x10000
  stealCtl : BitVec 18 := 0x30040
  wavePeriod : W16 := 2000
  errDropped : W64 := 0
  powerGated : W32 := 0
  powerLimit : BitVec 12 := 3000
  powerW : BitVec 12 := 0
  tempC : Byte := 0
  detSum : W64 := 0
  frame : W64 := 0
  cycles : W64 := 0
  /-- Images in force by unit, and fused minimums (R292 to R294). -/
  images : Tab FwImage := []
  /-- Fused: the unique secret and the digest of the vendor key (R292, R295). -/
  secret : List Byte := Config.fusedSecret
  vendorDigest : List Byte := Config.fusedDigest
  /-- The vendor key that the boot ROM accepted, and the seed of the identity key, derived at reset (R292, R295). -/
  vendorKey : List Byte := Config.vendorKey
  identity : List Byte := shake256 Config.fusedSecret 32
  svnMin : Tab W32 := []
  /-- Unit and SVN of every image accepted since power-on (R294). -/
  accepted : List (Nat × W32) := []
  /-- Replacements of firmware under way, by unit (R297). -/
  replacing : Tab FwReplacing := []
  /-- Last load that each neighbour reported (R251). -/
  loads : Tab Nat := []
  wave : Wave := {}
  /-- ERRQ and JOB_ID of the last packet each submission queue consumed, and whether the queue is stopped (R234). -/
  subErrq : Tab (Nat × W16) := []
  subStopped : Tab Bool := []
  /-- FRAME at which each cluster last stole (R250). -/
  stoleAt : Tab W64 := []
  /-- Units uncorrectable: first IA and size (R147). -/
  badUnits : List (Nat × Nat) := []
  migrations : List Migration := []
  pageFaults : List PageFault := []
  faultNext : Nat := 0
  /-- Host accesses held at a page that moves or at a stopped tile: number, IA, JOB of the window, the access (R136, R237, R280). -/
  hostHeld : List (Nat × Nat × W16 × FaultWaiter) := []
  hostNext : Nat := 0
  /-- IAs of the host's accesses that other packages have not answered (R237). -/
  hostAway : List Nat := []
  /-- Experts promoted, earliest first: table index and former entries (R143). -/
  promoted : List (Nat × List (Nat × W64)) := []
  hints : List (Nat × List (Nat × Nat)) := []
  /-- Experts of the ranking under way: those chosen, and those not promoted yet (R143). -/
  chosen : List Nat := []
  toPromote : List Nat := []
  /-- Units in a service action: HBM channels at 0, LPDDR channels at 1024, CXL ports at 2048, fabric ports at 3072 (R30, R31). -/
  drains : List Nat := []
  /-- Key index of the contents of frames that no page maps any more, by 64 KiB frame (R140, R141). -/
  frameKeys : Tab Nat := []
  /-- Dumps that wait for a page (R291). -/
  dumps : List Dump := []
  deriving DecidableEq, Repr, Inhabited

/-- Whose move the next step is: a word of an engine of a strand, one access of it, the landing of its oldest result in flight,
or one of the other agents (R148). Assumption log 1. -/
inductive Turn where
  | word (strand : Nat) (engine : Engine)
  | land (strand : Nat) (engine : Engine)
  /-- One more access of a word that is no single access (R151). -/
  | part (strand : Nat) (engine : Engine)
  /-- The oldest trace record of a tile is written (R285). -/
  | trace (tile : Nat)
  | event (i : Instr)
  deriving DecidableEq, Repr

/-- The whole machine. -/
structure State where
  /-- Strand of slot j of tile k at 8 × k + j (R33). -/
  strands : Tab Strand := []
  tiles : Tab Tile := []
  pkg : Pkg := {}
  /-- All of memory: slices and control space at their chip-local IA (R121, R122), the byte of physical address `a` (R130)
  at 2^48 + a. -/
  mem : List Host.Cell := []
  /-- Watches held for remote waits (R56). -/
  watches : List Watch := []
  tasks : Tab Task := []
  taskNext : Nat := 0
  orderNext : Nat := 0
  /-- The number that records which become ready get, and the cycle count at which it last rose: those of one cycle have one
  number (R61). -/
  readyNext : Nat := 0
  readyCycle : W64 := 0
  jobs : Tab Job := []
  toDispatch : List DispatchMsg := []
  msgs : List Msg := []
  msgNext : Nat := 0
  /-- Messages that stopped tiles hold at their ports, in arrival order: the tile, and 512 times the message's number plus the chip
  that sent it (R280). -/
  ports : List (Nat × Nat) := []
  /-- Accesses held at pages, in arrival order (R136): whether it is the host's, the number of the host access or the key of the
  message, first IA and length. -/
  pageQueue : List (Bool × Nat × Nat × Nat) := []
  /-- Granules of a SPILL queue in another package's memory, as this one has written them (R59, R124; log 61): their number. -/
  spillAway : Tab (List Byte) := []
  /-- Requests to units whose firmware is being replaced, in arrival order (R297). -/
  fwHeld : List Instr := []
  /-- Messages sent to other packages and not yet acknowledged (R64, R261). -/
  unacked : List Msg := []
  out : List Out := []
  /-- The model's own: the strand whose word is performed (log 1). -/
  focus : Nat := 0
  /-- The model's own: which agent moves next, first first (log 1). -/
  agenda : List Turn := []
  /-- The model's own: the number of the step, to which free values are applied (log 5). -/
  steps : Nat := 0
  deriving DecidableEq, Repr

/-- The machine right after package reset of a full package at coordinate (0, 0, 0) (R6, R85; logs 2 to 4). -/
def State.reset : State := {}

end Sys2Proof.Machine
end

