-- ==== Sys2Proof/Machine/Access.lean ====
section
/-! DEFINITION. Named operations over State: the parts by number, memory by intermediate address (R121, R122), the page
walk (R130 to R132), and the writes that wake waiting records (R57). -/

namespace Sys2Proof.Machine

/-- What a step answers. -/
abbrev Outcome := Host.Outcome State Fault Refusal

namespace State

/-- The strand slot numbered n = 8 × tile + slot. -/
def strand (s : State) (n : Nat) : Strand := Tab.get {} s.strands n
/-- Replaces a strand slot. -/
def setStrand (s : State) (n : Nat) (x : Strand) : State := { s with strands := Tab.put s.strands n x }
/-- Changes a strand slot. -/
def modStrand (s : State) (n : Nat) (f : Strand → Strand) : State := s.setStrand n (f (s.strand n))
/-- The strand whose word is performed. -/
def cur (s : State) : Strand := s.strand s.focus
/-- Changes the strand whose word is performed. -/
def modCur (s : State) (f : Strand → Strand) : State := s.modStrand s.focus f
/-- A tile. -/
def tile (s : State) (k : Nat) : Tile := Tab.get {} s.tiles k
/-- Changes a tile. -/
def modTile (s : State) (k : Nat) (f : Tile → Tile) : State := { s with tiles := Tab.put s.tiles k (f (s.tile k)) }
/-- Number of the tile of the strand whose word is performed. -/
def here (s : State) : Nat := s.focus / 8
/-- A task. -/
def task (s : State) (t : Nat) : Task := Tab.get {} s.tasks t
/-- Changes a task. -/
def modTask (s : State) (t : Nat) (f : Task → Task) : State := { s with tasks := Tab.put s.tasks t (f (s.task t)) }
/-- A job. -/
def job (s : State) (j : W16) : Job := Tab.get {} s.jobs j.toNat
/-- Changes a job. -/
def modJob (s : State) (j : W16) (f : Job → Job) : State := { s with jobs := Tab.put s.jobs j.toNat (f (s.job j)) }
/-- Changes the package's registers. -/
def modPkg (s : State) (f : Pkg → Pkg) : State := { s with pkg := f s.pkg }
/-- Sends something out of the package. -/
def emit (s : State) (o : Out) : State := { s with out := s.out ++ [o] }
/-- The task of the strand whose word is performed. -/
def curTaskNum (s : State) : Nat := s.cur.task.getD 0
/-- Its record. -/
def curTask (s : State) : Task := s.task s.curTaskNum
/-- Chip number of the package (R8, R20). -/
def chip (s : State) : Nat := wfield s.pkg.coord 24 9
/-- Enabled tiles (R16). -/
def tileCount (s : State) : Nat := 16 * s.pkg.clusters.length
/-- FRAME (R318). -/
def frame (s : State) : W64 := s.pkg.frame
/-- Tile clock cycles since package reset of tile k; the count stands while the tile is stopped (R280, R404). -/
def tileCycles (s : State) (k : Nat) : W64 :=
  match (s.tile k).cycleHeld with
  | some c => c
  | none => s.pkg.cycles - (s.tile k).cycleOff

/-- The chip number names a package of the domain (R119). -/
def inDomain (s : State) (c : Nat) : Bool :=
  decide (c % 8 ≤ wfield s.pkg.coord 15 3 ∧ c / 8 % 8 ≤ wfield s.pkg.coord 18 3 ∧ c / 64 ≤ wfield s.pkg.coord 21 3)

/-- A precise stop of tile k is due (R280): FRAME has reached STOP_AT, or the edge that Heltis named. -/
def stopDue (s : State) (k : Nat) : Bool :=
  ((s.tile k).stopAt.getLsbD 63 && decide (wfield (s.tile k).stopAt 0 63 ≤ s.frame.toNat)) ||
    (s.tile k).stopEdge.elim false fun f => decide (f ≤ s.frame)

/-- Nothing of tile k moves: it is stopped, or its stop is due, which comes before everything else of that cycle (R269, R280). -/
def halted (s : State) (k : Nat) : Bool := (s.tile k).stopped || s.stopDue k

/-- RDCYC of a tile whose stop is due counts no further, whenever the stop is carried out (R280). -/
def noteEdges (s : State) : State :=
  let edge (t : Nat × Tile) : Nat × Tile :=
    if s.stopDue t.1 && t.2.cycleHeld.isNone then (t.1, { t.2 with cycleHeld := some (s.tileCycles t.1) }) else t
  { s with tiles := s.tiles.map edge }

/-- Raises a counter of R286 by one on tile k. -/
def count (s : State) (k num : Nat) (by_ : W64 := 1) : State :=
  s.modTile k fun t => { t with perf := Tab.put t.perf num (Tab.get 0 t.perf num + by_) }

/-- Raises a counter of cycles by the free number of them that the step takes (R286; log 5). -/
def countCycles (s : State) (k num : Nat) : State := s.count k num (Config.cyclesElapsed s.steps)

/-- setf (R94): raises arithmetic flags on tile k. -/
def setFlags (s : State) (k : Nat) (f : BitVec 8) : State :=
  s.modTile k fun t => { t with arithFlags := t.arithFlags ||| f }

end State

/-- The regions of the intermediate address map (R121). -/
inductive Region where
  | slice | control | memory
  deriving DecidableEq, Repr

/-- Chip-local part of an IA. -/
def localOf (ia : Nat) : Nat := ia % 2 ^ 47
/-- Chip number of an IA. -/
def chipOf (ia : Nat) : Nat := ia / 2 ^ 47 % 512

/-- The region of a chip-local address; holes have none (R28, R121). -/
def State.region (s : State) (a : Nat) : Option Region :=
  if a < 0x100000 * s.tileCount then some .slice
  else if 0x100000000 ≤ a ∧ a ≤ 0x1FFFFFFFF then some .control
  else if 0x10000000000 ≤ a ∧ a ≤ 0x1BFFFFFFFFF then some .memory
  else if 0x100000000000 ≤ a ∧ a ≤ 0x17FFFFFFFFFF then some .memory
  else if 0x200000000000 ≤ a ∧ a ≤ 0x2FFFFFFFFFFF then some .memory
  else none

/-- The region of an IA: of another package only the map is known, not how many tiles it has. -/
def State.regionOf (s : State) (ia : Nat) : Option Region :=
  if chipOf ia = s.chip then s.region (localOf ia)
  else if localOf ia < 0x20000000 then some .slice
  else s.region (localOf ia)

/-- First IA of tile k's slice on this package (R8). -/
def State.sliceBase (s : State) (k : Nat) : Nat := 2 ^ 47 * s.chip + 0x100000 * k

/-- The IA lies in tile k's slice of this package. -/
def State.inSlice (s : State) (k ia : Nat) : Bool := decide (s.sliceBase k ≤ ia ∧ ia < s.sliceBase k + 0x100000)

/-- The access of n bytes touches a flag window (R128). -/
def touchesWindow (a n : Nat) : Bool :=
  decide (a % 0x100000 + n > 0xFFE00) && decide (0 < n)

/-- Byte of a frame in the memory list. -/
def frameAt (p : Nat) : Nat := 2 ^ 48 + p

/-- A page-table entry read at a physical address (R132). -/
def State.pte (s : State) (p : Nat) : Nat := ofBytes (cellsRead s.mem (frameAt p) 8)

/-- Enabled HBM channels, and stacks with at least one (R18). -/
def Pkg.hbmChannels (p : Pkg) : Nat := 384 - p.hbmOff.length
def Pkg.hbmStacks (p : Pkg) : Nat :=
  if p.hbmOff.isEmpty then 12
  else ((List.range 12).filter fun n => (List.range 32).any fun c => !p.hbmOff.contains (32 * n + c)).length
/-- Enabled LPDDR channels and their GiB (R19). -/
def Pkg.lpddrChannels (p : Pkg) : Nat := (p.lpddrGib.filter (· != 0)).length
def Pkg.tierGib (p : Pkg) : Nat := p.lpddrGib.sum
/-- The most that the linked CXL ports reach, in GiB (R10). -/
def Pkg.poolMost (p : Pkg) : Nat := 4096 * popCount 4 p.cxlLinked.toNat

/-- The frame lies within installed capacity (R130). -/
def State.frameInstalled (s : State) (p size : Nat) : Bool :=
  let g := 2 ^ 30
  if p < 0x100000000000 then decide (p + size ≤ 2 * s.pkg.hbmChannels * g)
  else if p < 0x200000000000 then decide (p + size ≤ 0x100000000000 + s.pkg.tierGib * g)
  else decide (p + size ≤ 0x200000000000 + s.pkg.poolGib * g)

/-- A leaf that a walk found: where its entry lies, the frame, the page size, WRITE and KEY. -/
structure Leaf where
  entryAt : Nat
  frame : Nat
  size : Nat
  write : Bool
  key : Nat
  deriving DecidableEq, Repr, Inhabited

/-- Reads an entry as a leaf; `none` when it is invalid or malformed (R132). -/
def State.leaf (s : State) (at_ e size : Nat) : Option Leaf :=
  let l : Leaf := ⟨at_, 0x10000 * field e 16 32, size, bitAt e 2, field e 48 9⟩
  if bitAt e 0 && bitAt e 1 && field e 57 7 == 0 && field e 3 13 == 0 && l.frame % size == 0 &&
      s.frameInstalled l.frame size && !(l.key != 0 && decide (0x200000000000 ≤ l.frame)) then some l else none

/-- A pointer entry's next node; `none` when it is invalid or malformed, which a NEXT not aligned to the size of the node is too
(DEDUCED, log 44). -/
def ptNext (e align : Nat) : Option Nat :=
  let p := 0x100 * field e 8 40
  if bitAt e 0 && !bitAt e 1 && field e 48 16 == 0 && field e 2 6 == 0 && p % align == 0 then some p else none

/-- The walk of R131 for a chip-local address of a memory region. -/
def State.walk (s : State) (a : Nat) : Option Leaf :=
  let root := ofBytes (cellsRead s.mem 0x180000000 8)
  if !bitAt root 0 then none
  else
    (ptNext (s.pte (0x1000 * field root 12 36 + 8 * field a 38 9)) 0x1000).bind fun n2 =>
    (ptNext (s.pte (n2 + 8 * field a 29 9)) 0x800).bind fun n1 =>
    let at1 := n1 + 8 * field a 21 8
    let e1 := s.pte at1
    if bitAt e1 1 then s.leaf at1 e1 0x200000
    else (ptNext e1 0x100).bind fun n0 =>
      let at0 := n0 + 8 * field a 16 5
      s.leaf at0 (s.pte at0) 0x10000

/-- Where a byte of this package's IA space lies in the memory list; `none` when its walk faults (R135). -/
def State.place (s : State) (a : Nat) : Option Nat :=
  match s.region a with
  | some .memory => (s.walk a).map fun l => frameAt (l.frame + a % l.size)
  | _ => some a

/-- Every byte of an access has a place; for a write every page permits it, the supervisor's and the host's too (DEDUCED, log 44). -/
def State.placed (s : State) (a n : Nat) (write : Bool) : Bool :=
  (List.range n).all fun i =>
    match s.region (a + i) with
    | some .memory => match s.walk (a + i) with
      | some l => !write || l.write
      | none => false
    | _ => true

/-- A block of control space that a chapter assigns, with its last address (R122, R234, R237, R253, R289, R302). -/
def controlAssigned (a : Nat) : Bool :=
  decide (a < 0x102000000) && decide (a % 0x10000 < 0x400) || decide (0x180000000 ≤ a ∧ a < 0x180000008) ||
  decide (0x180000100 ≤ a ∧ a < 0x180000500) || decide (0x180000800 ≤ a ∧ a < 0x180001800) ||
  decide (0x180002000 ≤ a ∧ a < 0x180002010) || decide (0x180003000 ≤ a ∧ a < 0x180003200) ||
  decide (0x180004000 ≤ a ∧ a < 0x180004400) || decide (0x180006000 ≤ a ∧ a < 0x180006800) ||
  decide (0x180007000 ≤ a ∧ a < 0x180007800) || decide (0x180008000 ≤ a ∧ a < 0x180008000 + 16 * 604)

/-- Control space that a store by a program does not change: the slot counters and the monitors, the controller's HEAD of
a submission queue, LOADED of a key entry, and key entry 0 (R140, R234, R253, R302). -/
def controlReadOnly (a : Nat) : Bool :=
  decide (0x180006000 ≤ a ∧ a < 0x180006800) || decide (0x180008000 ≤ a) ||
  decide (0x180003000 ≤ a ∧ a < 0x180003200 ∧ 0x10 ≤ a % 32 ∧ a % 32 < 0x14) ||
  decide (0x180000800 ≤ a ∧ a < 0x180001800 ∧ 2 ≤ a % 8) || decide (0x180000800 ≤ a ∧ a < 0x180000808)

/-- One byte of this package at a chip-local address; zero where a walk faults. -/
def State.readByte (s : State) (a : Nat) : Byte :=
  match s.place a with
  | some p => cellRead s.mem p
  | none => 0

/-- `n` bytes from a chip-local address. -/
def State.readLocal (s : State) : Nat → Nat → List Byte
  | _, 0 => []
  | a, n + 1 => s.readByte a :: s.readLocal (a + 1) n

/-- `n` bytes from an IA of this package, as a number. -/
def State.readNum (s : State) (ia n : Nat) : Nat := ofBytes (s.readLocal (localOf ia) n)

/-- `n` bytes from an IA: of another package's memory, whatever it holds. -/
def State.readIA (s : State) (ia n : Nat) : List Byte :=
  if chipOf ia = s.chip then s.readLocal (localOf ia) n
  else (List.range n).map fun i => Config.remoteByte (ia + i) s.steps

/-- Writes one byte at a chip-local address without further effect. -/
def State.pokeByte (s : State) (a : Nat) (b : Byte) : State :=
  match s.place a with
  | some p => { s with mem := cellWrite s.mem p b }
  | none => s

/-- Writes bytes from a chip-local address on without further effect. -/
def State.poke (s : State) : Nat → List Byte → State
  | _, [] => s
  | a, b :: bs => (s.pokeByte a b).poke (a + 1) bs

/-- The uncorrectable unit that an access touches, if any (R147). -/
def State.badUnit (s : State) (a n : Nat) : Option (Nat × Nat) :=
  s.pkg.badUnits.find? fun u => decide (u.1 < a + n ∧ a < u.1 + u.2)

/-- A write that covers a whole uncorrectable unit stores fresh check bits (R147). -/
def State.healUnits (s : State) (a n : Nat) : State :=
  if s.pkg.badUnits.isEmpty then s
  else s.modPkg fun p => { p with badUnits := p.badUnits.filter fun u => !decide (a ≤ u.1 ∧ u.1 + u.2 ≤ a + n) }

/-- A queue control word (R123). -/
structure Qcw where
  base : Nat
  depth : Nat
  elem : Nat
  kind : Nat
  valid : Bool
  head : Nat
  tail : Nat
  clean : Bool
  deriving DecidableEq, Repr, Inhabited

/-- Reads the 32 bytes of a QCW; `clean` says that its reserved parts are zero. -/
def Qcw.ofBytes (bs : List Byte) : Qcw :=
  { base := fieldAt bs 0 8, depth := fieldAt bs 8 4, elem := fieldAt bs 12 2, kind := fieldAt bs 14 1
    valid := bitAt (fieldAt bs 15 1) 0, head := fieldAt bs 16 4, tail := fieldAt bs 20 4
    clean := allZero bs 24 8 && fieldAt bs 15 1 < 2 }

/-- Elements in the queue (R123). -/
def Qcw.occupancy (q : Qcw) : Nat := (q.tail + 2 ^ 32 - q.head) % 2 ^ 32

/-- IA of element i. -/
def Qcw.slot (q : Qcw) (i : Nat) : Nat := q.base + i % q.depth * q.elem

/-- The fields satisfy R123. -/
def Qcw.wellFormed (q : Qcw) : Bool :=
  q.clean && decide (1 ≤ q.depth ∧ q.depth ≤ 2 ^ 24 ∧ 8 ≤ q.elem ∧ q.elem ≤ 32768 ∧ q.elem % 8 = 0) &&
    decide (q.occupancy ≤ q.depth)

/-- Bytes of the queue's region. -/
def Qcw.span (q : Qcw) : Nat := q.depth * q.elem

/-- The QCW at an IA of this package. -/
def State.qcwAt (s : State) (ia : Nat) : Qcw := Qcw.ofBytes (s.readLocal (localOf ia) 32)

/-- Chip-local IA of entry i of tile k's QCW table (R122). -/
def qcwTable (k i : Nat) : Nat := 0x100000000 + 0x10000 * k + 32 * i

/-- Entry i of tile k's QCW table. -/
def State.tileQcw (s : State) (k i : Nat) : Qcw := s.qcwAt (qcwTable k i)

/-- The tile that holds a continuation record: the one where it was written, unless it has moved (R55). A record's number is
1024 times its number on that tile, plus the tile. -/
def State.recTile (s : State) (num : Nat) : Nat :=
  let k := num % 1024
  if (s.tile k).recs.any fun r => r.num == num then k
  else (s.tiles.find? fun t => t.2.recs.any fun r => r.num == num).elim k (·.1)

/-- Takes a record's entries out of the wait table that holds them (R56). -/
def State.unwait (s : State) (num : Nat) : State :=
  s.modTile (num % 1024) fun t => { t with waitTable := t.waitTable.filter fun w => w.2.2 != num }

/-- A new place in the ready order, the same for all records of one cycle (R61). -/
def State.nextOrder (s : State) : State :=
  if s.readyCycle = s.pkg.cycles ∧ s.readyNext ≠ 0 then s else { s with readyNext := s.readyNext + 1, readyCycle := s.pkg.cycles }

/-- The 64 bytes of a granule (R53): of another package's memory those that this one has written (log 61). -/
def State.granule (s : State) (ia : Nat) : List Byte :=
  if chipOf ia = s.chip then s.readLocal (localOf ia) 64 else Tab.get (List.replicate 64 0) s.spillAway (ia / 64)

/-- Writes a granule, in this package's memory or another's. -/
def State.setGranule (s : State) (ia : Nat) (bs : List Byte) : State :=
  if chipOf ia = s.chip then s.poke (localOf ia) bs
  else { s with spillAway := Tab.put s.spillAway (ia / 64) bs }.emit (.publish (chipOf ia) [(ia, bs)])

/-- Marks a continuation record of tile k ready, in the order in which records become ready (R54, R57, R61): DEP becomes
zero, in its image too. Records of one cycle get one number, and R61 orders them by STAMP and place in the queue. -/
def State.readyRecord (s : State) (k num : Nat) : State :=
  let s := (match (s.tile k).recs.find? fun (r : ContRec) => r.num == num && r.readyAt.isNone && !r.gone with
    | some r => let ia := (s.tileQcw k (if r.spilled then 30 else 28)).slot r.granule; s.setGranule ia (patch (s.granule ia) 0x1E [0])
    | none => s).nextOrder
  (s.modTile k fun (t : Tile) =>
    { t with
      recs := t.recs.map fun (r : ContRec) =>
        if r.num = num ∧ r.readyAt.isNone ∧ ¬ r.gone then
          { r with dep := 0, readyAt := some s.readyNext, polled := r.polled || r.backoffAt.isSome, backoffAt := none }
        else r }).unwait num

/-- A write of `n` bytes at chip-local `a` meets the keys of departures that have not committed (R56): their records will be
ready at once. -/
def Tile.meetEarly (t : Tile) (a n : Nat) : Tile :=
  if t.early.isEmpty then t
  else { t with early := t.early.map fun x => if localOf x.2.1 < a + n ∧ a < localOf x.2.1 + x.2.2.1 then (x.1, x.2.1, x.2.2.1, true) else x }

/-- Wakes the wait-table entries of tile k keyed to a word that a write of `n` bytes at chip-local `a` touches (R56, R57). -/
def State.wakeEntries (s : State) (k a n : Nat) : State :=
  let s := if (s.tile k).early.isEmpty then s else s.modTile k fun t => t.meetEarly a n
  ((s.tile k).waitTable.filter fun w => decide (localOf w.1 < a + n ∧ a < localOf w.1 + w.2.1)).foldl
    (fun s w => s.readyRecord (s.recTile w.2.2) w.2.2) s

/-- A slot counter of the package: INJ at offset 0, CON at 8, LOST at 16 (R253); it wraps. -/
def State.slotCounter (s : State) (slot off : Nat) : Nat := s.readNum (0x180006000 + 32 * slot + off) 8

/-- Adds to a slot counter (R254). -/
def State.bumpSlot (s : State) (slot off n : Nat) : State :=
  s.poke (0x180006000 + 32 * slot + off) (toBytes 8 (s.slotCounter slot off + n))

/-- A message of which only the loss matters here has left the package (R261). -/
def State.noteSent (s : State) (o : Origin) (b : MsgBody) : State :=
  { s with unacked := s.unacked ++ [⟨s.msgNext, o, b⟩], msgNext := s.msgNext + 1 }

/-- Puts a message in flight: within the package, or out of it, where it counts in INJ (R148, R254). -/
def State.send (s : State) (dest : Nat) (o : Origin) (b : MsgBody) : State :=
  let m : Msg := ⟨s.msgNext, o, b⟩
  let s := { s with msgNext := s.msgNext + 1 }
  if dest = s.chip then { s with msgs := s.msgs ++ [m] }
  else
    let s := if b.counted then s.bumpSlot o.track 0 1 else s
    { s.emit (.message dest m) with unacked := s.unacked ++ [m] }

/-- A remote wait's test on the word at its home: passes with a value, and what it writes (R375, R378). -/
def State.waitTest (s : State) (ia : Nat) (t : WaitTest) : Option (W64 × Option (List Byte)) :=
  match t with
  | .future =>
    if s.readNum (ia + 8) 8 = 0 then none else some (BitVec.ofNat 64 (s.readNum ia 8), none)
  | .pip th sub =>
    let f := BitVec.ofNat 64 (s.readNum ia 8)
    if f < th then none else some (f, if sub then some (toBytes 8 (f - th).toNat) else none)

/-- Who made the last increment of the pip at an IA (R284). -/
def State.setterOf (s : State) (ia : Nat) : Nat × Nat × Nat × Nat :=
  Tab.get (0, 0, 3, 0) (s.tile (localOf ia / 0x100000)).setters (localOf ia % 0x200 / 8)

/-- Tests a watch again; a passing test is performed at the home and answered (R56). -/
def State.testWatch (s : State) (w : Watch) : State :=
  match s.waitTest w.ia w.test with
  | none => s
  | some (v, wr) =>
    let s := { s with watches := s.watches.erase w }
    let s := match wr with
      | some bs => (s.poke (localOf w.ia) bs).wakeEntries (localOf w.ia / 0x100000) (localOf w.ia) 8
      | none => s
    s.send w.origin.chip w.origin (.answer true v none (some w.failedAt) (s.setterOf w.ia))

/-- A queued command of the tile names the pip at an IA in its WAITMASK: tests of the pip come after its start when it is to start now
(R88). -/
def State.pipAwaited (s : State) (ia : Nat) : Bool :=
  (s.tile (localOf ia / 0x100000)).cmds.any fun c => c.state == .queued && bitAt (fieldAt c.bytes 8 8) (localOf ia % 0x200 / 8)

/-- Tests again every watch that a write touches, but for a pip's that a queued command may take first (R56, R88). -/
def State.testWatches (s : State) (a n : Nat) : State :=
  (s.watches.filter fun w => decide (localOf w.ia < a + n ∧ a < localOf w.ia + 16) && !s.pipAwaited w.ia).foldl
    (fun s w => s.testWatch w) s

/-- A write performed at its home on this package: bytes change, units heal, entries and watches wake (R57). -/
def State.perform (s : State) (ia : Nat) (bs : List Byte) : State :=
  let a := localOf ia
  let s := (s.poke a bs).healUnits a bs.length
  let s := match s.region a with
    | some .slice => s.wakeEntries (a / 0x100000) a bs.length
    | _ => s
  s.testWatches a bs.length

/-- The carved queues of tile k's slice by table index: command queues, the continuation queue, the BARRIER region. -/
def State.carved (s : State) (k : Nat) : List (Nat × Nat) :=
  ((List.range 30).filterMap fun i =>
    let q := s.tileQcw k i
    if q.valid then some (localOf q.base, q.span) else none)

/-- Regions of tile k's slice that a user-level access may not touch (R125, R370 step 5). -/
def State.liveRegions (s : State) (k : Nat) : List (Nat × Nat) :=
  let f := (s.tile k).trapFrames
  s.carved k ++ (if f.getLsbD 0 then [(0x100000 * k + wfield f 6 14 * 64, 110592)] else [])

/-- The access reaches the slice of a stopped tile, whose port holds it (R280). -/
def State.stoppedSlice (s : State) (ia : Nat) : Bool :=
  chipOf ia == s.chip && s.region (localOf ia) == some .slice && s.halted (localOf ia / 0x100000)

/-- Two extents overlap. -/
def overlaps (a n b m : Nat) : Bool := decide (a < b + m ∧ b < a + n)

/-- The walker that reads the leaf of one of an access's ends is being replaced, and the walk is held (R297). -/
def State.walkHeld (s : State) (a n : Nat) : Bool :=
  (Tab.find s.pkg.replacing 4).elim false fun w => [a, a + n - 1].any fun x => Config.walkerOf (x / 0x10000) % 12 == w.number

/-- The page of an access of this package does not map now, moves, or has its walk held (R135, R136, R297). -/
def State.pageWaits (s : State) (a n : Nat) (write : Bool) : Bool :=
  chipOf a == s.chip && s.regionOf a == some .memory &&
    (!s.placed (localOf a) n write || s.walkHeld (localOf a) n || s.pkg.migrations.any fun m => overlaps (localOf a) n m.page 0x200000 &&
      match s.walk m.page with
      | some l => overlaps (localOf a) n m.page l.size
      | none => false)

/-- The page under a chip-local address, first address and size; a byte where none maps. -/
def State.pageAt (s : State) (a : Nat) : Nat × Nat :=
  match s.region a, s.walk a with
  | some .memory, some l => (a / l.size * l.size, l.size)
  | _, _ => (a, 1)

/-- An access that arrived before `me`, or before now when it is new, is held at a page of this one (R136 step 5). -/
def State.behindHeld (s : State) (me : Bool × Nat) (ia n : Nat) : Bool :=
  (s.pageQueue.takeWhile fun h => (h.1, h.2.1) != me).any fun h =>
    [localOf ia, localOf ia + (n - 1)].any fun a => let p := s.pageAt a; overlaps p.1 p.2 (localOf h.2.2.1) h.2.2.2

/-- An access waits at a page, in its place of the arrival order (R136). -/
def State.queueAtPage (s : State) (me : Bool × Nat) (ia n : Nat) : State :=
  if s.pageQueue.any fun h => (h.1, h.2.1) == me then s else { s with pageQueue := s.pageQueue ++ [(me.1, me.2, ia, n)] }

/-- An access leaves the pages' arrival order. -/
def State.leavePage (s : State) (me : Bool × Nat) : State := { s with pageQueue := s.pageQueue.filter fun h => (h.1, h.2.1) != me }

/-- The first unit of an offline tile's slice that an access at chip-local `a` touches (R29): slices have units of 16 bytes
(R137). -/
def State.offlineUnit (s : State) (a n : Nat) : Option (Nat × Nat) :=
  (List.range (n / 0x100000 + 2)).findSome? fun i =>
    let k := a / 0x100000 + i
    let lo := max a (0x100000 * k)
    if (decide (lo < a + n) && s.region lo == some .slice && (s.tile k).offline) = true then some (lo / 16 * 16, 16) else none

/-- Bytes of entry i of the ownership table (R122, R134). -/
def ownerAt (i : Nat) : Nat := 0x180000100 + 16 * i

/-- Entry i of the ownership table is valid and contains an IA (R134). -/
def State.ownerHolds (s : State) (ia i : Nat) : Bool :=
  let lo := s.readNum (ownerAt i) 8
  let hi := s.readNum (ownerAt i + 8) 8
  bitAt lo 0 && decide (field lo 16 40 ≤ field ia 16 40 ∧ field ia 16 40 ≤ field hi 16 40)

/-- The home chip of an IA (R134): HOME of the lowest valid entry that contains it, else the chip that the IA names. -/
def State.homeChip (s : State) (ia : Nat) : Nat :=
  match (List.range 64).find? (s.ownerHolds ia) with
  | some i => s.readNum (ownerAt i + 8) 8 % 512
  | none => chipOf ia

/-- The first byte of an access to this package's memory that has no place, or for a write no permission (R135, R237). -/
def State.firstUnplaced (s : State) (a n : Nat) (write : Bool) : Nat :=
  a + (((List.range n).find? fun i => !s.placed (a + i) 1 write).getD 0)

/-- The task that a page fault's message names (R135). -/
def State.waiterTask (s : State) (w : FaultWaiter) : Nat :=
  match w with
  | .staging t => t
  | .fetch n _ => (s.strand n).task.getD 0
  | .message key => ((s.msgs.find? fun m => m.key == key).map (·.origin.task)).getD 0
  | .command k seq => (((s.tile k).cmds.find? fun c => c.seq == seq).map (·.task)).getD 0
  | _ => 0

/-- A host access: each waits for its page on its own (R237). -/
def FaultWaiter.ofHost : FaultWaiter → Bool
  | .hostRead _ _ => true
  | .hostWrite _ _ => true
  | _ => false

/-- A page fault at chip-local `a` (R135), once for what waits: its message goes to the home chip's fault processor, in this
package or another. -/
def State.raiseFault (s : State) (a : Nat) (write : Bool) (job : W16) (w : FaultWaiter) (first : Nat := a) : State :=
  if s.pkg.pageFaults.any fun f => f.waiter == w && !w.ofHost then s
  else
    let ia := 2 ^ 47 * s.chip + a
    let home := s.homeChip ia
    let s' := s.modPkg fun p =>
      { p with pageFaults := p.pageFaults ++ [⟨p.faultNext, a, first, write, job, w, home⟩], faultNext := p.faultNext + 1 }
    if home = s.chip then s' else s'.emit (.pageFault home ia write job (s.waiterTask w))

/-- What waits for an access of this package's memory raises its page fault (R135), at the first byte that has no place; on a page that
only moves there is none (R136). -/
def State.awaitPage (s : State) (ia n : Nat) (write : Bool) (job : W16) (w : FaultWaiter) : State :=
  if s.placed (localOf ia) n write then s else s.raiseFault (s.firstUnplaced (localOf ia) n write) write job w

/-- An open ring as it is used: HEAD and TAIL from its QCW, the rest as it was opened (R125). -/
def State.ringQueue (s : State) (r : Ring) : Qcw :=
  { s.qcwAt r.qcw with base := r.base, depth := r.depth, elem := r.elem, kind := 3, valid := true }

/-- The queue at an IA of tile k's slice: an open ring as it is used, or what its bytes say. -/
def State.ringNow (s : State) (k ia : Nat) : Qcw :=
  match (s.tile k).rings.find? fun r => r.qcw == ia with
  | some r => s.ringQueue r
  | none => s.qcwAt ia

/-- A store touches a slot of an open ring of tile k that is filled and not released (R165). -/
def State.inFilledSlot (s : State) (k a n : Nat) : Bool :=
  (s.tile k).rings.any fun r =>
    let q := s.ringQueue r
    (List.range (min q.occupancy q.depth)).any fun j => overlaps a n (localOf (q.slot (q.head + j))) q.elem

end Sys2Proof.Machine
end

