-- ==== Sys2Proof/Machine/Operands.lean ====
section
/-! DEFINITION. Operand forms (R305 to R309, R312 to R315): which engine owns a word, which registers it reads under which
policy and writes, and the registers of the strand whose word is performed. -/

namespace Sys2Proof.Machine

/-- What the ring, the full/empty bits and the walk need to know of a word (R63, R71, R75, R77). -/
structure View where
  q : BitVec 4
  engine : Engine
  len : Nat
  /-- Scalar and vector sources; true where the source may wait. -/
  srcs : List (RegRef × Bool)
  dest : Option RegRef
  /-- BR, CALL, RET, LOOP (R69). -/
  branch : Bool := false
  /-- END, RTE, IDEM (R311, R383). -/
  meeting : Bool := false
  /-- An atomic under R154. -/
  atomic : Bool := false
  /-- A load that L performs. -/
  load : Bool := false
  /-- A row that is no strand word. -/
  isEvent : Bool := false
  deriving DecidableEq, Repr

/-- A row that is no strand word. -/
def eventView : View := { q := 0, engine := .s, len := 1, srcs := [], dest := none, isEvent := true }

/-- The engine that a SKIP's tag names (R63, R413). -/
def skipEngine (t : BitVec 2) : Engine :=
  if t = 0#2 then .s else if t = 1#2 then .l else if t = 2#2 then .a else .w

/-- The view of every row, from the operand columns of R312 to R315. -/
def view : Instr → View
  | .add o => { q := o.q, engine := .s, len := 1, srcs := [(.s o.a, o.fa), (.s o.b, o.fb)], dest := some (.s o.d) }
  | .sub o => { q := o.q, engine := .s, len := 1, srcs := [(.s o.a, o.fa), (.s o.b, o.fb)], dest := some (.s o.d) }
  | .andW o => { q := o.q, engine := .s, len := 1, srcs := [(.s o.a, o.fa), (.s o.b, o.fb)], dest := some (.s o.d) }
  | .orW o => { q := o.q, engine := .s, len := 1, srcs := [(.s o.a, o.fa), (.s o.b, o.fb)], dest := some (.s o.d) }
  | .xorW o => { q := o.q, engine := .s, len := 1, srcs := [(.s o.a, o.fa), (.s o.b, o.fb)], dest := some (.s o.d) }
  | .shl o => { q := o.q, engine := .s, len := 1, srcs := [(.s o.a, o.fa), (.s o.b, o.fb)], dest := some (.s o.d) }
  | .shrl o => { q := o.q, engine := .s, len := 1, srcs := [(.s o.a, o.fa), (.s o.b, o.fb)], dest := some (.s o.d) }
  | .shra o => { q := o.q, engine := .s, len := 1, srcs := [(.s o.a, o.fa), (.s o.b, o.fb)], dest := some (.s o.d) }
  | .mul o => { q := o.q, engine := .s, len := 1, srcs := [(.s o.a, o.fa), (.s o.b, o.fb)], dest := some (.s o.d) }
  | .mulh o => { q := o.q, engine := .s, len := 1, srcs := [(.s o.a, o.fa), (.s o.b, o.fb)], dest := some (.s o.d) }
  | .mulhu o => { q := o.q, engine := .s, len := 1, srcs := [(.s o.a, o.fa), (.s o.b, o.fb)], dest := some (.s o.d) }
  | .minW o => { q := o.q, engine := .s, len := 1, srcs := [(.s o.a, o.fa), (.s o.b, o.fb)], dest := some (.s o.d) }
  | .minu o => { q := o.q, engine := .s, len := 1, srcs := [(.s o.a, o.fa), (.s o.b, o.fb)], dest := some (.s o.d) }
  | .maxW o => { q := o.q, engine := .s, len := 1, srcs := [(.s o.a, o.fa), (.s o.b, o.fb)], dest := some (.s o.d) }
  | .maxu o => { q := o.q, engine := .s, len := 1, srcs := [(.s o.a, o.fa), (.s o.b, o.fb)], dest := some (.s o.d) }
  | .div o => { q := o.q, engine := .s, len := 1, srcs := [(.s o.a, o.fa), (.s o.b, o.fb)], dest := some (.s o.d) }
  | .divu o => { q := o.q, engine := .s, len := 1, srcs := [(.s o.a, o.fa), (.s o.b, o.fb)], dest := some (.s o.d) }
  | .rem o => { q := o.q, engine := .s, len := 1, srcs := [(.s o.a, o.fa), (.s o.b, o.fb)], dest := some (.s o.d) }
  | .remu o => { q := o.q, engine := .s, len := 1, srcs := [(.s o.a, o.fa), (.s o.b, o.fb)], dest := some (.s o.d) }
  | .clz o => { q := o.q, engine := .s, len := 1, srcs := [(.s o.a, o.fa)], dest := some (.s o.d) }
  | .popc o => { q := o.q, engine := .s, len := 1, srcs := [(.s o.a, o.fa)], dest := some (.s o.d) }
  | .cmp o => { q := o.q, engine := .s, len := 1, srcs := [(.s o.a, o.fa), (.s o.b, o.fb)], dest := none }
  | .sel o => { q := o.q, engine := .s, len := 1, srcs := [(.s o.a, o.fa), (.s o.b, o.fb)], dest := some (.s o.d) }
  | .addi o => { q := o.q, engine := .s, len := 1, srcs := [(.s o.a, o.fa)], dest := some (.s o.d) }
  | .andi o => { q := o.q, engine := .s, len := 1, srcs := [(.s o.a, o.fa)], dest := some (.s o.d) }
  | .ori o => { q := o.q, engine := .s, len := 1, srcs := [(.s o.a, o.fa)], dest := some (.s o.d) }
  | .xori o => { q := o.q, engine := .s, len := 1, srcs := [(.s o.a, o.fa)], dest := some (.s o.d) }
  | .shli o => { q := o.q, engine := .s, len := 1, srcs := [(.s o.a, o.fa)], dest := some (.s o.d) }
  | .movi q d _ => { q := q, engine := .s, len := 2, srcs := [], dest := some (.s d) }
  | .movhi o => { q := o.q, engine := .s, len := 2, srcs := [(.s o.a, o.fa)], dest := some (.s o.d) }
  | .lea q d fa a _ => { q := q, engine := .s, len := 2, srcs := [(.s a, fa)], dest := some (.s d) }
  | .bfx o => { q := o.q, engine := .s, len := 2, srcs := [(.s o.a, o.fa)], dest := some (.s o.d) }
  | .bfi o => { q := o.q, engine := .s, len := 2, srcs := [(.s o.a, o.fa), (.s o.d, true)], dest := some (.s o.d) }
  | .pbr q _ _ => { q := q, engine := .s, len := 1, srcs := [], dest := none }
  | .pbrxImm q _ _ => { q := q, engine := .s, len := 2, srcs := [], dest := none }
  | .pbrxReg q _ fa a _ => { q := q, engine := .s, len := 2, srcs := [(.s a, fa)], dest := none }
  | .br q _ _ _ _ => { q := q, engine := .s, len := 1, srcs := [], dest := none, branch := true }
  | .call q _ _ => { q := q, engine := .s, len := 1, srcs := [], dest := some (.s 31#5), branch := true }
  | .ret q _ => { q := q, engine := .s, len := 1, srcs := [(.s 31#5, true)], dest := none, branch := true }
  | .loopW q _ _ a _ => { q := q, engine := .s, len := 2, srcs := [(.s a, true)], dest := none, branch := true }
  | .endW q => { q := q, engine := .s, len := 1, srcs := [], dest := none, meeting := true }
  | .yield q => { q := q, engine := .s, len := 1, srcs := [], dest := none }
  | .idem q => { q := q, engine := .s, len := 1, srcs := [], dest := none, meeting := true }
  | .live q _ _ => { q := q, engine := .s, len := 2, srcs := [], dest := none }
  | .trapW q _ => { q := q, engine := .s, len := 1, srcs := [], dest := none }
  | .bkpt q => { q := q, engine := .s, len := 1, srcs := [], dest := none }
  | .rte q => { q := q, engine := .s, len := 1, srcs := [], dest := none, meeting := true }
  | .spawn o => { q := o.q, engine := .s, len := 1, srcs := [(.s o.a, o.fa)], dest := none }
  | .tdec o => { q := o.q, engine := .s, len := 1, srcs := [(.s o.a, o.fa)], dest := none }
  | .amsg o => { q := o.q, engine := .s, len := 1, srcs := [(.s o.a, o.fa), (.s o.b, o.fb)], dest := none }
  | .ecmd q _ fa a _ => { q := q, engine := .s, len := 1, srcs := [(.s a, fa)], dest := none }
  | .xpf o => { q := o.q, engine := .s, len := 1, srcs := [(.s o.a, o.fa), (.s o.b, o.fb)], dest := none }
  | .bar q => { q := q, engine := .s, len := 1, srcs := [], dest := none }
  | .qwait q d => { q := q, engine := .s, len := 1, srcs := [], dest := some (.s d) }
  | .accswap q => { q := q, engine := .s, len := 1, srcs := [], dest := none }
  | .getc q d _ => { q := q, engine := .s, len := 1, srcs := [], dest := some (.s d) }
  | .setc q fa a _ => { q := q, engine := .s, len := 1, srcs := [(.s a, fa)], dest := none }
  | .rdcyc q d => { q := q, engine := .s, len := 1, srcs := [], dest := some (.s d) }
  | .rdfrm q d => { q := q, engine := .s, len := 1, srcs := [], dest := some (.s d) }
  | .trmark q fa a _ => { q := q, engine := .s, len := 1, srcs := [(.s a, fa)], dest := none }
  | .perfrd q d _ => { q := q, engine := .s, len := 1, srcs := [], dest := some (.s d) }
  | .skip q e _ => { q := q, engine := skipEngine e, len := 1, srcs := [], dest := none }
  | .ld o => { q := o.q, engine := .l, len := 1, srcs := [(.s o.a, o.fa)], dest := some (.s o.d), load := true }
  | .ldv o => { q := o.q, engine := .l, len := 1, srcs := [(.s o.a, o.fa)], dest := some (.v o.d), load := true }
  | .ldvs o => { q := o.q, engine := .l, len := 1, srcs := [(.s o.a, o.fa), (.s o.b, o.fb)], dest := some (.v o.d), load := true }
  | .ldvx o => { q := o.q, engine := .l, len := 1, srcs := [(.s o.a, o.fa), (.v o.b, o.fb)], dest := some (.v o.d), load := true }
  | .gld o => { q := o.q, engine := .l, len := 1, srcs := [(.s o.a, o.fa)], dest := some (.s o.d), load := true }
  | .gldv o => { q := o.q, engine := .l, len := 1, srcs := [(.s o.a, o.fa), (.v o.b, o.fb), (.v o.d, true)], dest := some (.v o.d), load := true }
  | .getf o => { q := o.q, engine := .l, len := 1, srcs := [(.s o.a, o.fa)], dest := some (.s o.d), load := true }
  | .flrd o => { q := o.q, engine := .l, len := 1, srcs := [(.s o.a, o.fa)], dest := some (.s o.d), load := true }
  | .rngwait o => { q := o.q, engine := .l, len := 1, srcs := [(.s o.a, o.fa), (.s o.b, o.fb)], dest := none }
  | .fenceL q _ _ => { q := q, engine := .l, len := 1, srcs := [], dest := none }
  | .markL q => { q := q, engine := .l, len := 1, srcs := [], dest := none }
  | .st o => { q := o.q, engine := .w, len := 1, srcs := [(.s o.a, o.fa), (.s o.b, o.fb)], dest := none }
  | .stv o => { q := o.q, engine := .w, len := 1, srcs := [(.s o.a, o.fa), (.v o.b, o.fb)], dest := none }
  | .stvs o => { q := o.q, engine := .w, len := 1, srcs := [(.s o.a, o.fa), (.v o.b, o.fb), (.s o.d, true)], dest := none }
  | .stvx o => { q := o.q, engine := .w, len := 1, srcs := [(.s o.a, o.fa), (.v o.b, o.fb), (.v o.d, true)], dest := none }
  | .gst o => { q := o.q, engine := .w, len := 1, srcs := [(.s o.a, o.fa), (.s o.b, o.fb)], dest := none }
  | .gstv o => { q := o.q, engine := .w, len := 1, srcs := [(.s o.a, o.fa), (.v o.b, o.fb), (.v o.d, true)], dest := none }
  | .putf o => { q := o.q, engine := .w, len := 1, srcs := [(.s o.a, o.fa), (.s o.b, o.fb)], dest := none, atomic := true }
  | .fladd o => { q := o.q, engine := .w, len := 1, srcs := [(.s o.a, o.fa), (.s o.b, o.fb)], dest := none, atomic := true }
  | .flwait o _ => { q := o.q, engine := .w, len := 1, srcs := [(.s o.a, o.fa), (.s o.b, o.fb)], dest := none }
  | .rngrel o => { q := o.q, engine := .w, len := 1, srcs := [(.s o.a, o.fa)], dest := none }
  | .pub o => { q := o.q, engine := .w, len := 1, srcs := [(.s o.a, o.fa), (.s o.b, o.fb)], dest := none }
  | .fenceW q _ _ => { q := q, engine := .w, len := 1, srcs := [], dest := none }
  | .markW q => { q := q, engine := .w, len := 1, srcs := [], dest := none }
  | .amoAdd o => { q := o.q, engine := .w, len := 1, srcs := [(.s o.a, o.fa), (.s o.b, o.fb)], dest := some (.s o.d), atomic := true }
  | .amoAnd o => { q := o.q, engine := .w, len := 1, srcs := [(.s o.a, o.fa), (.s o.b, o.fb)], dest := some (.s o.d), atomic := true }
  | .amoOr o => { q := o.q, engine := .w, len := 1, srcs := [(.s o.a, o.fa), (.s o.b, o.fb)], dest := some (.s o.d), atomic := true }
  | .amoXor o => { q := o.q, engine := .w, len := 1, srcs := [(.s o.a, o.fa), (.s o.b, o.fb)], dest := some (.s o.d), atomic := true }
  | .amoMin o => { q := o.q, engine := .w, len := 1, srcs := [(.s o.a, o.fa), (.s o.b, o.fb)], dest := some (.s o.d), atomic := true }
  | .amoMax o => { q := o.q, engine := .w, len := 1, srcs := [(.s o.a, o.fa), (.s o.b, o.fb)], dest := some (.s o.d), atomic := true }
  | .amoMinu o => { q := o.q, engine := .w, len := 1, srcs := [(.s o.a, o.fa), (.s o.b, o.fb)], dest := some (.s o.d), atomic := true }
  | .amoMaxu o => { q := o.q, engine := .w, len := 1, srcs := [(.s o.a, o.fa), (.s o.b, o.fb)], dest := some (.s o.d), atomic := true }
  | .amoSwap o => { q := o.q, engine := .w, len := 1, srcs := [(.s o.a, o.fa), (.s o.b, o.fb)], dest := some (.s o.d), atomic := true }
  | .amoCas o => { q := o.q, engine := .w, len := 1, srcs := [(.s o.a, o.fa), (.s o.b, o.fb), (.s o.d, true)], dest := some (.s o.d), atomic := true }
  | .amoFmin o => { q := o.q, engine := .w, len := 1, srcs := [(.s o.a, o.fa), (.s o.b, o.fb)], dest := some (.s o.d), atomic := true }
  | .amoFmax o => { q := o.q, engine := .w, len := 1, srcs := [(.s o.a, o.fa), (.s o.b, o.fb)], dest := some (.s o.d), atomic := true }
  | .amoFadd o => { q := o.q, engine := .w, len := 1, srcs := [(.s o.a, o.fa), (.s o.b, o.fb)], dest := some (.s o.d), atomic := true }
  | .amoAddNr o => { q := o.q, engine := .w, len := 1, srcs := [(.s o.a, o.fa), (.s o.b, o.fb)], dest := none, atomic := true }
  | .amoAndNr o => { q := o.q, engine := .w, len := 1, srcs := [(.s o.a, o.fa), (.s o.b, o.fb)], dest := none, atomic := true }
  | .amoOrNr o => { q := o.q, engine := .w, len := 1, srcs := [(.s o.a, o.fa), (.s o.b, o.fb)], dest := none, atomic := true }
  | .amoXorNr o => { q := o.q, engine := .w, len := 1, srcs := [(.s o.a, o.fa), (.s o.b, o.fb)], dest := none, atomic := true }
  | .amoMinNr o => { q := o.q, engine := .w, len := 1, srcs := [(.s o.a, o.fa), (.s o.b, o.fb)], dest := none, atomic := true }
  | .amoMaxNr o => { q := o.q, engine := .w, len := 1, srcs := [(.s o.a, o.fa), (.s o.b, o.fb)], dest := none, atomic := true }
  | .amoMinuNr o => { q := o.q, engine := .w, len := 1, srcs := [(.s o.a, o.fa), (.s o.b, o.fb)], dest := none, atomic := true }
  | .amoMaxuNr o => { q := o.q, engine := .w, len := 1, srcs := [(.s o.a, o.fa), (.s o.b, o.fb)], dest := none, atomic := true }
  | .amoSwapNr o => { q := o.q, engine := .w, len := 1, srcs := [(.s o.a, o.fa), (.s o.b, o.fb)], dest := none, atomic := true }
  | .amoFminNr o => { q := o.q, engine := .w, len := 1, srcs := [(.s o.a, o.fa), (.s o.b, o.fb)], dest := none, atomic := true }
  | .amoFmaxNr o => { q := o.q, engine := .w, len := 1, srcs := [(.s o.a, o.fa), (.s o.b, o.fb)], dest := none, atomic := true }
  | .amoFaddNr o => { q := o.q, engine := .w, len := 1, srcs := [(.s o.a, o.fa), (.s o.b, o.fb)], dest := none, atomic := true }
  | .amoXadd o => { q := o.q, engine := .w, len := 1, srcs := [(.s o.a, o.fa), (.s o.b, o.fb)], dest := none, atomic := true }
  | .vadd o => { q := o.q, engine := .a, len := 1, srcs := [(.v o.a, o.fa), (.v o.b, o.fb)], dest := some (.v o.d) }
  | .vsub o => { q := o.q, engine := .a, len := 1, srcs := [(.v o.a, o.fa), (.v o.b, o.fb)], dest := some (.v o.d) }
  | .vmul o => { q := o.q, engine := .a, len := 1, srcs := [(.v o.a, o.fa), (.v o.b, o.fb)], dest := some (.v o.d) }
  | .vfma o => { q := o.q, engine := .a, len := 1, srcs := [(.v o.a, o.fa), (.v o.b, o.fb), (.v o.d, true)], dest := some (.v o.d) }
  | .vfms o => { q := o.q, engine := .a, len := 1, srcs := [(.v o.a, o.fa), (.v o.b, o.fb), (.v o.d, true)], dest := some (.v o.d) }
  | .vmin o => { q := o.q, engine := .a, len := 1, srcs := [(.v o.a, o.fa), (.v o.b, o.fb)], dest := some (.v o.d) }
  | .vmax o => { q := o.q, engine := .a, len := 1, srcs := [(.v o.a, o.fa), (.v o.b, o.fb)], dest := some (.v o.d) }
  | .vabs o => { q := o.q, engine := .a, len := 1, srcs := [(.v o.a, o.fa)], dest := some (.v o.d) }
  | .vneg o => { q := o.q, engine := .a, len := 1, srcs := [(.v o.a, o.fa)], dest := some (.v o.d) }
  | .vand o => { q := o.q, engine := .a, len := 1, srcs := [(.v o.a, o.fa), (.v o.b, o.fb)], dest := some (.v o.d) }
  | .vor o => { q := o.q, engine := .a, len := 1, srcs := [(.v o.a, o.fa), (.v o.b, o.fb)], dest := some (.v o.d) }
  | .vxor o => { q := o.q, engine := .a, len := 1, srcs := [(.v o.a, o.fa), (.v o.b, o.fb)], dest := some (.v o.d) }
  | .vshl o => { q := o.q, engine := .a, len := 1, srcs := [(.v o.a, o.fa), (.v o.b, o.fb)], dest := some (.v o.d) }
  | .vshrL o => { q := o.q, engine := .a, len := 1, srcs := [(.v o.a, o.fa), (.v o.b, o.fb)], dest := some (.v o.d) }
  | .vshrA o => { q := o.q, engine := .a, len := 1, srcs := [(.v o.a, o.fa), (.v o.b, o.fb)], dest := some (.v o.d) }
  | .vcmp o => { q := o.q, engine := .a, len := 1, srcs := [(.v o.a, o.fa), (.v o.b, o.fb)], dest := none }
  | .vsel o => { q := o.q, engine := .a, len := 1, srcs := [(.v o.a, o.fa), (.v o.b, o.fb)], dest := some (.v o.d) }
  | .vmov o => { q := o.q, engine := .a, len := 1, srcs := [(.v o.a, o.fa)], dest := some (.v o.d) }
  | .vbcast o => { q := o.q, engine := .a, len := 1, srcs := [(.s o.a, o.fa)], dest := some (.v o.d) }
  | .vext o => { q := o.q, engine := .a, len := 1, srcs := [(.v o.a, o.fa)], dest := some (.s o.d) }
  | .viota o => { q := o.q, engine := .a, len := 1, srcs := [(.s o.a, o.fa)], dest := some (.v o.d) }
  | .vperm o => { q := o.q, engine := .a, len := 1, srcs := [(.v o.a, o.fa), (.v o.b, o.fb)], dest := some (.v o.d) }
  | .vrot o => { q := o.q, engine := .a, len := 1, srcs := [(.v o.a, o.fa)], dest := some (.v o.d) }
  | .vpopc q d _ => { q := q, engine := .a, len := 1, srcs := [], dest := some (.s d) }
  | .vred o => { q := o.q, engine := .a, len := 1, srcs := (.v o.a, o.fa) :: (if o.op == 6#5 then [(.s o.d, true)] else []), dest := if o.op == 6#5 then none else some (.s o.d) }
  | .vscan o => { q := o.q, engine := .a, len := 1, srcs := [(.v o.a, o.fa)], dest := some (.v o.d) }
  | .vcvt o => { q := o.q, engine := .a, len := 1, srcs := [(.v o.a, o.fa), (.s o.b, o.fb)], dest := some (.v o.d) }
  | .vrnd o => { q := o.q, engine := .a, len := 1, srcs := [(.v o.a, o.fa)], dest := some (.v o.d) }
  | .vfexp o => { q := o.q, engine := .a, len := 1, srcs := [(.v o.a, o.fa)], dest := some (.v o.d) }
  | .vscale o => { q := o.q, engine := .a, len := 1, srcs := [(.v o.a, o.fa), (.v o.b, o.fb)], dest := some (.v o.d) }
  | .vgetexp o => { q := o.q, engine := .a, len := 1, srcs := [(.v o.a, o.fa)], dest := some (.v o.d) }
  | .vrcp o => { q := o.q, engine := .a, len := 1, srcs := [(.v o.a, o.fa)], dest := some (.v o.d) }
  | .vrsq o => { q := o.q, engine := .a, len := 1, srcs := [(.v o.a, o.fa)], dest := some (.v o.d) }
  | .vflog o => { q := o.q, engine := .a, len := 1, srcs := [(.v o.a, o.fa)], dest := some (.v o.d) }
  | .vrand o => { q := o.q, engine := .a, len := 1, srcs := [(.s o.a, o.fa), (.s o.b, o.fb)], dest := some (.v o.d) }
  | .vsrnd o => { q := o.q, engine := .a, len := 1, srcs := [(.v o.a, o.fa), (.s (o.bp ++ 0#1), o.fb), (.s (o.bp ++ 1#1), o.fb)], dest := some (.v o.d) }
  | .vquant o => { q := o.q, engine := .a, len := 1, srcs := [(.v o.a, o.fa), (.s (o.bp ++ 0#1), o.fb), (.s (o.bp ++ 1#1), o.fb)], dest := some (.v o.d) }
  | .vdeq o => { q := o.q, engine := .a, len := 1, srcs := [(.v o.a, o.fa), (.s o.b, o.fb)], dest := some (.v o.d) }
  | .vxacc o => { q := o.q, engine := .a, len := 1, srcs := [(.v o.a, o.fa), (.s o.b, o.fb), (.s o.d, true)], dest := none }
  | .accrd o => { q := o.q, engine := .a, len := 1, srcs := [(.s o.a, o.fa), (.s o.b, o.fb)], dest := some (.v o.d) }
  | .accclr o => { q := o.q, engine := .a, len := 1, srcs := [(.s o.a, o.fa), (.s o.b, o.fb)], dest := none }
  | .xclr o => { q := o.q, engine := .a, len := 1, srcs := [(.s o.a, o.fa)], dest := none }
  | .xaddv o => { q := o.q, engine := .a, len := 1, srcs := [(.s o.a, o.fa), (.v o.b, o.fb)], dest := none }
  | .xrd o => { q := o.q, engine := .a, len := 1, srcs := [(.s o.a, o.fa)], dest := some (.s o.d) }
  | .cpy _ => eventView
  | .cpyg _ => eventView
  | .cpys _ => eventView
  | .mma _ => eventView
  | .epil _ => eventView
  | .mrg _ => eventView
  | .sisect _ => eventView
  | .mskev _ => eventView
  | .coll _ => eventView
  | .qctlSpill _ => eventView
  | .commandCompletion _ => eventView
  | .stampEdge _ => eventView
  | .copyAgePromotion _ => eventView
  | .ecmdQueueTimeout _ => eventView
  | .envelopeModeWrite _ => eventView
  | .envelopeTransitionDone => eventView
  | .windowWrite _ _ => eventView
  | .seedWrite _ _ => eventView
  | .trapFramesWrite _ _ => eventView
  | .stopAtWrite _ _ => eventView
  | .detcauseClear _ _ => eventView
  | .rangeRegisterWrite _ _ _ => eventView
  | .arithFlagsWrite _ _ => eventView
  | .qcwWrite _ _ => eventView
  | .packageReset => eventView
  | .boot _ => eventView
  | .thermalTrip _ => eventView
  | .thermalModeRequest _ => eventView
  | .powerGating _ _ => eventView
  | .ageingMonitorUpdate _ _ _ _ => eventView
  | .tileFailure _ => eventView
  | .tileService _ => eventView
  | .hbmChannelService _ _ => eventView
  | .lpddrChannelService _ _ => eventView
  | .cxlPortService _ _ => eventView
  | .fabricPortService _ _ => eventView
  | .drainComplete _ => eventView
  | .firmwareReplacement _ => eventView
  | .svnMinimumRaise _ _ => eventView
  | .attestationRequest _ => eventView
  | .keyLoad _ => eventView
  | .pageFaultMessage _ _ => eventView
  | .pageMigration _ _ => eventView
  | .migrationComplete _ => eventView
  | .scrubberError _ => eventView
  | .expertHintApply => eventView
  | .submissionTailWrite _ _ => eventView
  | .launchTask _ => eventView
  | .launchGraph _ => eventView
  | .trackReset _ => eventView
  | .endJob _ => eventView
  | .hostRdmaRead _ _ _ => eventView
  | .hostRdmaWrite _ _ _ => eventView
  | .hostPortDown _ => eventView
  | .linkFlitLoss _ => eventView
  | .portDown _ _ => eventView
  | .amsgArrival _ => eventView
  | .taskDecrement _ _ _ => eventView
  | .stagingComplete _ => eventView
  | .dispatch _ => eventView
  | .relaunch _ => eventView
  | .priorityAgeing _ => eventView
  | .agePreemption _ => eventView
  | .preemption _ _ => eventView
  | .preemptionComplete _ => eventView
  | .clusterSteal _ => eventView
  | .loadReport _ _ => eventView
  | .packageStealRequest _ => eventView
  | .stolenTaskArrival _ _ => eventView
  | .departureCommit _ => eventView
  | .replyArrival _ => eventView
  | .remoteLoadRequest _ => eventView
  | .remoteStoreArrival _ => eventView
  | .remoteAmoArrival _ => eventView
  | .remoteFladdArrival _ => eventView
  | .remotePutfArrival _ => eventView
  | .remoteWaitRequest _ => eventView
  | .watchAnswer _ => eventView
  | .postedFailureReport _ => eventView
  | .backoffExpiry _ _ => eventView
  | .accswapAtQuiescence _ => eventView
  | .taskRetirement _ => eventView
  | .wavePass => eventView
  | .waveSnapshot _ _ => eventView
  | .quietBroadcast _ _ => eventView
  | .ringDeadlockDetect _ => eventView
  | .heldErrorRecordPost _ => eventView
  | .stopAtExpiry _ => eventView
  | .heltisStopRequest _ _ => eventView
  | .heltisResume _ => eventView
  | .heltisAccess _ _ => eventView
  | .heltisDumpRequest _ => eventView
  | .traceSample _ => eventView
  | .linkRetraining _ _ _ => eventView
  | .hostPortUp _ => eventView
  | .dynamicCapacityExtent _ => eventView
  | .pageUnmap _ => eventView

/-- Position of an engine in the ring (R71). -/
def engineIdx : Engine → Fin 4
  | .s => 0
  | .l => 1
  | .a => 2
  | .w => 3

/-- The words that a strand word's tag bits name. -/
def engineOfTag (t : BitVec 2) : Engine := skipEngine t

/-- Where a word's result goes. -/
inductive Dest where
  | none
  | s (r : BitVec 5) (x : W64)
  | v (r : BitVec 5) (x : VReg)
  | p (r : BitVec 3) (x : W64)
  | b (r : BitVec 3) (x : W64)
  deriving DecidableEq, Repr

/-- A scalar register's value. -/
def Strand.sreg (t : Strand) (r : BitVec 5) : W64 := regAt t.regs.s r
/-- A vector register's value. -/
def Strand.vreg (t : Strand) (r : BitVec 5) : VReg := regAt t.regs.v r
/-- A predicate's value; p0 reads as all ones (R307). -/
def Strand.preg (t : Strand) (r : BitVec 3) : W64 := if r = 0#3 then BitVec.allOnes 64 else smallAt t.regs.p r
/-- A branch-target register's value (R80). -/
def Strand.breg (t : Strand) (r : BitVec 3) : W64 := smallAt t.regs.b r

/-- Writes a scalar register. -/
def Strand.setS (t : Strand) (r : BitVec 5) (x : W64) : Strand := { t with regs := { t.regs with s := regPut t.regs.s r x } }
/-- Writes a vector register. -/
def Strand.setV (t : Strand) (r : BitVec 5) (x : VReg) : Strand := { t with regs := { t.regs with v := regPut t.regs.v r x } }
/-- Writes a predicate; a write to p0 is ignored (R307). -/
def Strand.setP (t : Strand) (r : BitVec 3) (x : W64) : Strand :=
  if r = 0#3 then t else { t with regs := { t.regs with p := smallPut t.regs.p r x } }
/-- Writes a branch-target register. -/
def Strand.setB (t : Strand) (r : BitVec 3) (x : W64) : Strand := { t with regs := { t.regs with b := smallPut t.regs.b r x } }

/-- A bit of a 32-bit mask set or cleared. -/
def bitPut (m : W32) (r : BitVec 5) (x : Bool) : W32 :=
  if x then m ||| (1#32 <<< r.toNat) else m &&& ~~~(1#32 <<< r.toNat)

/-- The full/empty bit of a register (R75). -/
def Strand.isFull (t : Strand) : RegRef → Bool
  | .s r => t.sFull.getLsbD r.toNat
  | .v r => t.vFull.getLsbD r.toNat

/-- Sets the full/empty bit of a register. -/
def Strand.setFull (t : Strand) (r : RegRef) (x : Bool) : Strand :=
  match r with
  | .s r => { t with sFull := bitPut t.sFull r x }
  | .v r => { t with vFull := bitPut t.vFull r x }

/-- The register is time-tainted (R287). -/
def Strand.isTainted (t : Strand) : RegRef → Bool
  | .s r => t.sTaint.getLsbD r.toNat
  | .v r => t.vTaint.getLsbD r.toNat

/-- Marks or clears a register's time taint. -/
def Strand.setTaint (t : Strand) (r : RegRef) (x : Bool) : Strand :=
  match r with
  | .s r => { t with sTaint := bitPut t.sTaint r x }
  | .v r => { t with vTaint := bitPut t.vTaint r x }

/-- Some source of the word is time-tainted. -/
def Strand.anyTaint (t : Strand) (v : View) : Bool := v.srcs.any fun r => t.isTainted r.1

/-- Writes a result and marks the register full, with its taint (R75, R287). -/
def Strand.put (t : Strand) (d : Dest) (taint : Bool) : Strand :=
  match d with
  | .none => t
  | .s r x => ((t.setS r x).setFull (.s r) true).setTaint (.s r) taint
  | .v r x => ((t.setV r x).setFull (.v r) true).setTaint (.v r) taint
  | .p r x => t.setP r x
  | .b r x => t.setB r x

/-- A nine-bit immediate, sign-extended (R312). -/
def imm9 (i : BitVec 9) : W64 := i.signExtend 64
/-- A 37-bit immediate, sign-extended (R306). -/
def imm37 (i : BitVec 37) : W64 := i.signExtend 64
/-- Bytes of a size code. -/
def sizeBytes (z : BitVec 2) : Nat := 2 ^ z.toNat
/-- A nine-bit offset in units of n bytes (R313). -/
def offset9 (i : BitVec 9) (n : Nat) : W64 := i.signExtend 64 * BitVec.ofNat 64 n
/-- A five-bit store offset in units of n bytes (R314). -/
def offset5 (d : BitVec 5) (n : Nat) : W64 := d.signExtend 64 * BitVec.ofNat 64 n
/-- LEN, LOOP and TARGET of a branch-target register (R80). -/
def bTarget (x : W64) : W32 := x.setWidth 32
/-- LOOP bit. -/
def bLoop (x : W64) : Bool := x.getLsbD 63
/-- LEN. -/
def bLen (x : W64) : Nat := wfield x 32 16
/-- A branch-target register's value. -/
def bMake (loop : Bool) (len : BitVec 16) (target : W32) : W64 :=
  ((if loop then 1#1 else 0#1) ++ 0#15 ++ len ++ target : BitVec 64)

end Sys2Proof.Machine
end

