-- ==== Sys2Proof/Machine/Engine.lean ====
section
/-! DEFINITION. The engines of one strand (R63 to R82): tokens of the dependency ring, walk counts, branch outcomes, LOOP
closing, results in flight, and LIVEMASK and range registers in program order. -/

namespace Sys2Proof.Machine

/-- Queue that WP of an engine waits on (R71), in the order of R52. -/
def tokWP : Engine → Fin 8
  | .s => 3
  | .l => 0
  | .a => 1
  | .w => 2
/-- Queue that WN of an engine waits on. -/
def tokWN : Engine → Fin 8
  | .s => 4
  | .l => 5
  | .a => 6
  | .w => 7
/-- Queue that SP of an engine signals into. -/
def tokSP : Engine → Fin 8
  | .s => 7
  | .l => 4
  | .a => 5
  | .w => 6
/-- Queue that SN of an engine signals into. -/
def tokSN : Engine → Fin 8
  | .s => 0
  | .l => 1
  | .a => 2
  | .w => 3

/-- Every queue that the nibble names holds a token. -/
def Strand.tokensReady (t : Strand) (e : Engine) (q : BitVec 4) : Bool :=
  (!q.getLsbD 3 || decide (0 < t.tokens[tokWP e])) && (!q.getLsbD 2 || decide (0 < t.tokens[tokWN e]))

/-- Takes one token from each queue that the nibble names (R71). -/
def Strand.takeTokens (t : Strand) (e : Engine) (q : BitVec 4) : Strand :=
  let k := if q.getLsbD 3 then t.tokens.set (tokWP e) (t.tokens[tokWP e] - 1) else t.tokens
  { t with tokens := if q.getLsbD 2 then k.set (tokWN e) (k[tokWN e] - 1) else k }

/-- Adds the signals of a retiring word; `none` when a queue it signals holds 8 tokens (R72). -/
def Strand.signal (t : Strand) (e : Engine) (sp sn : Bool) : Option Strand :=
  if (sp && decide (8 ≤ t.tokens[tokSP e])) || (sn && decide (8 ≤ t.tokens[tokSN e])) then none
  else
    let k := if sp then t.tokens.set (tokSP e) (t.tokens[tokSP e] + 1) else t.tokens
    some { t with tokens := if sn then k.set (tokSN e) (k[tokSN e] + 1) else k }

/-- Program counter of an engine. -/
def Strand.pc (t : Strand) (e : Engine) : W32 := t.pcs[engineIdx e]
/-- Walk count of an engine (R66). -/
def Strand.walk (t : Strand) (e : Engine) : Nat := t.walks[engineIdx e]
/-- Sets the program counter of an engine. -/
def Strand.setPc (t : Strand) (e : Engine) (x : W32) : Strand := { t with pcs := t.pcs.set (engineIdx e) x }
/-- Sets the walk count of an engine. -/
def Strand.setWalk (t : Strand) (e : Engine) (x : Nat) : Strand := { t with walks := t.walks.set (engineIdx e) x }
/-- Least walk count (R66). -/
def Strand.leastWalk (t : Strand) : Nat := min (min t.walks[0] t.walks[1]) (min t.walks[2] t.walks[3])
/-- Greatest walk count. -/
def Strand.mostWalk (t : Strand) : Nat := max (max t.walks[0] t.walks[1]) (max t.walks[2] t.walks[3])
/-- L has not reached the word where W stands: loads before it may be left (R154). -/
def Strand.loadsTrail (t : Strand) : Bool := decide (t.walk .l < t.walk .w)
/-- A step of `len` words would raise the slip above WINDOW (R66). -/
def Strand.windowHolds (t : Strand) (e : Engine) (len : Nat) : Bool :=
  let other := (t.setWalk e (t.walk e + len)).leastWalk
  decide (t.walk e + len > other + t.window.toNat)

/-- Posts an outcome to L, A and W (R69). -/
def Strand.post (t : Strand) (o : BranchOutcome) : Strand :=
  { t with outcomes := t.outcomes.set 1 (t.outcomes[1] ++ [o]) |>.set 2 (t.outcomes[2] ++ [o]) |>.set 3 (t.outcomes[3] ++ [o]) }

/-- Inserts a b register into a list that has the latest body start first. -/
def Strand.insertLoop (t : Strand) (b : BitVec 3) : List (BitVec 3) → List (BitVec 3)
  | [] => [b]
  | c :: cs => if bTarget (t.breg c) ≤ bTarget (t.breg b) then b :: c :: cs else c :: t.insertLoop b cs

/-- The b registers whose active LOOP closes at last word `last`, innermost (the latest body start) first (R82). -/
def Strand.closingLoops (t : Strand) (last : W32) : List (BitVec 3) :=
  ((List.range 8).map (BitVec.ofNat 3 ·)).filter
      (fun b => bLoop (t.breg b) && bTarget (t.breg b) + BitVec.ofNat 32 (bLen (t.breg b)) == last + 1)
    |>.foldr t.insertLoop []

/-- The head of a two-word instruction stands at the closing word of an active LOOP (R387). -/
def Strand.headCloses (t : Strand) : Bool := !(t.closingLoops (t.pc .s)).isEmpty

/-- S closes loops innermost first: a nonzero count goes back to TARGET and ends the closing (R82), also where the closing word is
a taken branch (R69; DEDUCED, log 10). -/
def Strand.closeLoops (t : Strand) (tag : Nat) : List (BitVec 3) → Strand
  | [] => t
  | b :: bs =>
    let r := smallAt t.loopRegs b
    let c := t.sreg r - 1
    let t := t.setS r c
    if c = 0 then
      ((t.setB b (t.breg b &&& 0x7FFFFFFFFFFFFFFF)).post ⟨tag, none⟩).closeLoops tag bs
    else (t.post ⟨tag, some (bTarget (t.breg b))⟩).setPc .s (bTarget (t.breg b))

/-- An engine takes the outcomes posted for the word it has passed at walk count `tag`, up to a taken one (R69). -/
def popTagged (tag : Nat) : List BranchOutcome → List BranchOutcome × Option W32 × Bool
  | [] => ([], none, false)
  | o :: os =>
    if o.tag = tag then
      match o.target with
      | some x =>
        let (rest, later, _) := popTagged tag os
        (rest, some (later.getD x), true)
      | none => let (rest, x, _) := popTagged tag os; (rest, x, true)
    else (o :: os, none, false)

/-- L, A or W takes the outcomes tagged for a word; says whether there were any. -/
def Strand.popFor (t : Strand) (e : Engine) (tag : Nat) : Strand × Bool :=
  let (rest, x, any) := popTagged tag t.outcomes[engineIdx e]
  let t := { t with outcomes := t.outcomes.set (engineIdx e) rest }
  (match x with
   | some pc => t.setPc e pc
   | none => t, any)

/-- S has a closing step still to make for the word at `tag`, or has not reached a word that closes a loop (R69). -/
def Strand.mayClose (t : Strand) (tag : Nat) (last : W32) : Bool :=
  t.closing[0] == some tag || (decide (t.walk .s ≤ tag) && !(t.closingLoops last).isEmpty)

/-- Steps an engine past a word of `len` words, after S has posted its outcome or the word's own target; then the closing
word's outcomes (R69, R82). -/
def Strand.pass (t : Strand) (e : Engine) (len : Nat) (target : Option W32) : Strand :=
  let tag := t.walk e
  let last := t.pc e + BitVec.ofNat 32 len - 1
  let t := (t.setPc e (target.getD (t.pc e + BitVec.ofNat 32 len))).setWalk e (tag + len)
  if e = .s then
    let bs := t.closingLoops last
    if bs.all fun b => t.isFull (.s (smallAt t.loopRegs b)) then t.closeLoops tag bs
    else { t with closing := t.closing.set 0 (some tag) }
  else
    let (t', any) := t.popFor e tag
    if any then
      if t'.closing[0] == some tag then { t' with closing := t'.closing.set (engineIdx e) (some tag) } else t'
    else if t.mayClose tag last then { t with closing := t.closing.set (engineIdx e) (some tag) }
    else t

/-- An engine held behind a closing word goes on when its outcome is there, or S its count register; `none` while it
holds. The word's last index is the one before the engine's PC. -/
def Strand.resolve (t : Strand) (e : Engine) (tag : Nat) : Option Strand :=
  let clear (t : Strand) : Strand := { t with closing := t.closing.set (engineIdx e) none }
  if e = .s then
    let bs := t.closingLoops (t.pc .s - 1)
    if bs.all fun b => t.isFull (.s (smallAt t.loopRegs b)) then some ((clear t).closeLoops tag bs) else none
  else
    let (t', any) := t.popFor e tag
    if any then some (clear t')
    else if t.closing[0] == some tag || decide (t.walk .s ≤ tag) then none else some (clear t)

/-- The state that a record's walk block keeps (R70). -/
def Strand.block (t : Strand) : WalkBlock :=
  ⟨t.walks, t.outcomes, t.closing, t.loopRegs, t.halves, t.halfAt, t.atomMark, t.liveBefore, t.rewoke⟩

/-- Restores a walk block (R70, R274). -/
def Strand.withBlock (t : Strand) (w : WalkBlock) : Strand :=
  { t with walks := w.walks, outcomes := w.outcomes, closing := w.closing, loopRegs := w.loopRegs, halves := w.halves, halfAt := w.halfAt,
           atomMark := w.atomMark, liveBefore := w.liveBefore, rewoke := w.rewoke }

/-- Outcomes that S has posted and some engine has not popped (R70). -/
def WalkBlock.held (w : WalkBlock) : Nat := max w.outcomes[1].length (max w.outcomes[2].length w.outcomes[3].length)

/-- Granules of a walk block: a 64-byte head and 5 bytes an outcome, in whole granules (R70). -/
def WalkBlock.granules (w : WalkBlock) : Nat := roundUp (64 + 5 * w.held) 64 / 64

/-- The value before the first write that an engine at walk count k has still to pass, else the present one (R50, R120). -/
def inProgramOrder {α : Type} (k : Nat) (now : α) : List (Nat × α) → α
  | [] => now
  | (tag, before) :: t => if k ≤ tag then inProgramOrder k before t else now

/-- LIVEMASK in program order at walk count k (R50). -/
def Strand.liveAt (t : Strand) (k : Nat) : W64 := inProgramOrder k t.livemask t.liveBefore
/-- Range registers in program order at walk count k (R120). -/
def Strand.rangesAt (t : Strand) (k : Nat) : Vector RangeReg 16 := inProgramOrder k t.ranges t.rangesBefore

/-- Writes LIVEMASK at S, keeping the old value for engines behind S (R50, R386). -/
def Strand.setLive (t : Strand) (x : W64) : Strand :=
  { t with livemask := x, liveBefore := (t.walk .s, t.livemask) :: t.liveBefore.takeWhile fun p => decide (t.leastWalk ≤ p.1) }

/-- Writes the range registers at S, keeping the old values for engines behind S (R120). -/
def Strand.setRanges (t : Strand) (x : Vector RangeReg 16) : Strand :=
  { t with ranges := x, rangesBefore := (t.walk .s, t.ranges) :: t.rangesBefore.takeWhile fun p => decide (t.leastWalk ≤ p.1) }

/-- Writes a result in flight and marks its register full (R75). -/
def Strand.landWrite (t : Strand) (f : Flight) : Strand :=
  match f.dest with
  | some (.s r) => t.put (.s r f.sval) f.taint
  | some (.v r) => t.put (.v r f.vval) f.taint
  | none => t

/-- The oldest result in flight of an engine, and the others. -/
def takeFlight (e : Engine) : List Flight → Option (Flight × List Flight)
  | [] => none
  | f :: fs => if f.engine = e then some (f, fs) else (takeFlight e fs).map fun (g, gs) => (g, f :: gs)

/-- Every result in flight lands, oldest first (R268 steps 2 and 3); signals into a full queue stay in flight, and their trap comes
after this one (R72). -/
def Strand.landAll (t : Strand) : Strand :=
  t.flights.foldl (fun t f =>
    let t := t.landWrite f
    (t.signal f.engine f.sp f.sn).getD { t with flights := t.flights ++ [{ f with dest := none }] }) { t with flights := [] }

/-- Some result in flight of engine e may find its queue full (R72): the tokens there and the signals on their way are more than
8. The engine's later words are not performed until it has landed (R268). -/
def Strand.overflowRisk (t : Strand) (e : Engine) : Bool :=
  let mine := t.flights.filter fun f => f.engine == e
  decide (8 < t.tokens[tokSP e] + (mine.filter (·.sp)).length) || decide (8 < t.tokens[tokSN e] + (mine.filter (·.sn)).length)

/-- A SKIP of the engine has cycles to pass (R413). -/
def Strand.idles (t : Strand) (e : Engine) : Bool := t.flights.any fun f => f.engine == e && f.skip

/-- S holds at a closing word whose count register a result in flight is still to write (R69, R82). -/
def Strand.closeHolds (t : Strand) (len : Nat) : Bool :=
  (t.closingLoops (t.pc .s + BitVec.ofNat 32 len - 1)).any fun b => !t.isFull (.s (smallAt t.loopRegs b))

/-- Counts a half once for the word where its engine stands (R155, R372). -/
def Strand.countHalf (t : Strand) (i : Fin 4) (e : Engine) : Strand :=
  if t.halfAt[i] = t.walk e + 1 then t
  else { t with halves := t.halves.set i (t.halves[i] + 1), halfAt := t.halfAt.set i (t.walk e + 1) }

/-- Tokens of R52 as one 32-bit number. -/
def Strand.tokenWord (t : Strand) : Nat :=
  (List.range 8).foldl (fun acc i => acc + t.tokens.toList.getD i 0 * 16 ^ i) 0

/-- Token counts of a 32-bit number (R52). -/
def tokensOf (x : Nat) : Vector Nat 8 := Vector.ofFn fun i : Fin 8 => field x (4 * i.val) 4

end Sys2Proof.Machine
end

