-- ==== Sys2Proof/Machine/Records.lean ====
section
/-! DEFINITION. Byte layouts that the machine writes and reads back: continuation records (R52, R53), trap frames (R271),
fault records (R275, R473), DETCAUSE (R287, R288), trace records (R283 to R285) and dumps (R289 to R291). -/

namespace Sys2Proof.Machine

/-- Registers named by a 32-bit mask, in increasing number. -/
def regsIn (m : Nat) : List (BitVec 5) := ((List.range 32).filter (bitAt m)).map (BitVec.ofNat 5 ·)

/-- Bytes of a 64-bit register. -/
def wordBytes (x : W64) : List Byte := toBytes 8 x.toNat
/-- A 64-bit register from bytes at an offset. -/
def wordAt (bs : List Byte) (o : Nat) : W64 := BitVec.ofNat 64 (fieldAt bs o 8)

/-- The live set of a departure: LIVEMASK in program order and the destination of the departing word (R50). -/
def liveSet (mask : W64) (dest : Option RegRef) : W64 :=
  match dest with
  | some (.s r) => mask ||| (1#64 <<< r.toNat)
  | some (.v r) => mask ||| (1#64 <<< (32 + r.toNat))
  | none => mask

/-- The parts after the header: live scalars, live vectors, p0 to p7, b0 to b7 (R53). -/
def regImage (t : Strand) (live : W64) : List Byte :=
  (regsIn (wfield live 0 32)).flatMap (fun r => wordBytes (t.sreg r)) ++
  (regsIn (wfield live 32 32)).flatMap (fun r => laneBytes (t.vreg r)) ++
  ((List.range 8).flatMap fun i => wordBytes (t.preg (BitVec.ofNat 3 i))) ++
  ((List.range 8).flatMap fun i => wordBytes (t.breg (BitVec.ofNat 3 i)))

/-- Zero bytes up to a multiple of 64 (R53). -/
def padTo64 (bs : List Byte) : List Byte := bs ++ List.replicate (roundUp bs.length 64 - bs.length) 0

/-- Bytes before register image `r` of a record with a live set: a scalar or a vector (R53). -/
def imageOffset (live : W64) : RegRef → Nat
  | .s r => 64 + 8 * popCount 32 (wfield live 0 32 % 2 ^ r.toNat)
  | .v r => 64 + 8 * popCount 32 (wfield live 0 32) + 256 * popCount 32 (wfield live 32 32 % 2 ^ r.toNat)

/-- The registers that a record's bytes restore (R49, R53): outside the live set they are zero. -/
def restoreRegs (bs : List Byte) (live : W64) : Regs :=
  let at_ (ref : RegRef) := imageOffset live ref
  let tail := 64 + 8 * popCount 32 (wfield live 0 32) + 256 * popCount 32 (wfield live 32 32)
  { s := Vector.ofFn fun i : Fin 32 =>
      if live.getLsbD i.val then wordAt bs (at_ (.s (BitVec.ofNat 5 i.val))) else 0
    v := Vector.ofFn fun i : Fin 32 =>
      if live.getLsbD (32 + i.val) then lanesOf (bs.drop (at_ (.v (BitVec.ofNat 5 i.val)))) else Vector.replicate 64 0
    p := Vector.ofFn fun i : Fin 8 => wordAt bs (tail + 8 * i.val)
    b := Vector.ofFn fun i : Fin 8 => wordAt bs (tail + 64 + 8 * i.val) }

/-- The fields of a continuation header that are not registers (R52). -/
structure ContHeader where
  pcs : Vector W32 4
  live : W64
  tokens : Nat
  reason : Byte
  flags : Nat
  dep : Nat
  rank : Nat
  task : W32
  job : W16
  leaseRef : W16
  seed : W64
  key : W64
  stamp : W64
  deriving DecidableEq, Repr, Inhabited

/-- The 64 bytes of a continuation header (R52). -/
def ContHeader.bytes (h : ContHeader) : List Byte :=
  h.pcs.toList.flatMap (fun p => toBytes 4 p.toNat) ++ toBytes 4 (wfield h.live 0 32) ++ toBytes 4 (wfield h.live 32 32) ++
  toBytes 4 h.tokens ++ [h.reason] ++ toBytes 1 h.flags ++ toBytes 1 h.dep ++ toBytes 1 h.rank ++
  toBytes 4 h.task.toNat ++ toBytes 2 h.job.toNat ++ toBytes 2 h.leaseRef.toNat ++ wordBytes h.seed ++ wordBytes h.key ++
  wordBytes h.stamp

/-- Bytes 0x0000 to 0x21BF of a trap frame (R271). -/
def frameBytes (t : Strand) (cause tokens : Nat) (addr : W64) (id : W32) (job : W16) (frame : W64) : List Byte :=
  t.pcs.toList.flatMap (fun p => toBytes 4 p.toNat) ++ toBytes 4 cause ++ toBytes 4 2 ++ toBytes 4 tokens ++
  toBytes 4 t.window.toNat ++ wordBytes addr ++ toBytes 4 id.toNat ++ toBytes 4 job.toNat ++ wordBytes frame ++
  wordBytes t.livemask ++
  t.regs.s.toList.flatMap wordBytes ++ t.regs.v.toList.flatMap laneBytes ++
  ((List.range 8).flatMap fun i => wordBytes (t.preg (BitVec.ofNat 3 i))) ++ t.regs.b.toList.flatMap wordBytes

/-- The registers of a trap frame (R274). -/
def frameRegs (bs : List Byte) : Regs :=
  { s := Vector.ofFn fun i : Fin 32 => wordAt bs (0x40 + 8 * i.val)
    v := Vector.ofFn fun i : Fin 32 => lanesOf (bs.drop (0x140 + 256 * i.val))
    p := Vector.ofFn fun i : Fin 8 => wordAt bs (0x2140 + 8 * i.val)
    b := Vector.ofFn fun i : Fin 8 => wordAt bs (0x2180 + 8 * i.val) }

/-- A fault, error or loss record before it is laid out (R275). -/
structure FaultRec where
  cause : Nat
  sub : Nat := 0
  source : Nat
  flags : Nat := 0
  pc : W32 := 0xFFFFFFFF
  addr : W64 := 0
  cmd : W32 := 0
  task : W32 := 0
  job : W16 := 0
  tile : Nat := 0
  element : W64 := 0xFFFFFFFFFFFFFFFF
  detail : List Byte := []
  deriving DecidableEq, Repr, Inhabited

/-- The 64 bytes of a fault record (R275). -/
def FaultRec.bytes (r : FaultRec) (chip : Nat) (frame : W64) : List Byte :=
  toBytes 1 r.cause ++ toBytes 1 r.sub ++ toBytes 1 r.source ++ toBytes 1 r.flags ++ toBytes 4 r.pc.toNat ++
  wordBytes r.addr ++ toBytes 4 r.cmd.toNat ++ toBytes 4 r.task.toNat ++ toBytes 2 r.job.toNat ++ toBytes 2 r.tile ++
  toBytes 4 chip ++ wordBytes r.element ++ wordBytes frame ++ (r.detail ++ List.replicate (16 - r.detail.length) 0)

/-- Adds an entry to a queue whose QCW lies on this package: the element's bytes, here or in another package (R124), then TAIL
(R123). -/
def State.enqueueAt (s : State) (qcw : Nat) (bs : List Byte) : State :=
  let q := s.qcwAt qcw
  let ia := q.slot q.tail
  let s := if chipOf ia = s.chip then s.perform ia bs else s.emit (.publish (chipOf ia) [(ia, bs)])
  s.perform (qcw + 20) (toBytes 4 ((q.tail + 1) % 2 ^ 32))

/-- What an entry for a queue of this package has to wait for: a page under its QCW or its next slot, first byte and length (R135,
R136). -/
def State.queueWaits (s : State) (qcw : Nat) : Option (Nat × Nat) :=
  if s.pageWaits qcw 32 true then some (qcw, 32)
  else
    let q := s.qcwAt qcw
    let ia := q.slot q.tail
    if q.valid && s.pageWaits ia q.elem true then some (ia, q.elem) else none

/-- An entry cannot reach the queue now: a page, or the port of a stopped tile (R280), holds it. -/
def State.queueShut (s : State) (qcw : Nat) : Bool :=
  (s.queueWaits qcw).isSome || s.stoppedSlice qcw || s.stoppedSlice ((s.qcwAt qcw).slot (s.qcwAt qcw).tail)

/-- A record dropped because it found no queue (R276). -/
def State.dropError (s : State) : State :=
  s.modPkg fun p => { p with errDropped := if p.errDropped = BitVec.allOnes 64 then p.errDropped else p.errDropped + 1 }

/-- A QCW carves an error queue (R276). -/
def errorQueue (q : Qcw) : Bool := q.valid && q.kind == 7 && q.elem == 64

/-- Posts a record of 64 bytes to the queue whose QCW is at `errq` (R276): a full queue holds it up to 64 records, an
invalid queue drops it; one that a page or a stopped tile keeps away is held too (R136, R280). -/
def State.postTo (s : State) (job : W16) (errq : Nat) (bs : List Byte) : State :=
  if errq = 0 then s.dropError
  else if chipOf errq ≠ s.chip then s.emit (.errorRecord (chipOf errq) errq bs)
  else
    let q := s.qcwAt errq
    if s.pageWaits errq 32 true then s.modJob job fun j => { j with heldErrors := j.heldErrors ++ [(errq, bs)] }
    else if !errorQueue q then s.dropError
    else if s.queueShut errq then s.modJob job fun j => { j with heldErrors := j.heldErrors ++ [(errq, bs)] }
    else if q.occupancy < q.depth ∧ (s.job job).heldErrors.all (fun h => h.1 != errq) then s.enqueueAt errq bs
    else if (s.job job).heldErrors.length < 64 then s.modJob job fun j => { j with heldErrors := j.heldErrors ++ [(errq, bs)] }
    else s.dropError

/-- Posts a fault record to its job's error queue (R275, R276). -/
def State.postRecord (s : State) (r : FaultRec) : State :=
  s.postTo r.job (s.job r.job).errq (r.bytes s.chip s.frame)

/-- Merges an event into one DETCAUSE entry, where it matches (R288). -/
def detMatch (e : W64) (code : Nat) (cmd : Bool) (where_ : W32) : Option W64 :=
  if wfield e 0 8 = code ∧ e.getLsbD 31 = cmd ∧ wfield e 32 32 = where_.toNat ∧ code ≠ 0 then
    some (if wfield e 8 23 = 0x7FFFFF then e else e + 0x100)
  else none

/-- Logs an event into a table of DETCAUSE entries: a matching entry, else the lowest free one, else missed (R288). -/
def detInsert (code : Nat) (cmd : Bool) (where_ : W32) (es : List W64) : List W64 × Bool :=
  let fresh := BitVec.ofNat 64 (code + 0x100 + (if cmd then 2 ^ 31 else 0) + 2 ^ 32 * where_.toNat)
  if es.any fun e => (detMatch e code cmd where_).isSome then
    (es.map fun e => (detMatch e code cmd where_).getD e, false)
  else
    let rec fill : List W64 → List W64 × Bool
      | [] => ([], true)
      | e :: rest => if wfield e 0 8 = 0 then (fresh :: rest, false) else let (r, m) := fill rest; (e :: r, m)
    fill es

/-- Tiles that hold a nonzero DETCAUSE entry (R288). -/
def State.detTiles (s : State) : Nat := (s.tiles.filter fun t => t.2.detcause.toList.any (· != 0)).length

/-- Logs a DETCAUSE event on tile k (R287, R288). -/
def State.noteDet (s : State) (k code : Nat) (cmd : Bool) (where_ : W32) : State :=
  let (es, missed) := detInsert code cmd where_ (s.tile k).detcause.toList
  let s := s.modTile k fun t => { t with detcause := Vector.ofFn fun i : Fin 16 => es.getD i.val 0 }
  s.modPkg fun p =>
    let m := wfield p.detSum 16 32
    let m' := if missed then min (m + 1) (2 ^ 32 - 1) else m
    { p with detSum := BitVec.ofNat 64 (field p.detSum.toNat 0 16 % 128 ||| 2 ^ code) + BitVec.ofNat 64 (m' * 2 ^ 16) +
        BitVec.ofNat 64 (2 ^ 48 * s.detTiles) }

/-- The tile's trace buffer has room, and so has its ring, or it wraps (R283, R285). -/
def Tile.traceRoom (t : Tile) : Bool :=
  decide (t.traceBuf.length < 64) &&
    (t.traceCtl.getLsbD 6 || decide (t.traceWritten.toNat + t.traceBuf.length < 2 ^ (field t.traceCtl.toNat 16 4 + 8)))

/-- The 32 bytes of a trace record: a head that names its schedule cycle, and 16 bytes (R284). -/
def State.traceBytes (s : State) (k kind slot : Nat) (payload : List Byte) : List Byte :=
  toBytes 1 kind ++ toBytes 1 slot ++ toBytes 2 k ++ toBytes 4 s.chip ++ wordBytes s.frame ++
    (payload ++ List.replicate (16 - payload.length) 0)

/-- A trace record enters the buffer of tile k, or is discarded and counted (R283 to R285). -/
def State.trace (s : State) (k kind slot : Nat) (payload : List Byte) : State :=
  let t := s.tile k
  if !t.traceBase.getLsbD 0 then s
  else if t.traceRoom then s.modTile k fun t => { t with traceBuf := t.traceBuf ++ [s.traceBytes k kind slot payload] }
  else s.count k 0x15

/-- The oldest record of tile k's trace buffer is written into the ring (R283, R285), unless the tile, or one whose slice holds the
ring, is stopped (R280). The cycles for which it holds other accesses are free (log 60). -/
def State.drainTrace (s : State) (k : Nat) : State :=
  let t := s.tile k
  match t.traceBuf with
  | [] => s
  | bs :: rest =>
    let ia := wfield t.traceBase 6 50 * 64 + 32 * (t.traceWritten.toNat % 2 ^ (field t.traceCtl.toNat 16 4 + 8))
    if s.halted k || s.stoppedSlice ia then s
    else
      let s := s.modTile k fun t => { t with traceBuf := rest }
      if !t.traceBase.getLsbD 0 then s.count k 0x15
      else
        let s := if chipOf ia = s.chip then s.perform ia bs else s.emit (.errorRecord (chipOf ia) ia bs)
        ((s.modTile k fun t => { t with traceWritten := t.traceWritten + 1 }).count k 0x14).count k 0x16 (Config.traceDelay s.steps k)

/-- A trace record of a kind whose payload layout is given with Heltis and is not in the spec: free bytes (R284). -/
def State.traceOther (s : State) (k kind slot bit : Nat) : State :=
  if (s.tile k).traceCtl.getLsbD bit then
    s.trace k kind slot ((List.range 16).map fun i => Config.privateByte (s.steps * 16 + i))
  else s

/-- Logs a DETCAUSE event on tile k, and traces it (R284, R287). -/
def State.logDet (s : State) (k code : Nat) (cmd : Bool) (where_ : W32) : State :=
  (s.noteDet k code cmd where_).traceOther k 8 0 5

/-- The record bytes of a continuation record, wherever it lies (R52, R59): its first IA. -/
def State.recAddr (s : State) (k : Nat) (r : ContRec) : Nat :=
  if r.spilled then (s.tileQcw k 30).slot r.granule
  else (s.tileQcw k 28).slot r.granule

/-- Reads `n` bytes of granules from granule g of a queue, granule by granule. -/
def State.readGranules (s : State) (q : Qcw) (g : Nat) : Nat → List Byte
  | 0 => []
  | n + 1 => s.granule (q.slot g) ++ s.readGranules q (g + 1) n

/-- Writes a byte list into granules from granule g of a queue on. -/
def State.writeGranules (s : State) (q : Qcw) (g : Nat) (bs : List Byte) : Nat → State
  | 0 => s
  | n + 1 => (s.setGranule (q.slot g) (bs.take 64)).writeGranules q (g + 1) (bs.drop 64) n

/-- The queue that holds a record: the continuation queue or the spill area. -/
def State.recQueue (s : State) (k : Nat) (r : ContRec) : Qcw := if r.spilled then s.tileQcw k 30 else s.tileQcw k 28

/-- The bytes of a continuation record. -/
def State.recBytes (s : State) (k : Nat) (r : ContRec) : List Byte := s.readGranules (s.recQueue k r) r.granule r.granules

/-- Writes bytes at an offset of a record's image (R54). -/
def State.patchRecord (s : State) (k : Nat) (r : ContRec) (o : Nat) (bs : List Byte) : State :=
  s.writeGranules (s.recQueue k r) r.granule (patch (s.recBytes k r) o bs) r.granules

/-- The live set of a record's bytes. -/
def liveOf (bs : List Byte) : W64 := BitVec.ofNat 64 (fieldAt bs 0x10 4 + fieldAt bs 0x14 4 * 2 ^ 32)

/-- The strand that a record's bytes and walk block restore (R49): every register outside the live set zero, every
full/empty bit full. -/
def restoreStrand (bs : List Byte) (r : ContRec) : Strand :=
  { regs := restoreRegs bs (liveOf bs)
    pcs := Vector.ofFn fun i : Fin 4 => BitVec.ofNat 32 (fieldAt bs (4 * i.val) 4)
    tokens := tokensOf (fieldAt bs 0x18 4), livemask := r.livemask, super := r.super, backoff := r.backoff
    polled := r.polled, trapSave := r.trapSave, flagWaitSince := r.flagWaitSince }

/-- One section of a dump: head, body, zeros up to a multiple of 64 (R290). -/
def dumpSection (num : Nat) (body : List Byte) : List Byte :=
  padTo64 (toBytes 4 num ++ toBytes 4 body.length ++ List.replicate 8 0 ++ body)

/-- The header of a dump, with its STATE (R290). -/
def Dump.header (d : Dump) (chip state : Nat) : List Byte :=
  toBytes 4 0x4B444D50 ++ toBytes 2 1 ++ toBytes 2 state ++ toBytes 8 d.required ++ toBytes 8 (d.at_ - d.base) ++
  toBytes 1 d.omitted ++ toBytes 1 d.count ++ toBytes 2 0 ++ toBytes 4 d.task.toNat ++ toBytes 2 d.job.toNat ++
  toBytes 2 d.tile ++ toBytes 4 chip ++ wordBytes d.frame ++ List.replicate 16 0

/-- The frame-shaped image of a member (R290 section 3): a member in a handler has its trap frame, a departed one a frame built
from its record. Loads in flight have completed (R268, R273). -/
def State.memberFrame (s : State) (t : Task) (m : Member) : List Byte :=
  let rec_ := m.record.bind fun (k, num) => ((s.tile k).recs.find? fun r => r.num == num && !r.gone).map (k, ·)
  match rec_, m.slot with
  | some (k, r), _ => match r.trapSave with
    | some sv => s.readLocal sv.frame 0x21C0
    | none =>
      let x := restoreStrand (s.recBytes k r) r
      frameBytes { x with window := t.window } 0 x.tokenWord 0 t.id t.job r.stamp
  | none, some n =>
    let x := s.strand n
    match x.trapSave with
    | some sv => s.readLocal sv.frame 0x21C0
    | none => let x := x.landAll; frameBytes x (wfield x.trapCause 0 32) x.tokenWord x.trapAddr t.id t.job s.frame
  | none, none => []

/-- A progress entry of a command (R53). -/
def progressEntry (c : Cmd) : List Byte :=
  (c.bytes.drop 0x18).take 4 ++ toBytes 1 c.engine ++ toBytes 1 1 ++ toBytes 2 0 ++ wordBytes c.progress

/-- The tile of a task's first member that has not ended. -/
def Task.firstTile (t : Task) : Nat :=
  (t.members.findSome? fun m => match m.record, m.slot with
    | some (k, _), _ => some k
    | none, some n => some (n / 8)
    | none, none => none).getD 0

/-- The last records of the tile's trace ring, up to 256 (R290 section 7). -/
def State.lastTrace (s : State) (k : Nat) : List Byte :=
  let t := s.tile k
  let cap := 2 ^ (field t.traceCtl.toNat 16 4 + 8)
  let n := min (min t.traceWritten.toNat cap) 256
  (List.range n).flatMap fun i =>
    s.readIA (wfield t.traceBase 6 50 * 64 + 32 * ((t.traceWritten.toNat - n + i) % cap)) 32

/-- The seven sections of a task's dump whose event arose on tile k (R278, R290). -/
def State.sections (s : State) (tid k : Nat) (rec : List Byte) : List (Nat × List Byte) :=
  let t := s.task tid
  let cmds := s.tiles.flatMap fun x => x.2.cmds.filter fun c => c.task == tid
  [(1, dumpSection 1 rec), (2, dumpSection 2 t.record),
   (3, dumpSection 3 (t.members.flatMap (s.memberFrame t))),
   (4, dumpSection 4 (cmds.flatMap progressEntry)),
   (5, dumpSection 5 ((t.leases.filter fun l => l.mode == 1#2).flatMap fun l =>
      toBytes 8 (l.sliceOff * 64) ++ toBytes 8 l.length ++ s.readLocal (0x100000 * k + l.sliceOff * 64) l.length)),
   (6, dumpSection 6 ((s.tile k).detcause.toList.flatMap wordBytes)),
   (7, dumpSection 7 (s.lastTrace k))]

/-- A precise stop of a tile (R280): nothing of it moves, and its cycle count stands. -/
def State.stopTile (s : State) (k : Nat) : State :=
  s.modTile k fun t => { t with stopped := true, cycleHeld := some (s.tileCycles k), stoppedAt := s.frame }

/-- A package error (R277): every tile stops, and the management controller and Heltis are told. -/
def State.packageErrs (s : State) : State :=
  if s.pkg.packageError then s
  else (((List.range s.tileCount).foldl State.stopTile s).modPkg fun p => { p with packageError := true }).emit (.notify 0x77)

/-- How a write of a dump goes: it is performed, it waits for a page, or it meets a fault that nothing serves (R291). -/
inductive DumpWrite where
  | written | waits | fault
  deriving DecidableEq, Repr

/-- A write of a dump to memory of this package or another; at a fault the bytes before it are written. `lost` says that the page
that it waited for cannot be served. -/
def State.dumpWrite (s : State) (d : Dump) (lost : Bool) (ia : Nat) (bs : List Byte) : State × DumpWrite :=
  let a := localOf ia
  if chipOf ia ≠ s.chip then (s.emit (.errorRecord (chipOf ia) ia bs), .written)
  else if s.stoppedSlice ia then (s, .waits)
  else if (s.offlineUnit a bs.length).isSome then (s, .fault)
  else if s.placed a bs.length true then (s.perform ia bs, .written)
  else
    let first := s.firstUnplaced a bs.length true
    if lost then (s.perform ia (bs.take (first - a)), .fault) else (s.raiseFault first true d.job (.dump d.slot), .waits)

/-- The sections of a dump in order from its place: it stops before the first that would pass the end, at a write fault, and while
it waits for a page. Answers the state, the dump, and whether it waits. -/
def State.dumpSections (s : State) (d : Dump) (lost : Bool) : List (Nat × List Byte) → State × Dump × Bool
  | [] => (s, { d with rest := [] }, false)
  | (num, bs) :: rest =>
    if d.end_ < d.at_ + bs.length then (s, { d with rest := [], flags := 2, omitted := num }, false)
    else match s.dumpWrite d lost d.at_ bs with
      | (s, .written) => s.dumpSections { d with at_ := d.at_ + bs.length, count := d.count + 1 } false rest
      | (s, .fault) => (s, { d with rest := [], flags := 4, omitted := num }, false)
      | (s, .waits) => (s, { d with rest := (num, bs) :: rest }, true)

/-- A dump goes on (R291): its header as INCOMPLETE, the sections, the header again; a fault at a header is a package error. It
stays listed while it waits for a page. -/
def State.dumpOn (s : State) (d : Dump) (lost : Bool) : State :=
  let keep (s : State) (d : Dump) : State := s.modPkg fun p => { p with dumps := p.dumps ++ [d] }
  let first := if d.begun then (s, DumpWrite.written) else s.dumpWrite d lost d.base (d.header s.chip 1)
  match first with
  | (s, .waits) => keep s d
  | (s, .fault) => s.packageErrs
  | (s, .written) =>
    let (s, d', waits) := s.dumpSections { d with begun := true } (d.begun && lost) d.rest
    if waits then keep s d'
    else match s.dumpWrite d' (d.begun && d.rest.isEmpty && lost) d'.base (d'.header s.chip d'.flags) with
      | (s, .written) => s
      | (s, .fault) => s.packageErrs
      | (s, .waits) => keep s d'

/-- The dump descriptor of a task's tracking slot (R289). -/
def State.dumpSlot (s : State) (tid : Nat) : Nat := (s.job (s.task tid).job).track

/-- A dump on the same descriptor is in progress (R289). -/
def State.dumpBusy (s : State) (tid : Nat) : Bool := s.pkg.dumps.any fun d => d.slot == s.dumpSlot tid

/-- Dumps a task, for an event on tile k, through the descriptor of its tracking slot (R289 to R291). -/
def State.dump (s : State) (tid k : Nat) (rec : List Byte) : State :=
  let t := s.task tid
  let d := 0x180007000 + 32 * s.dumpSlot tid
  let base := s.readNum d 8
  let secs := s.sections tid k rec
  s.dumpOn { slot := s.dumpSlot tid, task := t.id, job := t.job, tile := k, frame := s.frame, base := base, end_ := base + s.readNum (d + 8) 8
             required := 64 + (secs.map fun x => x.2.length).sum, at_ := base + 64, rest := secs } false

/-- Dumps that waited for a page go on; `lost` names the descriptor of one whose page cannot be served. -/
def State.dumpsOn (s : State) (lost : Option Nat) : State :=
  s.pkg.dumps.foldl (fun s d => s.dumpOn d (lost == some d.slot)) (s.modPkg fun p => { p with dumps := [] })

/-- The dump descriptor of a task's job is valid, and asks for a dump at its end (R289). -/
def State.dumpOnEnd (s : State) (tid : Nat) : Bool := s.readNum (0x180007000 + 32 * s.dumpSlot tid + 16) 1 % 4 == 3

end Sys2Proof.Machine
end

