-- ==== Sys2Proof/Machine/Ops.lean ====
section
/-! DEFINITION. The shared operations of the meanings: translation and its checks (R118 to R120, R370), the end of a task,
taking a trap and returning from one (R266 to R274), the retirement of a word (R64, R71, R72), and departures (R48). -/

namespace Sys2Proof.Machine

/-- A trap that a word asks for: cause and subcode of R267, the address it names, and whether the word has retired. -/
structure TrapReq where
  cause : Nat
  sub : Nat := 0
  addr : W64 := 0
  after : Bool := false
  detail : List Byte := []
  deriving DecidableEq, Repr

/-- ILLEGAL with subcode OPERAND. -/
def illegalOperand : TrapReq := { cause := 1, sub := 3 }
/-- ILLEGAL with subcode RESERVED_OP. -/
def illegalOp : TrapReq := { cause := 1, sub := 0 }
/-- ILLEGAL with subcode PRIVILEGE. -/
def illegalPriv : TrapReq := { cause := 1, sub := 2 }
/-- ILLEGAL with subcode ALIGN. -/
def illegalAlign (va : W64) : TrapReq := { cause := 1, sub := 4, addr := va }
/-- LEASE. -/
def leaseTrap (va : W64) : TrapReq := { cause := 4, addr := va }
/-- FLAGWIN. -/
def flagTrap (sub : Nat) (va : W64) : TrapReq := { cause := 5, sub := sub, addr := va }
/-- DETAIL of a MEMERR: IA and size of the unit (R473). -/
def unitDetail (u : Nat × Nat) : List Byte := toBytes 8 u.1 ++ toBytes 4 u.2
/-- MEMERR, with its unit as detail (R473). -/
def memTrap (u : Nat × Nat) (va : W64) : TrapReq := { cause := 0xA, addr := va, detail := unitDetail u }

/-- The range whose triple takes a VA, lowest first (R119). -/
def rangeOf (rs : Vector RangeReg 16) (va : Nat) : Option RangeReg :=
  rs.toList.find? fun r =>
    r.base.getLsbD 0 && decide (wfield r.base 16 41 ≤ field va 16 41 ∧ field va 16 41 ≤ wfield r.limit 16 41)

/-- Position of the range that takes a VA. -/
def rangeIndex (rs : Vector RangeReg 16) (va : Nat) : Nat :=
  rs.toList.findIdx fun r =>
    r.base.getLsbD 0 && decide (wfield r.base 16 41 ≤ field va 16 41 ∧ field va 16 41 ≤ wfield r.limit 16 41)

/-- One byte of `ia` (R119) at user level. -/
def State.userByte (s : State) (rs : Vector RangeReg 16) (va : Nat) (write : Bool) : Option Nat :=
  if va / 2 ^ 57 ≠ 0 then none
  else (rangeOf rs va).bind fun r =>
    if write && !r.base.getLsbD 1 then none
    else
      let a := (va + 0x10000 * wfield r.offset 16 40) % 2 ^ 56
      if s.inDomain (chipOf a) then
        match s.regionOf a with
        | some .control => none
        | some _ => some a
        | none => none
      else none

/-- `ia` for an access of m bytes (R119, R266): the first byte's IA, or none where it fails. -/
def State.ia (s : State) (rs : Vector RangeReg 16) (super : Bool) (va : W64) (m : Nat) (write : Bool) : Option Nat :=
  let v := va.toNat
  let last := v + (m - 1)
  if super then
    if v / 2 ^ 56 = 0 ∧ last / 2 ^ 56 = 0 ∧ s.inDomain (chipOf v) ∧ (s.regionOf v).isSome ∧ (s.regionOf last).isSome then some v
    else none
  else
    match s.userByte rs v write, s.userByte rs last write with
    | some a, some _ => if rangeIndex rs v = rangeIndex rs last then some a else none
    | _, _ => none

/-- A list of extents covers [lo, hi]: each step goes on after the extent that holds `lo`. -/
def covered (xs : List (Nat × Nat × Bool)) (write : Bool) (hi : Nat) : Nat → Nat → Bool
  | 0, _ => false
  | fuel + 1, lo =>
    match xs.find? fun x => decide (x.1 ≤ lo ∧ lo ≤ x.2.1) && (!write || x.2.2) with
    | some x => decide (hi ≤ x.2.1) || covered xs write hi fuel (x.2.1 + 1)
    | none => false

/-- The second step of R44: an IA of a memory region lies in a lease of the task. -/
def State.leased (s : State) (t : Task) (ia n : Nat) (write : Bool) : Bool :=
  match s.regionOf ia with
  | some .memory => n == 0 || covered t.extents write (ia + n - 1) (t.extents.length + 1) ia
  | _ => true

/-- The VA range registers and level under which an engine of the strand accesses memory now (R118, R120, R266). -/
def State.iaOf (s : State) (e : Engine) (va : W64) (m : Nat) (write : Bool) : Option Nat :=
  s.ia (s.cur.rangesAt (s.cur.walk e)) s.cur.super va m write

/-- Bytes touch an extent of a list. -/
def touches (xs : List (Nat × Nat)) (a n : Nat) : Bool := xs.any fun x => overlaps a n x.1 x.2

/-- One element of a memory word: its VA, its IA and its bytes. -/
structure Elem where
  va : W64
  ia : Nat
  n : Nat
  deriving DecidableEq, Repr, Inhabited

/-- Step 1 of R370 for every element. -/
def State.translateAll (s : State) (e : Engine) (write : Bool) : List (W64 × Nat) → Except TrapReq (List Elem)
  | [] => .ok []
  | (va, n) :: rest =>
    match s.iaOf e va n write with
    | none => .error (leaseTrap va)
    | some ia => (s.translateAll e write rest).map (⟨va, ia, n⟩ :: ·)

/-- The first element that a check stops on. -/
def firstBad (xs : List Elem) (bad : Elem → Bool) (mk : W64 → TrapReq) : Except TrapReq Unit :=
  match xs.find? bad with
  | some x => .error (mk x.va)
  | none => .ok ()

/-- The checks of R370 in order, step by step over every element. `local_` for the forms that act on the own slice only. -/
def State.checkMem (s : State) (e : Engine) (local_ write : Bool) (els : List (W64 × Nat)) : Except TrapReq (List Elem) := do
  let t := s.cur
  let k := s.here
  let xs ← s.translateAll e write els
  let own (x : Elem) : Bool := s.inSlice k x.ia && s.inSlice k (x.ia + x.n - 1)
  firstBad xs (fun x => local_ && !own x) (fun _ => illegalOperand)
  firstBad xs (fun x => !local_ && !t.super && !s.leased s.curTask x.ia x.n write) leaseTrap
  firstBad xs (fun x => write && s.regionOf x.ia == some .slice && touchesWindow (localOf x.ia) x.n) (flagTrap 0)
  firstBad xs (fun x => !t.super && own x && touches (s.liveRegions k) (localOf x.ia) x.n) leaseTrap
  firstBad xs (fun x => write && own x && s.inFilledSlot k (localOf x.ia) x.n) (flagTrap 1)
  .ok xs

/-- The unit of an offline tile's slice, or else the uncorrectable unit, that a read of this package meets (R29, R147): its IA
and size. -/
def State.uncorrectable (s : State) (ia n : Nat) : Option (Nat × Nat) :=
  if chipOf ia ≠ s.chip then none
  else (s.offlineUnit (localOf ia) n <|> s.badUnit (localOf ia) n).map fun u => (2 ^ 47 * s.chip + u.1, u.2)

/-- A unit that keeps a write of this package from being performed: one of an offline slice, or an uncorrectable one that it does not
cover whole; `rmw` for an operation that reads what it writes (R29, R147). -/
def State.blockedUnit (s : State) (ia n : Nat) (rmw : Bool) : Option (Nat × Nat) :=
  if chipOf ia ≠ s.chip then none
  else
    let a := localOf ia
    (s.offlineUnit a n <|> s.pkg.badUnits.find? fun u => overlaps a n u.1 u.2 && (rmw || !decide (a ≤ u.1 ∧ u.1 + u.2 ≤ a + n))).map
      fun u => (2 ^ 47 * s.chip + u.1, u.2)

/-- The command has a shadow still to publish (R161). -/
def Cmd.pending (c : Cmd) : Bool := c.state == .running || (c.state == .publishing && !c.shadow.isEmpty)

/-- Some such command's destination extent holds a byte of a read (R161, R162). -/
def State.pendingShadow (s : State) (ia n : Nat) : Bool :=
  s.tiles.any fun t => t.2.cmds.any fun c => c.pending && c.extent.any fun x => overlaps ia n x.1 x.2

/-- Logs PENDING_READ for a read of a byte that has a pending shadow (R162). -/
def State.noteRead (s : State) (k : Nat) (cmd : Bool) (where_ : W32) (ia n : Nat) : State :=
  if s.pendingShadow ia n then s.logDet k 3 cmd where_ else s

/-- Base of the program text, and whether it is fetched as a supervisor does (R65, R272). -/
def State.textBase (s : State) : W64 :=
  if s.cur.super then BitVec.ofNat 64 (wfield (s.tile s.here).trapBase 2 54 * 4) else s.curTask.textBase

/-- Fetches the word at an index for an engine (R65, R304): its bytes, or the trap. -/
def State.fetchWord (s : State) (e : Engine) (pc : W32) : Except TrapReq W32 :=
  let va := s.textBase + BitVec.ofNat 64 (4 * pc.toNat)
  match s.iaOf e va 4 false with
  | none => .error (leaseTrap va)
  | some ia =>
    if !s.cur.super && !s.leased s.curTask ia 4 false then .error (leaseTrap va)
    else match s.uncorrectable ia 4 with
      | some u => .error (memTrap u va)
      | none => .ok (BitVec.ofNat 32 (ofBytes (s.readIA ia 4)))

/-- The controller writes bytes of its copy of a task's record (R35, R240). Where the copy's page is not mapped, memory takes the whole
copy once it is (log 26). -/
def State.writeCopy (s : State) (tid off : Nat) (bs : List Byte) : State :=
  let t := s.task tid
  let a := localOf t.copy
  let mapped := !t.owed && (s.place a).isSome
  let s := s.modTask tid fun t => { t with record := patch t.record off bs, owed := !mapped && !t.record.isEmpty }
  if mapped then s.poke (a + off) bs else s

/-- Copies that memory has yet to take are written where their pages are mapped now (log 26). -/
def State.writeCopies (s : State) : State :=
  (s.tasks.filter fun t => t.2.owed && (s.place (localOf t.2.copy)).isSome).foldl (fun s t =>
    (s.modTask t.1 fun t => { t with owed := false }).poke (localOf t.2.copy) t.2.record) s

/-- STATUS of a task, in the task table and in the controller's copy (R240). -/
def State.setStatus (s : State) (tid : Nat) (st : TState) (result : Nat) : State :=
  let s := s.modTask tid fun t => { t with state := st, result := BitVec.ofNat 8 result }
  let code := match st with
    | .created => 0
    | .waiting => 1
    | .staging => 2
    | .ready => 3
    | .running => 4
    | .preempted => 5
    | .retiring => 6
    | .done => 7
  s.writeCopy tid 0x78 (toBytes 8 (code + result * 256 + 2 ^ 32 * wfield s.frame 0 32))

/-- Frees a slot, or leaves it reserved to its gang (R33). The trap registers stay the slot's own (R270). -/
def State.freeSlot (s : State) (n : Nat) (keep : Bool) : State :=
  s.modStrand n fun t =>
    { task := if keep then t.task else none, trapCause := t.trapCause, trapPc := t.trapPc, trapAddr := t.trapAddr }

/-- A number that no record has. -/
def goneNum : Nat := 2 ^ 64

/-- Drops a continuation record: its space stays, under no record's number, until every older record has gone (R54). -/
def Tile.dropRecord (t : Tile) (num : Nat) : Tile :=
  let recs := t.recs.map fun r => if r.num = num then { r with gone := true, num := goneNum } else r
  { t with recs := recs.dropWhile (·.gone), swaps := t.swaps.filter fun x => x.1 != num }

/-- The granule at which a continuation queue's oldest record begins, or its tail when it is empty. -/
def Tile.contHeadNow (t : Tile) : Nat :=
  match t.recs.find? fun r => !r.spilled && !r.gone with
  | some r => r.granule
  | none => t.contTail

/-- The granule at which a SPILL queue's oldest record or image begins, or its tail. -/
def Tile.spillHeadNow (t : Tile) (tail : Nat) : Nat :=
  match t.recs.find? fun r => r.spilled && !r.gone with
  | some r => r.granule % 2 ^ 32
  | none => tail

/-- Drops a record on tile k and shows the queue's HEAD in its QCW (R54, R123). -/
def State.dropRecord (s : State) (k num : Nat) : State :=
  let s := (s.modTile k fun t => t.dropRecord num).unwait num
  let h := (s.tile k).contHeadNow
  let s := s.modTile k fun t => { t with contHead := h }
  let s := s.poke (qcwTable k 28 + 16) (toBytes 4 h)
  let q := s.tileQcw k 30
  if q.valid then s.poke (qcwTable k 30 + 16) (toBytes 4 ((s.tile k).spillHeadNow q.tail)) else s

/-- Notes entries of the banks that a member has written (R217). -/
def Task.touch (t : Task) (rank : Nat) (xs : List Nat) : Task :=
  { t with touched := t.touched ++ ((xs.map fun x => (rank, x)).filter fun y => !t.touched.contains y) }

/-- WORK entries of an MMA's region on a tile (R193, R210). -/
def Cmd.regionOn (c : Cmd) (t : Tile) : List Nat :=
  (List.range (fieldAt c.bytes 0x6C 1)).flatMap fun i => (List.range (fieldAt c.bytes 0x6D 1)).map fun j =>
    (if t.visBank then 0 else 4096) + fieldAt c.bytes 0x72 2 + 64 * i + j

/-- Ends commands without completion record or pips. The region of an MMA that had started holds an unpromised subset of its
products: free values (R218; log 5). -/
def Tile.discardCommands (t : Tile) (step k : Nat) (p : Cmd → Bool) : Tile :=
  let region := (t.cmds.filter fun c => p c && c.state != .queued && fieldAt c.bytes 0 1 == 4).flatMap fun c => c.regionOn t
  { t with cmds := t.cmds.filter fun c => !p c
           banks := region.foldl (fun b x => Tab.put b x (Config.discardedEntry step (8192 * k + x))) t.banks }

/-- The entry of a command's queue is free again (R123): an ECMD that found the queue full is held for 4,096 cycles from now (R83). -/
def State.popQueue (s : State) (k : Nat) (c : Cmd) : State :=
  let i := 4 * c.engine + c.queue
  let q := s.tileQcw k i
  let again (x : Nat × Strand) : Nat × Strand := if x.1 / 8 = k ∧ x.2.ecmdQueue = i then (x.1, { x.2 with ecmdSince := none }) else x
  { s with strands := s.strands.map again }.poke (qcwTable k i + 16) (toBytes 4 ((q.head + 1) % 2 ^ 32))

/-- Ends commands of a task as R218 gives. -/
def State.discardCommands (s : State) (p : Cmd → Bool) : State :=
  let s := s.tiles.foldl (fun s t => t.2.cmds.foldl (fun s c => if p c && c.state == .queued then s.popQueue t.1 c else s) s) s
  { s with tiles := s.tiles.map fun t => (t.1, t.2.discardCommands s.steps t.1 p) }

/-- Ends a task's commands without completion record or pips (R218). -/
def State.endCommands (s : State) (tid : Nat) : State := s.discardCommands fun c => c.task == tid

/-- Closes the rings that a task opened (R125). -/
def State.closeRings (s : State) (tid : Nat) : State :=
  { s with tiles := s.tiles.map fun t => (t.1, { t.2 with rings := t.2.rings.filter fun r => r.task != tid }) }

/-- A frame is no longer in use: LIVE is cleared (R271, R274). -/
def State.clearLive (s : State) (sv : TrapSave) : State :=
  s.poke (sv.frame + 0x14) (toBytes 1 (ofBytes (s.readLocal (sv.frame + 0x14) 1) &&& 0xFD))

/-- Handlers of a task: of its strands in slots and of its records. -/
def State.handlersOf (s : State) (tid : Nat) : List TrapSave :=
  (s.strands.filterMap fun x => if x.2.task = some tid then x.2.trapSave else none) ++
  s.tiles.flatMap fun t => t.2.recs.filterMap fun r => if r.task = tid ∧ !r.gone then r.trapSave else none

/-- Takes every member of a task out of its slot or record (R268, R273, R236). -/
def State.discardMembers (s : State) (tid : Nat) : State :=
  let s := (s.handlersOf tid).foldl (fun s sv => s.clearLive sv) s
  let s := s.tiles.foldl (fun s t => t.2.recs.foldl (fun s r => if r.task = tid ∧ !r.gone then s.dropRecord t.1 r.num else s) s) s
  let s := (s.task tid).members.foldl (fun s m => match m.slot with
    | some n => s.freeSlot n false
    | none => s) s
  { s with strands := s.strands.map fun x => if x.2.task = some tid then (x.1, { x.2 with live := false, task := none }) else x
           watches := s.watches.filter fun w => !(w.origin.chip == s.chip && w.origin.task == tid) }

/-- Ends a task at once (R241, R273): members stopped and discarded, commands ended, leases released, rings closed. -/
def State.endTask (s : State) (tid result : Nat) : State :=
  let s := ((s.discardMembers tid).endCommands tid).closeRings tid
  let s := s.modTask tid fun t => { t with extents := [], gathered := [], members := t.members.map fun m => { m with slot := none, record := none, ended := true } }
  s.setStatus tid .done result

/-- A message in flight in this package, or unacknowledged by another, that a member of a task sent. -/
def State.sentBy (s : State) (tid rank : Nat) (p : MsgBody → Bool) : Bool :=
  (s.msgs ++ s.unacked).any fun m => m.origin.chip == s.chip && m.origin.task == tid && m.origin.rank == rank && p m.body

/-- A posted write of the strand that is in flight in this package or unacknowledged by another (R152, R372). -/
def State.outstanding (s : State) (tid rank : Nat) : Bool := s.sentBy tid rank MsgBody.posted

/-- Writes of a task that are not performed, by number: posted writes of its strands, and publishes of its commands (R168). -/
def State.writesLeft (s : State) (tid : Nat) : List Nat :=
  ((s.msgs ++ s.unacked).filter fun m => m.origin.chip == s.chip && m.origin.task == tid &&
    (m.body.posted || match m.body with
      | .publish _ => true
      | _ => false)).map (·.num)

/-- Posts a record of a failing task to its job's error queue once the task's writes up to the fault are performed (R168,
R276), behind the records that wait already. -/
def State.postLater (s : State) (tid : Nat) (r : FaultRec) : State :=
  let left := s.writesLeft tid
  if left.isEmpty && (s.task tid).held.isEmpty then s.postRecord r
  else s.modTask tid fun t => { t with held := t.held ++ [(left, r.bytes s.chip s.frame)] }

/-- Posts a task's held records, in order, up to one with a write that is not performed (R168). -/
def State.postReady (s : State) (tid : Nat) : List (List Nat × List Byte) → State
  | [] => s.modTask tid fun t => { t with held := [] }
  | h :: rest =>
    let left := s.writesLeft tid
    if h.1.any left.contains then s.modTask tid fun t => { t with held := h :: rest }
    else (s.postTo (s.task tid).job (s.job (s.task tid).job).errq h.2).postReady tid rest

/-- Posts the records of tasks whose writes have been performed (R168). -/
def State.postHeld (s : State) : State :=
  s.tasks.foldl (fun s x => if x.2.held.isEmpty then s else s.postReady x.1 x.2.held) s

/-- Ends a task by a fault, with its record, and with the dump that its descriptor asks for when it ends under R273 (R168, R272,
R273, R289). -/
def State.faultTask (s : State) (tid result : Nat) (r : FaultRec) (ends : Bool := true) : State :=
  let r := { r with flags := r.flags ||| 1 }
  let asked := ends && s.dumpOnEnd tid
  let dumps := asked && !s.dumpBusy tid
  let r := if asked then { r with flags := r.flags ||| (if dumps then 8 else 16) } else r
  let s := if dumps then s.dump tid r.tile (r.bytes s.chip s.frame) else s
  (s.endTask tid result).postLater tid r

/-- RESULT of a task that a cause ends (R241, R470). -/
def resultOf (cause : Nat) : Nat := if cause = 4 then 2 else if cause = 0xA then 3 else 4

/-- The cause enters a handler (R267). -/
def entersHandler (cause : Nat) : Bool := [1, 2, 5, 8, 0xB, 0xC, 0xD].contains cause

/-- First IA of slot n's trap frame (R270). -/
def State.frameIA (s : State) (n : Nat) : Nat :=
  s.sliceBase (n / 8) + wfield (s.tile (n / 8)).trapFrames 6 14 * 64 + 0x3600 * (n % 8)

/-- TRAP_CAUSE (R270). -/
def trapCauseWord (e : Engine) (r : TrapReq) : W64 :=
  BitVec.ofNat 64 (r.cause + r.sub * 2 ^ 8 + (engineIdx e).val * 2 ^ 18)

/-- The fault record of a trap (R275). -/
def State.trapRecord (s : State) (e : Engine) (r : TrapReq) : FaultRec :=
  let t := s.cur
  { cause := r.cause, sub := r.sub, source := (engineIdx e).val
    flags := (if t.super then 2 else 0) + (if t.super && r.addr != 0 then 4 else 0)
    pc := t.pc e, addr := r.addr, task := s.curTask.id, job := s.curTask.job, tile := s.here, detail := r.detail }

/-- The slot's frame has LIVE set (R271 to R273). -/
def State.frameLive (s : State) (n : Nat) : Bool := bitAt (ofBytes (s.readLocal (localOf (s.frameIA n) + 0x14) 1)) 1

/-- Entry into the handler (R272): the frame is written and marked live, its walk block with bytes that are not architecture
(R271), and a supervisor strand starts in the slot. -/
def State.enterHandler (s : State) (e : Engine) (r : TrapReq) : State :=
  let n := s.focus
  let t := s.cur
  let base := s.frameIA n
  let s := s.poke (localOf base) (frameBytes t (wfield (trapCauseWord e r) 0 32) t.tokenWord r.addr s.curTask.id s.curTask.job s.frame)
  let s := s.poke (localOf base + 0x21C0) ((List.range 5184).map fun i => Config.privateByte (s.steps * 5184 + i))
  let pc := BitVec.ofNat 32 (16 * r.cause)
  let regs : Regs :=
    { s := ((((((Vector.replicate 32 0).set 1 (BitVec.ofNat 64 base)).set 2 (trapCauseWord e r)).set 3 r.addr).set 4
        (BitVec.ofNat 64 (t.pc e).toNat)).set 5 (t.sreg 5)).set 6 (t.sreg 6) }
  s.setStrand n
    { live := true, task := t.task, rank := t.rank, super := true, regs := regs
      pcs := Vector.replicate 4 pc, ranges := t.ranges
      trapCause := t.trapCause, trapPc := t.trapPc, trapAddr := t.trapAddr, trapSave := some ⟨e, t.block, t.pcs, t.tokens, r.cause, r.sub, localOf base, r.after, r.detail, t.snapshot, t.flights⟩ }

/-- What every trap leaves (R268, R270): results in flight have landed, the slot's trap registers hold it, and it is counted. -/
def State.noteTrap (s : State) (e : Engine) (r : TrapReq) : State :=
  let s := s.modCur fun t => { t.landAll with departing := none, ecmdSince := none }
  let s := s.modCur fun t => { t with trapCause := trapCauseWord e r, trapPc := BitVec.ofNat 64 (t.pc e).toNat, trapAddr := r.addr }
  (s.count s.here 0x17).traceOther s.here 5 (s.focus % 8) 3

/-- The strand in focus is a handler of continuation overflow (R60). -/
def State.inOverflowHandler (s : State) : Bool :=
  match s.cur.trapSave with
  | some sv => sv.cause == 8
  | none => false

/-- A trap taken while the slot's frame has LIVE set ends the task as DOUBLE; its record holds the TRAP_CAUSE of the slot's first
trap (R273, R275). -/
def State.doubleTrap (s : State) (e : Engine) (r : TrapReq) : State :=
  let first := wordBytes s.cur.trapCause
  let r := { r with cause := 0xF, sub := r.cause, detail := first }
  let s := s.noteTrap e r
  s.faultTask s.curTaskNum 4 (s.trapRecord e r)

/-- Taking a trap on an engine of the strand in focus (R268 to R273). The trapping word is not performed unless it had
retired; the cause enters a handler, or the task ends. A departure of the continuation-overflow handler that finds the queue
short is a package error and no trap (R60). -/
def State.takeTrap (s : State) (e : Engine) (r : TrapReq) : State :=
  let tid := s.curTaskNum
  let k := s.tile s.here
  match (s.task tid).failure with
  | some (c, _) => s.endTask tid (resultOf c)
  | none =>
    if (r.cause == 8 && s.inOverflowHandler) = true then s.packageErrs
    else if (k.trapFrames.getLsbD 0 && s.frameLive s.focus) = true then s.doubleTrap e r
    else
      let s := s.noteTrap e r
      if entersHandler r.cause && k.trapBase.getLsbD 0 && k.trapFrames.getLsbD 0 then s.enterHandler e r
      else s.faultTask tid (resultOf r.cause) (s.trapRecord e r)

/-- The word is a branch word, on which the other engines await an outcome (R69). -/
def isBranchWord (w : W32) (ext : Option W32) : Bool :=
  match decodeWords w ext with
  | .ok (i, _) => (view i).branch
  | .error _ => false

/-- Engine e steps over the word at its PC as though the word had retired with no effect (R274): its tokens, a not-taken outcome
for a branch word, its signals. -/
def State.skipWord (s : State) (e : Engine) : State :=
  let pc := s.cur.pc e
  match s.fetchWord e pc with
  | .error _ => s
  | .ok w =>
    let two := isTwoWordHead w
    let ext := if two then (s.fetchWord e (pc + 1)).toOption else none
    let q := w.extractLsb' 28 4
    let s := s.modCur fun t =>
      let t := t.takeTokens e q
      (if isBranchWord w ext then t.post ⟨t.walk .s, none⟩ else t).pass e (if two then 2 else 1) none
    let s := s.count s.here (1 + (engineIdx e).val)
    match s.cur.signal e (q.getLsbD 1) (q.getLsbD 0) with
    | some t => s.modCur fun _ => t
    | none => s.takeTrap e { cause := 2, sub := 1, after := true }

/-- Return from a trap (R274): the frame's registers, LIVEMASK, WINDOW, tokens, outcomes and slip; LIVE cleared; user
level. With SKIP the trapping engine steps over its word, unless that had retired before the trap. -/
def State.returnFromTrap (s : State) (v : View) : State :=
  let n := s.focus
  let t := s.cur
  match t.trapSave with
  | none => s.takeTrap .s illegalOperand
  | some sv =>
    let bs := s.readLocal sv.frame 0x21C0
    let w := fieldAt bs 0x1C 4
    if w % 2 ^ 11 < 16 ∨ 1024 < w % 2 ^ 11 then s.takeTrap .s illegalOperand
    else
      let x : Strand :=
        { live := true, task := t.task, rank := t.rank, regs := frameRegs bs, pcs := sv.pcs, tokens := sv.tokens
          livemask := wordAt bs 0x38, window := BitVec.ofNat 11 w, ranges := t.ranges, snapshot := sv.snapshot, flights := sv.flights
          trapCause := t.trapCause, trapPc := t.trapPc, trapAddr := t.trapAddr }
      let s := ((s.setStrand n (x.withBlock sv.block)).clearLive sv).count s.here (1 + (engineIdx v.engine).val)
      if fieldAt bs 0x14 1 % 2 = 1 ∧ ¬ sv.after then s.skipWord sv.engine else s

/-- A word that traps: what a meaning answers (R268). -/
def State.trapWord (s : State) (e : Engine) (r : TrapReq) : Outcome := .next (s.takeTrap e r)

/-- Retirement of a word (R64, R71, R75, R287). The word takes its tokens and passes; a fast word writes its destination
at once and signals, unless older results of its engine are in flight; another leaves its destination empty and its
signals with the result in flight. -/
def State.retire (s : State) (v : View) (fast : Bool) (d : Dest) (target : Option W32 := none) (taint : Bool := false) : Outcome :=
  let tt := s.cur.anyTaint v || taint
  let t := s.cur.takeTokens v.engine v.q
  let waits := t.flights.any fun f => f.engine == v.engine
  let direct := match d with
    | .s _ _ => fast
    | .v _ _ => fast
    | _ => true
  let f : Flight :=
    { engine := v.engine, dest := if direct then none else v.dest, sval := 0, vval := Vector.replicate 64 0, taint := tt
      sp := v.q.getLsbD 1, sn := v.q.getLsbD 0 }
  let f := match d with
    | .s _ x => { f with sval := x }
    | .v _ x => { f with vval := x }
    | _ => f
  let t := if direct then t.put d tt else match v.dest with
    | some r => t.setFull r false
    | none => t
  let t := { t.pass v.engine v.len target with
    ecmdSince := if v.engine = .s then none else t.ecmdSince, rewoke := if t.rewoke = some v.engine then none else t.rewoke
    partL := if v.engine = .l then [] else t.partL, partW := if v.engine = .w then 0 else t.partW
    begunL := if v.engine = .l then none else t.begunL, leftL := if v.engine = .l then [] else t.leftL
    begunW := if v.engine = .w then none else t.begunW, leftW := if v.engine = .w then [] else t.leftW }
  let s := (s.modCur fun _ => t).count s.here (1 + (engineIdx v.engine).val)
  if fast && !waits then
    match t.signal v.engine (v.q.getLsbD 1) (v.q.getLsbD 0) with
    | some t => .next (s.modCur fun _ => t)
    | none => .next (s.takeTrap v.engine { cause := 2, sub := 1, after := true })
  else .next (s.modCur fun t => { t with flights := t.flights ++ [f] })

/-- The oldest result in flight of an engine lands: register, full bit, signals (R75, R72); not on a stopped tile (R280). -/
def State.land (s : State) (e : Engine) : Outcome :=
  if s.halted s.here then .next s
  else match takeFlight e s.cur.flights with
  | none => .next s
  | some (f, rest) =>
    let t := { s.cur with flights := rest }.landWrite f
    match t.signal e f.sp f.sn with
    | some t => .next (s.modCur fun _ => t)
    | none => .next ((s.modCur fun _ => t).takeTrap e { cause := 2, sub := 1, after := true })

/-- Bytes of the key word of a REASON that enters the wait table (R56): a future is 16 bytes, a pip or a ring's counts are 8. -/
def waitSpan (reason : Nat) : Option Nat :=
  match reason with
  | 4 => some 16
  | 5 => some 8
  | 8 => some 8
  | _ => none

/-- A word that departs (R47, R48): the departure is noted; the record is written when it commits. `past` says that the
engine resumes past the word. From a failed test of an own-slice key on, every write to the key is noted (R56). -/
def State.depart (s : State) (v : View) (reason : Nat) (key : W64) (past : Bool) (dep : Nat := 1)
    (sends : List (Nat × MsgBody) := []) (dest : Option RegRef := none) (vas : List (Nat × W64) := []) : Outcome :=
  let t := s.cur
  let d : Departure :=
    { engine := v.engine, walk := t.walk v.engine, reason := BitVec.ofNat 8 reason, key := key, dep := dep, dest := dest
      past := past, len := v.len, sends := sends, vas := vas, q := v.q }
  let s := s.modCur fun t => { t with departing := some d }
  .next (match waitSpan reason with
    | some n => if sends.isEmpty then s.modTile s.here fun t => { t with early := Tab.put t.early (s.focus % 8) (wfield key 3 53 * 8, n, false) } else s
    | none => s)

/-- A check made before a word's effect. -/
def State.checked {α : Type} (s : State) (e : Engine) (r : Except TrapReq α) (k : α → Outcome) : Outcome :=
  match r with
  | .ok a => k a
  | .error x => s.trapWord e x

/-- A condition that a word must meet, else it traps. -/
def State.require (s : State) (e : Engine) (ok : Bool) (r : TrapReq) (k : Outcome) : Outcome :=
  if ok then k else s.trapWord e r

end Sys2Proof.Machine
end

