-- ==== Sys2Proof/Machine/Departures.lean ====
section
/-! DEFINITION. Departures and continuation records (R47 to R61): the commit, the wait table and back-off, the barrier,
pre-emption records, relaunch. -/

namespace Sys2Proof.Machine

/-- Granules of tile k's continuation queue that are free from tail to head (R59). -/
def State.contFree (s : State) (k : Nat) : Nat :=
  let q := s.tileQcw k 28
  let t := s.tile k
  if q.valid then q.depth - (t.contTail - t.contHeadNow) else 0

/-- The header of the record that the strand in focus leaves (R52). -/
def State.contHeaderOf (s : State) (reason : Byte) (key live : W64) (dep : Nat) (prog : Bool) : ContHeader :=
  let t := s.cur
  let k := s.curTask
  { pcs := t.pcs, live := live, tokens := t.tokenWord, reason := reason
    flags := (if prog then 1 else 0) + (if t.super then 2 else 0) + (if 1 < k.gang then 4 else 0) + t.backoff * 8
    dep := dep, rank := t.rank, task := k.id, job := k.job, leaseRef := k.leaseRef, seed := k.seed, key := key, stamp := s.frame }

/-- The bytes of the record that the strand in focus leaves (R53). -/
def State.contBytes (s : State) (reason : Byte) (key live : W64) (dep : Nat) (progress : List Byte) : List Byte :=
  padTo64 ((s.contHeaderOf reason key live dep (!progress.isEmpty)).bytes ++ regImage s.cur live ++
    (if progress.isEmpty then [] else (progress ++ List.replicate (128 - progress.length) 0).take 128))

/-- Who the strand in focus is, to a message. -/
def State.originNow (s : State) : Origin :=
  ⟨s.chip, s.here, s.curTaskNum, s.cur.rank, s.focus % 8, 0, (s.job s.curTask.job).track, s.curTask.job, s.curTask.id,
    s.cur.super⟩

/-- Sets a member of a task. -/
def State.modMember (s : State) (tid rank : Nat) (f : Member → Member) : State :=
  s.modTask tid fun t => { t with members := t.members.mapIdx fun i m => if i = rank then f m else m }

/-- Writes a record at the tail of tile k's continuation queue and lists it (R48 step 4). -/
def State.pushRecord (s : State) (k : Nat) (bs : List Byte) (r : ContRec) : State :=
  let q := s.tileQcw k 28
  let t := s.tile k
  let g := bs.length / 64
  let n := g + r.granules
  let s := s.writeGranules q t.contTail bs g
  let s := s.modTile k fun t =>
    { t with recs := t.recs ++ [{ r with granule := t.contTail, granules := n }], contTail := t.contTail + n, recNext := t.recNext + 1 }
  s.poke (qcwTable k 28 + 20) (toBytes 4 ((t.contTail + n) % 2 ^ 32))

/-- The number of the next record of tile k. -/
def State.freshRecord (s : State) (k : Nat) : Nat := 1024 * (s.tile k).recNext + k

/-- A new record's bookkeeping. A word that departs again after a relaunch from the back-off list, its test failed here, is
no longer polled (R58). -/
def State.newRecord (s : State) (e : Engine) (reason : Byte) (key : W64) (dep : Nat) (dest : Option RegRef) : ContRec :=
  let t := s.cur
  { num := s.freshRecord s.here, granule := 0, granules := t.block.granules, spilled := false, gone := false
    task := s.curTaskNum, rank := t.rank, slot := s.focus % 8, engine := e, reason := reason, key := key, dest := dest
    dep := dep, readyAt := none, backoffAt := none, super := t.super, stamp := s.frame, block := t.block
    livemask := t.livemask, error := none, backoff := t.backoff, polled := t.polled && t.rewoke != some e, trapSave := t.trapSave, q := 0, len := 1
    pcAt := t.pc e, vas := [], past := true, passed := false, isSnapshot := false, progress := [], flagWaitSince := t.flagWaitSince
    unpassed := none }

/-- Sets BACKOFF of a record of tile k, in its header too (R52, R58). -/
def State.setBackoff (s : State) (k num b : Nat) : State :=
  let s := match (s.tile k).recs.find? fun r => r.num == num with
    | some r => s.patchRecord k r 0x1D (toBytes 1 (fieldAt (s.recBytes k r) 0x1D 1 % 8 + b * 8))
    | none => s
  s.modTile k fun t => { t with recs := t.recs.map fun r => if r.num = num then { r with backoff := b } else r }

/-- A record goes to the back-off list (R58). -/
def State.backOff (s : State) (k num : Nat) : State :=
  match (s.tile k).recs.find? fun r => r.num == num with
  | some r =>
    let s := s.modTile k fun t =>
      { t with recs := t.recs.map fun x =>
          if x.num = num then { x with backoffAt := some (s.tileCycles k + BitVec.ofNat 64 (64 * 2 ^ r.backoff)) } else x }
    (s.setBackoff k num (min (r.backoff + 1) 10)).count k 8
  | none => s

/-- A record waits for its key in the wait table, or goes to the back-off list when the table is full (R56, R58). -/
def State.enterWait (s : State) (k num ia span : Nat) : State :=
  let watched := (s.watches.filter fun w => chipOf w.ia == s.chip && localOf w.ia / 0x100000 == k).length
  if (s.tile k).waitTable.length + watched < 256 then
    (s.modTile k fun t => { t with waitTable := t.waitTable ++ [(ia, span, num)] }).setBackoff k num 0
  else s.backOff k num

/-- The loads of a member before walk count k are performed: L has reached k, in its slot, beneath a handler, or in its record
(R154). -/
def State.loadsBefore (s : State) (o : Origin) (k : Nat) : Bool :=
  let m := (s.task o.task).members.getD o.rank {}
  let beneath (walks : Vector Nat 4) (super : Bool) (saved : Option TrapSave) : Bool :=
    if o.super == super then decide (k ≤ walks[1]) else (saved.elim true fun sv => o.super || decide (k ≤ sv.block.walks[1]))
  match m.record, m.slot with
  | some (t, num), _ => match (s.tile t).recs.find? fun r => r.num == num with
    | some r => beneath r.block.walks r.super r.trapSave && (r.engine != .l || r.readyAt.isSome)
    | none => true
  | none, some n =>
    let x := s.strand n
    !x.live || x.task != some o.task || beneath x.walks x.super x.trapSave
  | none, none => true

/-- Earlier posted writes of the same strand that are not performed. -/
def State.before (s : State) (m : Msg) : List Msg :=
  (s.msgs ++ s.unacked).filter fun x =>
    x.body.posted && decide (x.num < m.num) && x.origin.chip == m.origin.chip && x.origin.task == m.origin.task &&
      x.origin.rank == m.origin.rank

/-- An access that comes before a release form is not performed: an earlier write, or a load (R159, R373, R401). -/
def State.releaseWaits (s : State) (m : Msg) : Bool :=
  m.body.behind.elim false fun k => !(s.before m).isEmpty || !s.loadsBefore m.origin k

/-- A release form of the strand is held in its tile's outbound order for an earlier access, and every later store with it (R373,
R401). -/
def State.releaseHeld (s : State) (tid rank : Nat) : Bool :=
  (s.msgs ++ s.unacked).any fun m => m.origin.chip == s.chip && m.origin.task == tid && m.origin.rank == rank && s.releaseWaits m

/-- Some failure of the task's posted writes has not been reported to its tile yet (R470). -/
def State.failuresLeft (s : State) (tid : Nat) : Bool :=
  s.msgs.any fun m => m.origin.chip == s.chip && m.origin.task == tid && match m.body with
    | .failed _ _ _ _ => true
    | _ => false

/-- A write of the strand to its own slice waits in the tile's path behind a release: it is not performed at TILE scope (R155,
R373). -/
def State.ownHeld (s : State) (tid rank k : Nat) : Bool := s.sentBy tid rank fun b => b.posted && s.inSlice k b.span.1

/-- Readies the FENCE records whose strand has no posted write left (R47). -/
def State.readyFences (s : State) : State :=
  s.tiles.foldl (fun s t =>
    t.2.recs.foldl (fun s r =>
      if r.reason = 3#8 ∧ r.readyAt.isNone ∧ ¬ r.gone ∧ ¬ s.outstanding r.task r.rank then s.readyRecord t.1 r.num else s) s) s

/-- Every member of the gang has reached its next BAR generation or ended (R34). -/
def State.barComplete (s : State) (tid : Nat) : Bool :=
  let t := s.task tid
  t.members.any (fun m => m.bar == t.barGen + 1) && t.members.all fun m => m.ended || m.bar == t.barGen + 1

/-- Writes a gang's generation state into its barrier word (R129). -/
def State.showBar (s : State) (tid : Nat) : State :=
  let t := s.task tid
  match t.barWord with
  | some (k, i) =>
    let q := s.tileQcw k 29
    s.poke (localOf (q.slot i)) (wordBytes (Config.barrierWord t.barGen (t.members.filter fun m => m.bar == t.barGen + 1).length))
  | none => s

/-- A gang's barrier word is the lowest of tile k's BARRIER region that no other gang holds (R55, R129). A gang of one has none
(log 59). -/
def State.placeBar (s : State) (tid k : Nat) : State :=
  if (s.task tid).gang ≤ 1 then s
  else
    let q := s.tileQcw k 29
    let taken := s.tasks.filterMap fun x => if x.1 ≠ tid ∧ x.2.state != .done then x.2.barWord else none
    let i := ((List.range (min q.depth 64)).find? fun i => !taken.contains (k, i)).getD 0
    (s.modTask tid fun t => { t with barWord := some (k, i) }).showBar tid

/-- Numbers of a task's posted writes that are not performed. -/
def State.writesOf (s : State) (tid : Nat) : List Nat :=
  ((s.msgs ++ s.unacked).filter fun m => m.origin.chip == s.chip && m.origin.task == tid && m.body.posted).map (·.num)

/-- Completes the generation of a gang's barrier when the last member has reached it (R34): every member's record is ready at
once, and the writes posted before it come before every later access of the members. -/
def State.finishBar (s : State) (tid : Nat) : State :=
  if s.barComplete tid then
    let s := (s.modTask tid fun t => { t with barGen := t.barGen + 1, barWrites := s.writesOf tid }).showBar tid
    s.tiles.foldl (fun s t =>
      t.2.recs.foldl (fun s r => if r.task = tid ∧ r.reason = 6#8 ∧ r.readyAt.isNone ∧ ¬ r.gone then s.readyRecord t.1 r.num else s) s) s
  else s

/-- A write that BAR orders before the task's accesses is not performed (R34). -/
def State.barHolds (s : State) (tid : Nat) : Bool :=
  let ws := (s.task tid).barWrites
  !ws.isEmpty && (s.writesOf tid).any ws.contains

/-- After a write is performed at its home: the fences that waited for it, and the records held for it (R168, R372). -/
def State.settle (s : State) : State := s.readyFences.postHeld

/-- The slots of a gang are free again once every member has ended (R33). -/
def State.releaseSlots (s : State) (tid : Nat) : State :=
  { s with strands := s.strands.map fun x => if x.2.task = some tid then (x.1, { x.2 with task := none }) else x }

/-- Once every member has ended the gang's slots are free (R33); once every command has completed too, the task goes to RETIRING
(R241, R366) and its leases are released (R45). -/
def State.maybeRetire (s : State) (tid : Nat) : State :=
  let t := s.task tid
  if t.state = .running ∧ t.members.all (·.ended) then
    let s := s.releaseSlots tid
    if s.tiles.any fun x => x.2.cmds.any fun c => c.task == tid then s
    else (s.modTask tid fun t => { t with extents := [] }).setStatus tid .retiring 0
  else s

/-- No MMA or EPIL of the tile runs, and none of the strand's own is unfinished (R211). -/
def State.quiescent (s : State) (k tid rank : Nat) : Bool :=
  (s.tile k).cmds.all fun c => c.engine != 1 || (c.state != .running && !(c.task == tid && c.rank == rank))

/-- The first waiting ACCSWAP of tile k finds its bank quiescent: it is performed before any command starts (R211). -/
def State.swapDue (s : State) (k : Nat) : Bool :=
  match (s.tile k).swaps with
  | [] => false
  | (num, _) :: _ => ((s.tile k).recs.find? fun r => r.num == num && !r.gone).elim false fun r => s.quiescent k r.task r.rank

/-- The strand as its departure leaves it: a word that its engine resumes past is passed (R47, R48). -/
def Strand.depart (t : Strand) (d : Departure) : Strand :=
  let t := if d.reason = 3#8 then t.countHalf 3 .w else t
  let t := if d.past then (t.takeTokens d.engine d.q).pass d.engine d.len none else t
  { t with departing := none }

/-- The live set of a departure's record (R50): LIVEMASK in program order at the word, when the departure commits, and the word's
destination. -/
def Strand.liveFor (t : Strand) (d : Departure) : W64 := liveSet (t.liveAt d.walk) d.dest

/-- The granules that the departure of the strand in focus takes: its record and walk block, as the commit writes them (R53, R59,
R70). -/
def State.departNeeds (s : State) (d : Departure) : Nat :=
  (s.contBytes d.reason d.key (s.cur.liveFor d) d.dep []).length / 64 + (s.cur.depart d).block.granules

/-- No departure of a higher slot of the tile has committed in this cycle: those of one cycle go in the order of their slots (R61). -/
def State.commitTurn (s : State) (n : Nat) : Bool :=
  match (s.tile (n / 8)).commitLast with
  | some (c, j) => c != s.pkg.cycles || decide (j ≤ n % 8)
  | none => true

/-- The strand in focus leaves its slot with a record (R48 step 4). Its idempotent region ends (R383). -/
def State.leave (s : State) (bs : List Byte) (r : ContRec) : State :=
  let n := s.focus
  let k := s.here
  let t := s.cur
  let s := match t.snapshot with
    | some (_, num) => s.dropRecord k num
    | none => s
  let s := s.pushRecord k bs { r with num := s.freshRecord k }
  let gang := decide (1 < (s.task r.task).gang) || t.super
  let s := s.freeSlot n gang
  let s := s.modMember r.task r.rank fun m => { m with slot := if gang then some n else none, record := some (k, r.num) }
  let s := s.modTile k fun t => { t with commitLast := some (s.pkg.cycles, n % 8) }
  (s.count k 5).traceOther k 3 (n % 8) 2

/-- A record whose key lies in the own slice waits for it, or is ready at once when a write has met the key since the test that
failed (R56). -/
def State.awaitKey (s : State) (k num slot : Nat) (key : Nat × Nat) : State :=
  let met := ((s.tile k).early.find slot).elim false fun x => x.2.2
  let s := s.modTile k fun t => { t with early := t.early.del slot }
  if met then s.readyRecord k num else s.enterWait k num key.1 key.2

/-- What a departure's record waits for, once it is written (R47). -/
def State.awaitEvent (s : State) (d : Departure) (r : ContRec) : State :=
  let k := s.here
  let o : Origin := ⟨s.chip, k, r.task, r.rank, r.slot, r.num, (s.job (s.task r.task).job).track, (s.task r.task).job,
    (s.task r.task).id, r.super⟩
  let s := d.sends.foldl (fun s x =>
    let s := match x.2 with
      | .amo .fadd _ _ _ _ _ => s.logDet k 1 false r.pcAt
      | _ => s
    s.send (chipOf x.1) o x.2) s
  match d.reason.toNat with
  | 3 => s.readyFences
  | 4 => if d.sends.isEmpty then s.awaitKey k r.num r.slot (d.key.toNat, 16) else s
  | 5 => if d.sends.isEmpty then s.awaitKey k r.num r.slot (d.key.toNat, 8) else s
  | 6 => ((s.modMember r.task r.rank fun m => { m with bar := m.bar + 1 }).showBar r.task).finishBar r.task
  | 8 => s.awaitKey k r.num r.slot (wfield d.key 3 53 * 8, 8)
  | 9 => s.modTile k fun t => { t with swaps := t.swaps ++ [(r.num, s.steps)] }
  | 0xA => s.readyRecord k r.num
  | _ => s

/-- A task of which a failed posted write has been reported ends (R470). -/
def State.endFailed (s : State) (tid : Nat) : State :=
  match (s.task tid).failure with
  | some (c, _) => s.endTask tid (resultOf c)
  | none => s

/-- Commits the departure of the strand in focus (R48, R59, R470): the record is written, the slot freed, and the awaited
event asked for; without room the departing word takes the continuation-overflow trap. Where a posted write of the task has
failed, the record is discarded and the task ends. -/
def State.commitDeparture (s : State) (d : Departure) : State :=
  if s.contFree s.here < s.departNeeds d then s.takeTrap d.engine { cause := 8 }
  else
    let at_ := s.cur.pc d.engine
    let live := s.cur.liveFor d
    let before := s.cur.block
    let s := s.modCur fun t => t.depart d
    let s := if d.past then s.count s.here (1 + (engineIdx d.engine).val)
      else if s.cur.rewoke = some d.engine then s.count s.here 7 else s
    let bs := s.contBytes d.reason d.key live d.dep []
    let r := s.newRecord d.engine d.reason d.key d.dep d.dest
    let r := { r with
      q := d.q, len := d.len, pcAt := at_, past := d.past, vas := d.vas, polled := r.polled || s.cur.polled && !d.sends.isEmpty
      unpassed := if d.past then some before else none }
    if s.curTask.failure.isSome then (s.leave bs r).endFailed r.task else (s.leave bs r).awaitEvent d r

/-- The live set of a departure that no word makes: LIVEMASK as the engines stand in program order (R50, R252). -/
def Strand.liveNow (t : Strand) : W64 := t.liveAt t.leastWalk

/-- The results in flight of the strand in focus land one by one; a signal into a full queue traps (R72), and then the others
have landed with it (R268). -/
def State.landFlights (s : State) : Nat → State × Bool
  | 0 => (s, false)
  | n + 1 => match s.cur.flights with
    | [] => (s, false)
    | f :: rest =>
      let t := { s.cur with flights := rest }.landWrite f
      match t.signal f.engine f.sp f.sn with
      | some t => (s.modCur fun _ => t).landFlights n
      | none => ((s.modCur fun _ => t).takeTrap f.engine { cause := 2, sub := 1, after := true }, true)

/-- The strand in focus, with nothing in flight, departs for a pre-emption (R252): REASON 0x10, DEP 0, with its commands' progress
entries. A record that does not fit is deferred; a task with a failed posted write ends (R470). -/
def State.preemptRecord (s : State) (cmds : List Cmd) : State :=
  let s := s.modCur fun t => { t with departing := none }
  let live := s.cur.liveNow
  let progress := cmds.flatMap progressEntry
  let bs := s.contBytes 0x10 0 live 0 progress
  if s.contFree s.here < bs.length / 64 + s.cur.block.granules then s.modCur fun t => { t with preemptPending := true }
  else
    let r := { s.newRecord .s 0x10 0 0 none with progress := cmds.map (·.seq) }
    let n := s.focus
    let s := s.leave bs r
    ((s.freeSlot n false).modMember r.task r.rank fun m => { m with slot := none }).endFailed r.task

/-- The range block of a record (R35, R120), its reserved parts as the registers read (R118). -/
def rangeBlock (bs : List Byte) : Vector RangeReg 16 :=
  Vector.ofFn fun i : Fin 16 => ⟨wordAt bs (24 * i.val), wordAt bs (24 * i.val + 8), wordAt bs (24 * i.val + 16)⟩

/-- The range registers that a launch or relaunch loads from the task's range block (R38, R120). -/
def State.loadRanges (s : State) (t : Task) : Vector RangeReg 16 :=
  (rangeBlock (s.readIA t.rangePtr 384)).map fun r =>
    ⟨r.base &&& 0x1FFFFFFFFFF0003, r.limit &&& 0x1FFFFFFFFFF0000, r.offset &&& 0xFFFFFFFFFF0000⟩

/-- The task's range block lies on a page that has to be waited for (R135). -/
def State.rangesWait (s : State) (t : Task) : Bool := s.pageWaits t.rangePtr 384 false

/-- Gives back the tokens that a word took which is not performed after all (R71). -/
def Strand.giveTokens (t : Strand) (e : Engine) (q : BitVec 4) : Strand :=
  let k := if q.getLsbD 3 then t.tokens.set (tokWP e) (t.tokens[tokWP e] + 1) else t.tokens
  { t with tokens := if q.getLsbD 2 then k.set (tokWN e) (k[tokWN e] + 1) else k }

/-- Brings the strand of a record back into slot n (R49, R54, R68, R120): its registers from the record's bytes, WINDOW from its
task, the range registers from the range block. A departing word that its engine had passed signals; one whose test passed at
its home is passed now; an error of its request traps at the word. -/
def State.relaunchInto (s : State) (n k : Nat) (r : ContRec) : State :=
  let bs := s.recBytes k r
  let old := s.strand n
  let tk := s.task r.task
  let t := (restoreStrand bs r).withBlock r.block
  let t := { t with live := true, task := some r.task, rank := r.rank, ranges := s.loadRanges tk, window := tk.window
                    trapCause := old.trapCause, trapPc := old.trapPc, trapAddr := old.trapAddr }
  let s := { s.setStrand n t with focus := n }
  let s := s.dropRecord k r.num
  let s := s.modMember r.task r.rank fun m => { m with slot := some n, record := none }
  let s := (s.count (n / 8) 6).traceOther (n / 8) 4 (n % 8) 2
  match r.error with
  | some (f, addr) =>
    let s := s.modCur fun t => (r.unpassed.elim t fun b => (t.withBlock b).giveTokens r.engine r.q).setPc r.engine r.pcAt
    s.takeTrap r.engine { cause := f.cause, sub := f.sub, addr := addr, detail := f.detail }
  | none =>
    if r.passed then
      let s := (s.modCur fun t =>
        { ((t.setPc r.engine r.pcAt).takeTokens r.engine r.q).pass r.engine r.len none with backoff := 0, polled := false }).count
          (n / 8) (1 + (engineIdx r.engine).val)
      match s.cur.signal r.engine (r.q.getLsbD 1) (r.q.getLsbD 0) with
      | some t => s.modCur fun _ => t
      | none => s.takeTrap r.engine { cause := 2, sub := 1, after := true }
    else if !r.past then s.modCur fun t => { t with rewoke := some r.engine }
    else if r.reason ≠ 0x10#8 then
      match s.cur.signal r.engine (r.q.getLsbD 1) (r.q.getLsbD 0) with
      | some t => s.modCur fun _ => t
      | none => s.takeTrap r.engine { cause := 2, sub := 1, after := true }
    else s

end Sys2Proof.Machine
end

