-- ==== Sys2Proof/Machine/Flags.lean ====
section
/-! DEFINITION. The arithmetic flags (R94) and the flag computations of rounding (R97, R110). Flags only accumulate by
OR, so a computation returns the set of flags it raises. -/

namespace Sys2Proof.Machine

/-- A set of arithmetic flags, in the bit places of ARITH_FLAGS. -/
abbrev FlagSet := BitVec 8

namespace Flag
/-- INVALID, bit 0. -/
def invalid : FlagSet := 0x01
/-- DIVZERO, bit 1. -/
def divzero : FlagSet := 0x02
/-- OVERFLOW, bit 2. -/
def overflow : FlagSet := 0x04
/-- UNDERFLOW, bit 3. -/
def underflow : FlagSet := 0x08
/-- INEXACT, bit 4. -/
def inexact : FlagSet := 0x10
/-- CLAMP, bit 5. -/
def clamp : FlagSet := 0x20
/-- STICKY, bit 6. -/
def sticky : FlagSet := 0x40
/-- NONFINITE_IN, bit 7. -/
def nonfinite : FlagSet := 0x80
end Flag

/-- The flag when the test holds. -/
def raiseIf (b : Bool) (f : FlagSet) : FlagSet := if b then f else 0

/-- Flags of an IEEE result (R97): an overflow is also inexact, an inexact tiny result underflows. -/
def ieeeFlags (inexact tiny overflow : Bool) : FlagSet :=
  raiseIf (inexact || overflow) Flag.inexact ||| raiseIf (tiny && inexact && !overflow) Flag.underflow |||
    raiseIf overflow Flag.overflow

/-- Flags of a conversion whose result is `small` (zero or subnormal) or clamped (R110). -/
def cvtFlags (inexact small clamped : Bool) : FlagSet :=
  raiseIf clamped Flag.clamp ||| raiseIf inexact Flag.inexact ||| raiseIf (inexact && small) Flag.underflow

/-- ARITH_FLAGS after a SETC: a bit written as 1 clears (W1C, R94). -/
def flagsCleared (old : FlagSet) (v : W64) : FlagSet := old &&& ~~~(v.setWidth 8)

end Sys2Proof.Machine
end

