-- ==== Sys2Proof/Machine/Registers.lean ====
section
/-! DEFINITION. Control registers by number (R14 to R24, R317, R410): whether a number is assigned, who may write it, what a
read gives and what a write does. And rings: opening, closing and naming them (R125, R407). -/

namespace Sys2Proof.Machine

/-- The assigned numbers of R317. -/
def ctlAssigned (n : Nat) : Bool :=
  decide (0x010 ≤ n ∧ n ≤ 0x013) || n == 0x020 || n == 0x021 || n == 0x030 || n == 0x031 || decide (0x040 ≤ n ∧ n ≤ 0x047) ||
    decide (0x050 ≤ n ∧ n ≤ 0x052) || decide (0x060 ≤ n ∧ n ≤ 0x070 ∧ (n ≤ 0x069 ∨ n = 0x070)) ||
    decide (0x080 ≤ n ∧ n ≤ 0x0DF) || decide (0x100 ≤ n ∧ n ≤ 0x12F) || decide (0x140 ≤ n ∧ n ≤ 0x150)

/-- The numbers that a SETC writes at supervisor level only (R317). -/
def ctlSuper (n : Nat) : Bool :=
  n == 0x010 || n == 0x046 || decide (0x050 ≤ n ∧ n ≤ 0x052) || n == 0x060 || n == 0x061 || decide (0x066 ≤ n ∧ n ≤ 0x069) ||
    decide (0x100 ≤ n ∧ n ≤ 0x12F) || decide (0x140 ≤ n ∧ n ≤ 0x150)

/-- The values of an envelope mode in the order of R24: CLOCK_MHZ, VCORE_MV, HBM_ECC, HBM_BW, FABRIC_FEC, HOP_NS. -/
def modeValues (m : Nat) : Nat × Nat × Nat × Nat × Nat × Nat :=
  match m with
  | 0 => (2000, 650, 0, 1000, 0, 56)
  | 1 => (1800, 620, 0, 1000, 0, 56)
  | 2 => (1400, 580, 1, 875, 1, 80)
  | _ => (1000, 560, 1, 875, 1, 80)

/-- ENVELOPE (R23). -/
def Pkg.envelope (p : Pkg) : Nat :=
  let (clock, mv, ecc, bw, fec, hop) := modeValues p.envActive.toNat
  p.envMode.toNat + p.envActive.toNat * 2 ^ 2 + p.envPending.toNat * 2 ^ 5 + p.envRefused.toNat * 2 ^ 6 + clock * 2 ^ 8 +
    2 ^ 20 * mv + 2 ^ 31 * ecc + 2 ^ 33 * fec + 2 ^ 34 * bw + 2 ^ 44 * hop

/-- A request of a mode (R26): starts a transition, or is refused while one is pending. -/
def Pkg.requestMode (p : Pkg) (m : BitVec 2) : Pkg :=
  if p.envPending then { p with envRefused := true }
  else if m = p.envActive then p
  else { p with envMode := m, envPending := true }

/-- TILE_SELF of tile k (R7, R17, R28). -/
def State.tileSelf (s : State) (k : Nat) : Nat :=
  let c := s.pkg.clusters.getD (k / 16) 0
  let x := 4 * (c % 4) + k % 4
  let y := 4 * (c / 4) + k % 16 / 4
  k + k / 16 * 2 ^ 10 + 2 ^ 15 * x + 2 ^ 19 * y + (2 * (y / 16) + x / 8) * 2 ^ 24 + (s.tile k).spareSubst.toNat * 2 ^ 26

/-- Bits set in a list of tests, bit 0 first. -/
def bitsOf : List Bool → Nat
  | [] => 0
  | b :: bs => b.toNat + 2 * bitsOf bs

/-- SEED as a tile reads it (R377). -/
def State.seedAt (s : State) (k : Nat) (job : W16) : W64 := Tab.get ((s.job job).seed.getD 0) (s.tile k).seeds job.toNat

/-- What GETC of an assigned number gives in strand slot n (R317, R377). -/
def State.getCtl (s : State) (n num : Nat) : W64 :=
  let t := s.strand n
  let k := s.tile (n / 8)
  let p := s.pkg
  if num = 0x010 then
    BitVec.ofNat 64 (k.chk.toNat + t.super.toNat * 2 + 2 ^ 16 * k.viol.toNat + 2 ^ 32 * k.violPc.toNat)
  else if num = 0x011 then t.window.setWidth 64
  else if num = 0x012 then k.arithFlags.setWidth 64
  else if num = 0x013 then s.frame
  else if num = 0x020 then t.livemask
  else if num = 0x021 then s.seedAt (n / 8) (s.task (t.task.getD 0)).job
  else if num = 0x030 then k.rowLag.setWidth 64
  else if num = 0x031 then BitVec.ofNat 64 (4 * 2 ^ 8 + k.rowqPolicy.toNat)
  else if num = 0x040 then BitVec.ofNat 64 (s.tileCount + 2 ^ 10 * p.clusters.length + 2 ^ 16 * p.spares.sum)
  else if num = 0x041 then BitVec.ofNat 64 (s.tileSelf (n / 8))
  else if num = 0x042 then BitVec.ofNat 64 (p.hbmChannels + p.hbmStacks * 2 ^ 9 + 2 * p.hbmChannels * 2 ^ 16)
  else if num = 0x043 then BitVec.ofNat 64 (p.lpddrChannels + 2 ^ 16 * p.tierGib)
  else if num = 0x044 then BitVec.ofNat 64 (p.cxlLinked.toNat + p.cxlWidth.toNat * 2 ^ 8 + 2 ^ 16 * p.poolGib)
  else if num = 0x045 then p.coord
  else if num = 0x046 then BitVec.ofNat 64 p.envelope
  else if num = 0x047 then p.hostLink.setWidth 64
  else if num = 0x050 then p.schedAge.setWidth 64
  else if num = 0x051 then p.stealCtl.setWidth 64
  else if num = 0x052 then p.wavePeriod.setWidth 64
  else if num = 0x060 then k.trapBase
  else if num = 0x061 then k.trapFrames
  else if num = 0x062 then t.trapCause
  else if num = 0x063 then t.trapPc
  else if num = 0x064 then t.trapAddr
  else if num = 0x065 then p.errDropped
  else if num = 0x066 then BitVec.ofNat 64 (bitsOf [false, k.bkptStop, k.stopped])
  else if num = 0x067 then k.traceCtl.setWidth 64 + BitVec.ofNat 64 (2 ^ 32 * k.traceWritten.toNat)
  else if num = 0x068 then k.traceBase
  else if num = 0x069 then k.stopAt
  else if num = 0x070 then
    BitVec.ofNat 64 (p.tempC.toNat + p.powerW.toNat * 2 ^ 8 + 2 ^ 20 * p.powerLimit.toNat + 2 ^ 32 * p.powerGated.toNat)
  else if num < 0x100 then Tab.get 0 p.portMap (num - 0x080)
  else if num < 0x110 then (t.ranges.toList.getD (num - 0x100) {}).base
  else if num < 0x120 then (t.ranges.toList.getD (num - 0x110) {}).limit
  else if num < 0x130 then (t.ranges.toList.getD (num - 0x120) {}).offset
  else if num < 0x150 then k.detcause.toList.getD (num - 0x140) 0
  else BitVec.ofNat 64 (wfield p.detSum 0 48 + 2 ^ 48 * s.detTiles)

/-- The range registers with one of them written (R118). -/
def rangePut (rs : Vector RangeReg 16) (num : Nat) (v : W64) : Vector RangeReg 16 :=
  Vector.ofFn fun i : Fin 16 =>
    let r := rs[i]
    if num % 16 ≠ i.val then r
    else if num < 0x110 then { r with base := v }
    else if num < 0x120 then { r with limit := v }
    else { r with offset := v }

/-- The reserved bits of a range register are zero in a value (R118, R410). -/
def rangeOk (num : Nat) (v : W64) : Bool :=
  if num < 0x110 then wfield v 57 7 == 0 && wfield v 2 14 == 0
  else if num < 0x120 then wfield v 57 7 == 0 && wfield v 0 16 == 0
  else wfield v 56 8 == 0 && wfield v 0 16 == 0

/-- A value that TRAP_FRAMES of tile k may take (R270). -/
def State.trapFramesOk (s : State) (k : Nat) (v : W64) : Bool :=
  !v.getLsbD 0 ||
    (decide (wfield v 6 14 * 64 + 110592 ≤ 0xFFE00) &&
      !touches (s.carved k) (0x100000 * k + wfield v 6 14 * 64) 110592)

/-- The value keeps every reserved bit outside `len` fields at zero. -/
def onlyBits (mask v : W64) : Bool := v &&& ~~~mask == 0

/-- What a SETC does to strand slot n (R410); `none` when the value breaks the register's rule. -/
def State.setCtl (s : State) (n num : Nat) (v : W64) : Option State :=
  let k := n / 8
  let tileSet (f : Tile → Tile) : Option State := some (s.modTile k f)
  let when_ (ok : Bool) (x : State) : Option State := if ok then some x else none
  if num = 0x010 then tileSet fun t => { t with chk := v.getLsbD 0, viol := BitVec.ofNat 16 (wfield v 16 16) }
  else if num = 0x011 then
    when_ (decide (16 ≤ wfield v 0 11 ∧ wfield v 0 11 ≤ 1024)) (s.modStrand n fun t => { t with window := v.setWidth 11 })
  else if num = 0x012 then tileSet fun t => { t with arithFlags := flagsCleared t.arithFlags v }
  else if num = 0x020 then some (s.modStrand n fun t => t.setLive v)
  else if num = 0x021 then
    let j := (s.task ((s.strand n).task.getD 0)).job
    let s := s.modTile k fun t => { t with seeds := Tab.put t.seeds j.toNat v }
    some { s with toDispatch := s.toDispatch ++ [.seedWrite j v] }
  else if num = 0x030 then when_ (wfield v 0 8 != 0) (s.modTile k fun t => { t with rowLag := v.setWidth 8 })
  else if num = 0x031 then when_ (wfield v 0 2 != 3) (s.modTile k fun t => { t with rowqPolicy := v.setWidth 2 })
  else if num = 0x046 then
    some (s.modPkg fun p => { p with envRefused := p.envRefused && !v.getLsbD 6 }.requestMode (v.setWidth 2))
  else if num = 0x050 then when_ (decide (1024 ≤ wfield v 0 32)) (s.modPkg fun p => { p with schedAge := v.setWidth 32 })
  else if num = 0x051 then when_ (wfield v 0 16 != 0) (s.modPkg fun p => { p with stealCtl := v.setWidth 18 })
  else if num = 0x052 then when_ (decide (500 ≤ wfield v 0 16)) (s.modPkg fun p => { p with wavePeriod := v.setWidth 16 })
  else if num = 0x060 then when_ (onlyBits 0x00FFFFFFFFFFFFFD v) (s.modTile k fun t => { t with trapBase := v })
  else if num = 0x061 then when_ (s.trapFramesOk k v) (s.modTile k fun t => { t with trapFrames := v &&& 0xFFFC1 })
  else if num = 0x066 then tileSet fun t => { t with bkptStop := v.getLsbD 1 }
  else if num = 0x067 then
    when_ (wfield v 11 5 == 0 || decide (10 ≤ wfield v 11 5)) (s.modTile k fun t => { t with traceCtl := v.setWidth 32 &&& 0xFF87E })
  else if num = 0x068 then when_ (onlyBits 0x00FFFFFFFFFFFFC1 v) (s.modTile k fun t => { t with traceBase := v })
  else if num = 0x069 then tileSet fun t => { t with stopAt := v }
  else if 0x100 ≤ num ∧ num < 0x130 then when_ (rangeOk num v) (s.modStrand n fun t => t.setRanges (rangePut t.ranges num v))
  else if 0x140 ≤ num ∧ num < 0x150 then
    when_ (v == 0) (s.modTile k fun t =>
      { t with detcause := Vector.ofFn fun i : Fin 16 => if num = 0x140 + i.val then 0 else t.detcause[i] })
  else if num = 0x150 then when_ (v == 0) (s.modPkg fun p => { p with detSum := 0 })
  else some s

/-- The ring whose QCW is at an IA of tile k's slice: an open one, or one that satisfies R123 to R125. -/
def State.ringAt (s : State) (k ia : Nat) : Option Qcw :=
  let q := s.ringNow k ia
  let a := localOf q.base
  if ((s.tile k).rings.any fun r => r.qcw == ia) then some q
  else if ia % 32 = 0 ∧ s.inSlice k ia ∧ q.valid ∧ q.kind = 3 ∧ q.wellFormed ∧ s.inSlice k q.base ∧ q.base % q.elem = 0 ∧
      a % 0x100000 + q.span ≤ 0xFFE00 ∧ ¬ touches (s.carved k) a q.span ∧
      ¬ ((s.tile k).rings.any fun r =>
          overlaps a q.span (localOf r.base) (s.ringQueue r).span) then some q
  else none

/-- The ring is open on tile k. -/
def State.ringOpen (s : State) (k ia : Nat) : Bool := (s.tile k).rings.any fun r => r.qcw == ia

/-- Opens a ring for a task, if it is not open (R125). -/
def State.openRing (s : State) (k ia tid : Nat) : State :=
  if s.ringOpen k ia then s
  else
    let q := s.qcwAt ia
    s.modTile k fun t => { t with rings := t.rings ++ [⟨ia, tid, q.base, q.depth, q.elem⟩] }

/-- A queued or running command has a VA that translates to the QCW of a ring. -/
def State.ringNamed (s : State) (k ia : Nat) : Bool :=
  (s.tile k).cmds.any fun c =>
    (List.range 7).any fun i => s.ia c.ranges c.super (wordAt c.bytes (0x20 + 8 * i)) 32 false == some ia

/-- A store of a task that has written 0 to VALID of an empty ring that no command names closes it (R125). -/
def State.closeCleared (s : State) (k tid a n : Nat) : State :=
  if (s.tile k).rings.isEmpty then s
  else s.modTile k fun t =>
    { t with rings := t.rings.filter fun r =>
        let q := s.qcwAt r.qcw
        !(r.task == tid && overlaps a n (localOf r.qcw + 15) 1 && !q.valid && q.head == q.tail && !s.ringNamed k r.qcw) }

end Sys2Proof.Machine
end

