-- ==== Sys2Proof/Machine/ControlSpace.lean ====
section
/-! DEFINITION. Writes to control space (R122 to R126, R140, R234, R253): what an unassigned or read-only byte does, and
which writes of a tile's queue control words are performed. -/

namespace Sys2Proof.Machine

/-- The carved regions of tile k's slice but for that of table index i: the table's queues and the open rings (R125). -/
def State.carvedBut (s : State) (k i : Nat) : List (Nat × Nat) :=
  ((List.range 30).filterMap fun j =>
    let q := s.tileQcw k j
    if q.valid && j != i then some (localOf q.base, q.span) else none) ++
  (s.tile k).rings.map fun r => (localOf r.base, (s.ringQueue r).span)

/-- KIND, ELEM and alignment of BASE of index i of a tile's table (R124); of SPILL only the region is asked. -/
def queueShape (i : Nat) : Option (Nat × Nat × Nat) :=
  if i < 28 then some (1, 128, 128)
  else if i = 28 then some (2, 64, 64)
  else if i = 29 then some (5, 8, 64)
  else if i = 30 then some (6, 64, 1)
  else none

/-- A QCW that may stand valid at index i of tile k's table (R123 to R125). -/
def State.queueOk (s : State) (k i : Nat) (q : Qcw) : Bool :=
  match queueShape i with
  | none => false
  | some (kind, elem, align) =>
    q.wellFormed && q.kind == kind && q.elem == elem && decide (q.base % align = 0) && (i != 29 || q.depth == 8) &&
      (if i = 30 then
        s.inDomain (chipOf q.base) && decide (q.base < 2 ^ 56) && decide (0x10000000000 ≤ localOf q.base ∧ localOf q.base + q.span ≤ 0x1C000000000)
      else s.inSlice k q.base && decide (localOf q.base % 0x100000 + q.span ≤ 0xFFE00) &&
        !touches (s.carvedBut k i) (localOf q.base) q.span)

/-- The enlarged continuation queue (R126): the records keep their order from the slot of the oldest, and those that wrapped
past the old end move behind it. -/
def State.growQueue (s : State) (k : Nat) (new : List Byte) : State :=
  let q := s.tileQcw k 28
  let t := s.tile k
  let from_ := t.contHeadNow
  let first := from_ % q.depth
  let kept := (List.range (t.contTail - from_)).map fun g => s.readLocal (localOf (q.slot (from_ + g))) 64
  let s := s.modTile k fun t =>
    { t with contHead := first, contTail := first + (t.contTail - from_)
             recs := t.recs.map fun r => if r.spilled then r else { r with granule := first + (r.granule - from_) } }
  let s := s.poke (qcwTable k 28) (patch new 16 (toBytes 4 first ++ toBytes 4 (s.tile k).contTail))
  let q := s.tileQcw k 28
  kept.zipIdx.foldl (fun s x => s.poke (localOf (q.slot (first + x.2))) x.1) s

/-- A store of bytes into index i of tile k's table (R124 to R126). -/
def State.queueStore (s : State) (k i off : Nat) (bs : List Byte) : State :=
  let a := qcwTable k i
  let old := s.readLocal a 32
  let new := patch old off bs
  let q := Qcw.ofBytes old
  let q' := Qcw.ofBytes new
  if q.valid then
    if i = 28 ∧ q'.base = q.base ∧ q.depth < q'.depth ∧ patch new 8 (old.drop 8 |>.take 4) = old ∧ s.queueOk k i q' then s.growQueue k new
    else if !q'.valid ∧ q.occupancy = 0 then s.poke a new
    else s
  else if q'.valid then
    if s.queueOk k i q' then
      let s := s.poke a new
      if i = 28 then s.modTile k fun t => { t with contHead := q'.head, contTail := q'.tail } else s
    else s.poke a (patch new 15 [BitVec.ofNat 8 (fieldAt new 15 1 - 1)])
  else s.poke a new

/-- The bits of a byte of control space that are not reserved: PT_ROOT, the ownership table, EXPERT_CTL, and the descriptors of
submission queues, host windows and dumps (R122, R134, R143, R234, R237, R289). The others read as zero (R3; log 58). -/
def controlMask (a : Nat) : Byte :=
  if 0x180000000 ≤ a ∧ a < 0x180000008 then [0x01, 0xF0, 0xFF, 0xFF, 0xFF, 0xFF, 0, 0].getD (a % 8) 0
  else if 0x180000100 ≤ a ∧ a < 0x180000500 then
    [0x01, 0, 0xFF, 0xFF, 0xFF, 0xFF, 0xFF, 0, 0xFF, 0x01, 0xFF, 0xFF, 0xFF, 0xFF, 0xFF, 0].getD (a % 16) 0
  else if 0x180002008 ≤ a ∧ a < 0x180002010 then [0xFF, 0xFF, 0xFF, 0xFF, 0x0F, 0, 0, 0].getD (a % 8) 0
  else if 0x180003000 ≤ a ∧ a < 0x180003200 then
    (if a % 32 < 0xC then 0xFF else if a % 32 = 0xC then 1 else if 0x10 ≤ a % 32 ∧ a % 32 < 0x18 then 0xFF else 0)
  else if 0x180004000 ≤ a ∧ a < 0x180004400 then (if a % 32 < 0x13 then 0xFF else if a % 32 = 0x13 then 3 else 0)
  else if 0x180007000 ≤ a ∧ a < 0x180007800 then (if a % 32 < 0x10 then 0xFF else if a % 32 = 0x10 then 3 else 0)
  else 0xFF

/-- A store of bytes that lie in one 32-byte unit of control space (R122). A submission queue made valid has consumed no packet
since (R234). -/
def State.controlUnit (s : State) (a : Nat) (bs : List Byte) : State :=
  if a < 0x102000000 ∧ a % 0x10000 < 0x400 ∧ a % 0x100000000 / 0x10000 < s.tileCount then
    s.queueStore (a % 0x100000000 / 0x10000) (a % 0x10000 / 32) (a % 32) bs
  else
    let s' := bs.zipIdx.foldl (fun s x =>
      if controlAssigned (a + x.2) && !controlReadOnly (a + x.2) then s.poke (a + x.2) [x.1 &&& controlMask (a + x.2)] else s) s
    if 0x180003000 ≤ a ∧ a < 0x180003200 then
      let q := a % 0x1000 / 32
      if !bitAt (s.readNum (a / 32 * 32 + 0xC) 1) 0 && bitAt (s'.readNum (a / 32 * 32 + 0xC) 1) 0 then
        s'.modPkg fun p => { p with subErrq := Tab.del p.subErrq q, subStopped := Tab.del p.subStopped q }
      else s'
    else s'

/-- A store to control space of this package, unit by unit. -/
def State.controlStore (s : State) (a : Nat) (bs : List Byte) : State :=
  (List.range ((a % 32 + bs.length + 31) / 32)).foldl (fun s i =>
    let lo := if i = 0 then a else a / 32 * 32 + 32 * i
    s.controlUnit lo ((bs.drop (lo - a)).take (32 - lo % 32))) s

/-- A store performed at its home on this package, in any region. -/
def State.store (s : State) (ia : Nat) (bs : List Byte) : State :=
  if s.region (localOf ia) = some .control then s.controlStore (localOf ia) bs else s.perform ia bs

end Sys2Proof.Machine
end

