-- ==== Sys2Proof/Machine/Numeric.lean ====
section
/-! DEFINITION. Numbers of the E512 (R95 to R116): formats, exact values, the roundings, conversion under a tensor
parameter record, block-scale selection, the accumulators AW and XA, KX-128 and minimumNumber. -/

namespace Sys2Proof.Machine

/-- A value read exactly: a NaN (signalling or not), an infinity, or (-1)^neg × m × 2^e. -/
inductive Num where
  | nan (sig : Bool)
  | inf (neg : Bool)
  | fin (neg : Bool) (m : Nat) (e : Int)
  deriving DecidableEq, Repr, Inhabited

/-- A floating-point format of R96: field widths, bias, whether it has infinities. -/
structure Fp where
  ew : Nat
  fw : Nat
  bias : Nat
  infs : Bool
  deriving DecidableEq, Repr, Inhabited

namespace Fp
/-- FP8 E4M3 (R96): no infinity, one NaN pattern a sign. -/
def e4m3 : Fp := ⟨4, 3, 7, false⟩
/-- FP8 E5M2. -/
def e5m2 : Fp := ⟨5, 2, 15, true⟩
/-- FP16. -/
def fp16 : Fp := ⟨5, 10, 15, true⟩
/-- BF16. -/
def bf16 : Fp := ⟨8, 7, 127, true⟩
/-- FP32. -/
def fp32 : Fp := ⟨8, 23, 127, true⟩
/-- Exponent of the smallest normal value. -/
def emin (f : Fp) : Int := 1 - (f.bias : Int)
/-- Canonical NaN (R96). -/
def canon (f : Fp) : Nat :=
  if f.infs then (2 ^ f.ew - 1) * 2 ^ f.fw + 2 ^ (f.fw - 1) else 2 ^ (f.ew + f.fw) - 1
/-- Largest finite value as (m, e). -/
def largest (f : Fp) : Nat × Int :=
  if f.infs then (2 ^ (f.fw + 1) - 1, (2 ^ f.ew - 2 : Nat) - (f.bias : Int) - f.fw)
  else (2 ^ (f.fw + 1) - 2, (2 ^ f.ew - 1 : Nat) - (f.bias : Int) - f.fw)
/-- Bits of an infinity. -/
def infBits (f : Fp) (neg : Bool) : Nat := (if neg then 2 ^ (f.ew + f.fw) else 0) + (2 ^ f.ew - 1) * 2 ^ f.fw
end Fp

/-- An element format of R99 that is one value an element: integers by width, floating point. -/
inductive Fmt where
  | int (w : Nat)
  | fp (f : Fp)
  deriving DecidableEq, Repr, Inhabited

namespace Fmt
/-- Bytes of an element. -/
def bytes : Fmt → Nat
  | int w => w / 8
  | fp f => (1 + f.ew + f.fw) / 8
/-- Bits of an element. -/
def width (f : Fmt) : Nat := 8 * f.bytes
/-- The format of a code of R99, where it is one value an element. -/
def ofCode : Nat → Option Fmt
  | 0x00 => some (int 8)
  | 0x01 => some (int 16)
  | 0x02 => some (int 32)
  | 0x03 => some (int 64)
  | 0x08 => some (fp Fp.e4m3)
  | 0x09 => some (fp Fp.e5m2)
  | 0x0A => some (fp Fp.fp16)
  | 0x0B => some (fp Fp.bf16)
  | 0x0C => some (fp Fp.fp32)
  | _ => none
end Fmt

/-- The mantissa width of a BFP code (R99), 2 to 8. -/
def bfpOfCode (c : Nat) : Option Nat := if 0x12 ≤ c ∧ c ≤ 0x18 then some (c - 0x10) else none

/-- Reads the bits of a floating-point value (R96). -/
def readFp (f : Fp) (x : Nat) : Num :=
  let neg := bitAt x (f.ew + f.fw)
  let ex := field x f.fw f.ew
  let fr := field x 0 f.fw
  if ex = 2 ^ f.ew - 1 ∧ (f.infs ∨ fr = 2 ^ f.fw - 1) then
    if f.infs ∧ fr = 0 then .inf neg else .nan (f.infs && !bitAt fr (f.fw - 1))
  else if ex = 0 then .fin neg fr (f.emin - f.fw)
  else .fin neg (2 ^ f.fw + fr) ((ex : Int) - f.bias - f.fw)

/-- Reads the bits of an element of a format. -/
def readFmt (f : Fmt) (x : Nat) : Num :=
  match f with
  | .int w => let i := sgn w x; .fin (decide (i < 0)) i.natAbs 0
  | .fp g => readFp g x

/-- The order of m₁ × 2^e₁ and m₂ × 2^e₂. -/
def cmpMag (m₁ : Nat) (e₁ : Int) (m₂ : Nat) (e₂ : Int) : Ordering :=
  if m₁ = 0 ∨ m₂ = 0 then compare m₁ m₂
  else
    let l₁ := (Nat.log2 m₁ : Int) + e₁
    let l₂ := (Nat.log2 m₂ : Int) + e₂
    if l₁ < l₂ then .lt else if l₂ < l₁ then .gt
    else if e₁ ≤ e₂ then compare m₁ (m₂ * 2 ^ (e₂ - e₁).toNat) else compare (m₁ * 2 ^ (e₁ - e₂).toNat) m₂

/-- How a value between two grid points is rounded. -/
inductive Rounding where
  /-- To nearest, ties to even. -/
  | rne
  /-- Toward zero. -/
  | rtz
  /-- Toward minus infinity, for a value of the given sign. -/
  | floor (neg : Bool)
  /-- Toward plus infinity, for a value of the given sign. -/
  | ceil (neg : Bool)
  /-- To nearest, ties away from zero. -/
  | rna
  /-- Stochastically, with a 24-bit draw (R111). -/
  | stoch (draw : Nat)
  deriving DecidableEq, Repr, Inhabited

/-- The magnitude m × 2^e on the grid of multiples of 2^q: the multiple and whether it is inexact. -/
def roundAt (mode : Rounding) (m : Nat) (e q : Int) : Nat × Bool :=
  if q ≤ e then (m * 2 ^ (e - q).toNat, false)
  else
    let k := min (q - e).toNat (Nat.log2 m + 40)
    let lo := m / 2 ^ k
    let r := m % 2 ^ k
    let up := match mode with
      | .rne => decide (2 ^ k < 2 * r) || (decide (2 ^ k = 2 * r) && lo % 2 == 1)
      | .rtz => false
      | .floor neg => neg && r != 0
      | .ceil neg => !neg && r != 0
      | .rna => decide (2 ^ k ≤ 2 * r)
      | .stoch d => r != 0 && decide (2 ^ 24 ≤ r * 2 ^ 24 / 2 ^ k + d)
    (if up then lo + 1 else lo, r != 0)

/-- The exponent of the last place of a value of magnitude m × 2^e on a format's grid (R110: unbounded above). -/
def ulpExp (f : Fmt) (m : Nat) (e : Int) : Int :=
  match f with
  | .int _ => 0
  | .fp g => if m = 0 then g.emin - g.fw else max ((Nat.log2 m : Int) + e - g.fw) (g.emin - g.fw)

/-- A finite magnitude rounded to a format's grid: multiple, exponent, inexact. -/
def roundTo (f : Fmt) (mode : Rounding) (m : Nat) (e : Int) : Nat × Int × Bool :=
  let q := ulpExp f m e
  let (r, ix) := roundAt mode m e q
  (r, q, ix)

/-- The bits of a grid value that lies in a floating-point format's range. -/
def packFp (f : Fp) (neg : Bool) (m : Nat) (q : Int) : Nat :=
  let sign := if neg then 2 ^ (f.ew + f.fw) else 0
  if m = 0 then sign
  else
    let l := (Nat.log2 m : Int) + q
    if l < f.emin then
      let k := q - (f.emin - f.fw)
      sign + (if 0 ≤ k then m * 2 ^ k.toNat else m / 2 ^ (-k).toNat)
    else
      let k := q - (l - f.fw)
      let sig := if 0 ≤ k then m * 2 ^ k.toNat else m / 2 ^ (-k).toNat
      sign + (l + f.bias).toNat * 2 ^ f.fw + (sig - 2 ^ f.fw)

/-- The bits of a grid value in a format. -/
def packFmt (f : Fmt) (neg : Bool) (m : Nat) (q : Int) : Nat :=
  match f with
  | .int w => wrapInt w (let a : Int := (m * 2 ^ q.toNat : Nat); if neg then -a else a)
  | .fp g => packFp g neg m q

/-- The magnitude exceeds the format's largest finite value. -/
def aboveLargest (f : Fp) (m : Nat) (q : Int) : Bool := cmpMag m q f.largest.1 f.largest.2 == .gt

/-- A value is tiny after rounding (R97): rounded to the precision with an unbounded exponent, below the smallest normal. -/
def tinyAfter (f : Fp) (mode : Rounding) (m : Nat) (e : Int) : Bool :=
  if m = 0 then false
  else
    let q := (Nat.log2 m : Int) + e - f.fw
    let r := (roundAt mode m e q).1
    cmpMag r q 1 f.emin == .lt

/-- An exact value rounded to a floating-point format as IEEE 754 does (R97). -/
def ieeeRound (f : Fp) (x : Num) : Nat × FlagSet :=
  match x with
  | .nan sig => (f.canon, raiseIf sig Flag.invalid)
  | .inf neg => (f.infBits neg, 0)
  | .fin neg m e =>
    let (r, q, ix) := roundTo (.fp f) .rne m e
    if aboveLargest f r q then (f.infBits neg, ieeeFlags true false true)
    else (packFp f neg r q, ieeeFlags ix (tinyAfter f .rne m e) false)

/-- Sum of exact values; an exact zero sum of opposite signs is +0. Infinities of opposite signs are invalid. -/
def numAdd (x y : Num) : Num × FlagSet :=
  match x, y with
  | .nan a, .nan b => (.nan false, raiseIf (a || b) Flag.invalid)
  | .nan a, _ => (.nan false, raiseIf a Flag.invalid)
  | _, .nan b => (.nan false, raiseIf b Flag.invalid)
  | .inf a, .inf b => if a = b then (.inf a, 0) else (.nan false, Flag.invalid)
  | .inf a, .fin _ _ _ => (.inf a, 0)
  | .fin _ _ _, .inf b => (.inf b, 0)
  | .fin n₁ m₁ e₁, .fin n₂ m₂ e₂ =>
    if m₁ = 0 ∧ m₂ = 0 then (.fin (n₁ && n₂) 0 (min e₁ e₂), 0)
    else if m₁ = 0 then (y, 0)
    else if m₂ = 0 then (x, 0)
    else
      let e := min e₁ e₂
      let a : Int := (m₁ * 2 ^ (e₁ - e).toNat : Nat)
      let b : Int := (m₂ * 2 ^ (e₂ - e).toNat : Nat)
      let t := (if n₁ then -a else a) + (if n₂ then -b else b)
      (.fin (decide (t < 0)) t.natAbs e, 0)

/-- The opposite value; a NaN stays. -/
def numNeg : Num → Num
  | .nan s => .nan s
  | .inf n => .inf (!n)
  | .fin n m e => .fin (!n) m e

/-- Product of exact values; zero by infinity is invalid. -/
def numMul (x y : Num) : Num × FlagSet :=
  match x, y with
  | .nan a, .nan b => (.nan false, raiseIf (a || b) Flag.invalid)
  | .nan a, _ => (.nan false, raiseIf a Flag.invalid)
  | _, .nan b => (.nan false, raiseIf b Flag.invalid)
  | .inf a, .inf b => (.inf (a != b), 0)
  | .inf a, .fin b m _ => if m = 0 then (.nan false, Flag.invalid) else (.inf (a != b), 0)
  | .fin a m _, .inf b => if m = 0 then (.nan false, Flag.invalid) else (.inf (a != b), 0)
  | .fin a m e, .fin b k d => (.fin (a != b) (m * k) (e + d), 0)

/-- The order of two values that are not NaN; the zeros are equal. -/
def numCmp (x y : Num) : Ordering :=
  match x, y with
  | .nan _, _ => .eq
  | _, .nan _ => .eq
  | .inf a, .inf b => if a = b then .eq else if a then .lt else .gt
  | .inf a, .fin _ _ _ => if a then .lt else .gt
  | .fin _ _ _, .inf b => if b then .gt else .lt
  | .fin n₁ m₁ e₁, .fin n₂ m₂ e₂ =>
    if m₁ = 0 ∧ m₂ = 0 then .eq
    else if m₁ = 0 then (if n₂ then .gt else .lt)
    else if m₂ = 0 then (if n₁ then .lt else .gt)
    else match n₁, n₂ with
      | false, true => .gt
      | true, false => .lt
      | false, false => cmpMag m₁ e₁ m₂ e₂
      | true, true => cmpMag m₂ e₂ m₁ e₁

/-- The value is a NaN. -/
def Num.isNan : Num → Bool
  | .nan _ => true
  | _ => false

/-- The value is a signalling NaN. -/
def Num.isSig : Num → Bool
  | .nan s => s
  | _ => false

/-- The value is negative (the sign of a zero counts). -/
def Num.isNeg : Num → Bool
  | .nan _ => false
  | .inf n => n
  | .fin n _ _ => n

/-- minimumNumber or maximumNumber of the bits of two values (R116). -/
def fpMinMax (f : Fp) (wantMax : Bool) (x y : Nat) : Nat × FlagSet :=
  let a := readFp f x
  let b := readFp f y
  match a.isNan, b.isNan with
  | true, true => (f.canon, raiseIf (a.isSig || b.isSig) Flag.invalid)
  | true, false => (y, raiseIf a.isSig Flag.invalid)
  | false, true => (x, raiseIf b.isSig Flag.invalid)
  | false, false =>
    let xBelow := match numCmp a b with
      | .lt => true
      | .gt => false
      | .eq => a.isNeg
    (if xBelow = wantMax then y else x, 0)

/-- Sum of two values of a format by their bits (R97). -/
def fpAdd (f : Fp) (x y : Nat) : Nat × FlagSet :=
  let (v, fl) := numAdd (readFp f x) (readFp f y)
  let (r, fl') := ieeeRound f v
  (r, fl ||| fl')

/-- Product of two values of a format by their bits. -/
def fpMul (f : Fp) (x y : Nat) : Nat × FlagSet :=
  let (v, fl) := numMul (readFp f x) (readFp f y)
  let (r, fl') := ieeeRound f v
  (r, fl ||| fl')

/-- Fused x × y + z with one rounding; a signalling addend is invalid too, and so is 0 × ∞ beside a quiet NaN, which IEEE 754
leaves open (PRESUMED, log 72). -/
def fpFma (f : Fp) (x y z : Num) : Nat × FlagSet :=
  let (p, fl) := numMul x y
  let (v, fl') := numAdd p z
  let (r, fl'') := ieeeRound f v
  (r, fl ||| fl' ||| fl'')

/-- A tensor parameter record (R109). -/
structure Tpr where
  fmt : Nat
  stoch : Bool
  blockScale : Bool
  stream : Nat
  bound : Nat
  fixedExp : Nat
  deriving DecidableEq, Repr, Inhabited

/-- Reads a tensor parameter record; `none` when it is malformed (R3, R109). -/
def Tpr.parse (bs : List Byte) : Option Tpr :=
  let fmt := fieldAt bs 0 1
  let ctl := fieldAt bs 1 1
  let bound := fieldAt bs 4 4
  let badBound := match readFp Fp.fp32 bound with
    | .nan _ => true
    | .inf n => n
    | .fin n m _ => n && m != 0
  if ((Fmt.ofCode fmt).isNone && (bfpOfCode fmt).isNone) || 2 ≤ ctl % 4 || 8 ≤ ctl || !allZero bs 9 7 || badBound then none
  else some ⟨fmt, ctl % 4 == 1, bitAt ctl 2, fieldAt bs 2 2, bound, fieldAt bs 8 1⟩

/-- BOUND selects the format maximum (R109: either zero, or +∞). -/
def Tpr.boundMax (p : Tpr) : Bool := p.bound % 2 ^ 31 == 0 || p.bound == 0x7F800000

/-- The limit L of a record for a format that is one value an element: (m, e). -/
def Tpr.limit (p : Tpr) (f : Fmt) : Nat × Int :=
  let top : Nat × Int := match f with
    | .int w => (2 ^ (w - 1) - 1, 0)
    | .fp g => g.largest
  if p.boundMax then top
  else match readFp Fp.fp32 p.bound with
    | .fin _ m e =>
      let (r, q, _) := roundTo f .rtz m e
      if cmpMag r q top.1 top.2 == .gt then top
      else if r = 0 then (1, match f with
        | .int _ => 0
        | .fp g => g.emin - g.fw)
      else (r, q)
    | _ => top

/-- The grid value is zero or subnormal in the format. -/
def smallIn (f : Fmt) (m : Nat) (q : Int) : Bool :=
  match f with
  | .int _ => m == 0
  | .fp g => m == 0 || cmpMag m q 1 g.emin == .lt

/-- Conversion of one value under a record (R110), with the 24-bit draw for its index. -/
def cvt (x : Num) (f : Fmt) (p : Tpr) (draw : Nat) : Nat × FlagSet :=
  let lim := p.limit f
  match x with
  | .nan sig => match f with
    | .fp g => (g.canon, raiseIf sig Flag.invalid)
    | .int _ => (0, Flag.invalid)
  | .inf neg => match f with
    | .fp g => if g.infs ∧ p.boundMax then (g.infBits neg, 0) else (packFmt f neg lim.1 lim.2, Flag.clamp)
    | .int _ => (packFmt f neg lim.1 lim.2, Flag.clamp)
  | .fin neg m e =>
    let (r, q, _) := roundTo f (if p.stoch then .stoch draw else .rne) m e
    let clamped := cmpMag r q lim.1 lim.2 == .gt
    let (r', q') := if clamped then lim else (r, q)
    let ix := cmpMag r' q' m e != .eq
    (packFmt f neg r' q', cvtFlags ix (smallIn f r' q') clamped)

/-- Stochastic or nearest rounding of a magnitude to an integer. -/
def toInteger (mode : Rounding) (m : Nat) (e : Int) : Nat × Bool := roundAt mode m e 0

/-- The limit L of a record for BFPb (R109): its largest finite value, or the largest value not above BOUND. -/
def Tpr.bfpLimit (p : Tpr) (b : Nat) : Nat × Int :=
  let q := 2 ^ (b - 1) - 1
  if p.boundMax then (q, 128)
  else match readFp Fp.fp32 p.bound with
    | .fin _ m e =>
      let lg := (Nat.log2 m : Int) + e
      let ex := max (lg - ((b : Int) - 2)) (-127)
      let r := (roundAt .rtz m e ex).1
      if r = 0 then (1, -127) else if cmpMag r ex q 128 == .gt then (q, 128) else (min r q, ex)
    | _ => (q, 128)

/-- The values of a block after NaNs, infinities and the clamp (R112). -/
def bfpPrepare (p : Tpr) (lim : Nat × Int) (x : Num) : Num × FlagSet :=
  match x with
  | .nan _ => (.fin false 0 0, Flag.invalid)
  | .inf n => if p.boundMax then (.fin false 0 0, Flag.invalid) else (.fin n lim.1 lim.2, Flag.clamp)
  | .fin n m e => if cmpMag m e lim.1 lim.2 == .gt then (.fin n lim.1 lim.2, Flag.clamp) else (.fin n m e, 0)

/-- The greatest magnitude of a block. -/
def maxMag : List Num → Nat × Int
  | [] => (0, 0)
  | .fin _ m e :: t => let r := maxMag t; if cmpMag m e r.1 r.2 == .gt then (m, e) else r
  | _ :: t => maxMag t

/-- The block exponent of R112 for the greatest magnitude. -/
def bfpExponent (b : Nat) (p : Tpr) (big : Nat × Int) : Int :=
  if p.blockScale then
    if big.1 = 0 then -127
    else
      let c := (Nat.log2 big.1 : Int) + big.2 - ((b : Int) - 2)
      let c' := if (roundAt .rne big.1 (big.2 - c) 0).1 ≤ 2 ^ (b - 1) - 1 then c else c + 1
      min (max c' (-127)) 128
  else (p.fixedExp : Int) - 127

/-- One mantissa of a block (R112): two's complement, and its flags. -/
def bfpMantissa (b : Nat) (p : Tpr) (ex : Int) (draw : Nat) (x : Num) : Int × FlagSet :=
  match x with
  | .fin n m e =>
    let q := 2 ^ (b - 1) - 1
    let (t, _) := toInteger (if p.stoch then .stoch draw else .rne) m (e - ex)
    let clamped := decide (q < t)
    let t' := if clamped then q else t
    let ix := cmpMag t' ex m e != .eq
    (if n then -(t' : Int) else t', raiseIf clamped Flag.clamp ||| raiseIf ix Flag.inexact)
  | _ => (0, 0)

/-- A block of values converted together (R112): biased exponent, mantissas, flags. `draw i` is the draw of element i. -/
def bfpBlock (b : Nat) (p : Tpr) (xs : List Num) (draws : List Nat) : Nat × List Int × FlagSet :=
  let prep := xs.map (bfpPrepare p (p.bfpLimit b))
  let vals := prep.map (·.1)
  let ex := bfpExponent b p (maxMag vals)
  let ms := (vals.zip draws).map fun (x, d) => bfpMantissa b p ex d x
  ((ex + 127).toNat, ms.map (·.1),
    (prep.map (·.2)).foldl (· ||| ·) 0 ||| (ms.map (·.2)).foldl (· ||| ·) 0)

/-- The mantissa string of a block as a number: element i in bits b·i and up (R98). -/
def packMantissas (b : Nat) : List Int → Nat
  | [] => 0
  | m :: ms => wrapInt b m + 2 ^ b * packMantissas b ms

/-- The 1 + 4b bytes of a block (R98). -/
def packBlock (b ex : Nat) (ms : List Int) : List Byte := BitVec.ofNat 8 ex :: toBytes (4 * b) (packMantissas b ms)

/-- Mantissa i of a block's bytes. -/
def blockMantissa (b : Nat) (bs : List Byte) (i : Nat) : Int := sgn b (field (ofBytes (bs.drop 1)) (b * i) b)

/-- Value i of a block's bytes (R98). -/
def blockValue (b : Nat) (bs : List Byte) (i : Nat) : Num :=
  let m := blockMantissa b bs i
  .fin (decide (m < 0)) m.natAbs ((fieldAt bs 0 1 : Int) - 127)

/-- One round of KX-128 on (x0, x1, x2, x3, k0, k1) (R114). -/
def kxRound (x : Nat × Nat × Nat × Nat × Nat × Nat) : Nat × Nat × Nat × Nat × Nat × Nat :=
  let (x0, x1, x2, x3, k0, k1) := x
  let h := 0xD3A91C4B * x0
  let g := 0xC6F15A27 * x2
  (((g / 2 ^ 32) ^^^ x1) ^^^ k0, g % 2 ^ 32, ((h / 2 ^ 32) ^^^ x3) ^^^ k1, h % 2 ^ 32,
    (k0 + 0x8F1BBCDD) % 2 ^ 32, (k1 + 0x6C8E9CF5) % 2 ^ 32)

/-- `k` rounds. -/
def kxRounds : Nat → Nat × Nat × Nat × Nat × Nat × Nat → Nat × Nat × Nat × Nat × Nat × Nat
  | 0, x => x
  | k + 1, x => kxRounds k (kxRound x)

/-- The four 32-bit words of kx128(n, d), x0 first (R114). -/
def kx128 (seed : W64) (task : W32) (n d : Nat) : List Nat :=
  let (x0, x1, x2, x3, _, _) :=
    kxRounds 10 (n % 2 ^ 32, n / 2 ^ 32 % 2 ^ 32, d % 2 ^ 32, task.toNat, seed.toNat % 2 ^ 32, seed.toNat / 2 ^ 32)
  [x0, x1, x2, x3]

/-- The 24-bit draw of stochastic rounding (R110). -/
def kxDraw (seed : W64) (task : W32) (n d : Nat) : Nat := (kx128 seed task n d).headD 0 % 2 ^ 24

/-- The SUM of an AW entry as an integer (R102). -/
def awSum (w : AW) : Int := sgn 112 w.toNat

/-- An AW entry with the given SUM and flags. -/
def awMake (sum : Int) (sticky above : Bool) : AW :=
  BitVec.ofNat 128 (wrapInt 112 sum + (if sticky then 2 ^ 112 else 0) + (if above then 2 ^ 113 else 0))

/-- The integer t of a product m × 2^e aligned to an anchor, and whether bits were lost (R103). -/
def awTerm (m e anchor : Int) : Int × Bool :=
  let (t, ix) := roundAt .rtz m.natAbs (e - anchor) 0
  (if m < 0 then -(t : Int) else t, ix)

/-- aw_add of a term already aligned (R103). -/
def awAddTerm (w : AW) (t : Int) (lost : Bool) : AW :=
  awMake (awSum w + t) (w.getLsbD 112 || lost) (w.getLsbD 113 || decide (2 ^ 95 ≤ t.natAbs))

/-- aw_add (R103). -/
def awAdd (w : AW) (ma ea mb eb anchor : Int) : AW :=
  let (t, lost) := awTerm (ma * mb) (ea + eb) anchor
  awAddTerm w t lost

/-- The entry is out of range at readout (R105). -/
def awOut (w : AW) : Bool :=
  w.getLsbD 113 || !(w.toNat / 2 ^ 95 % 2 ^ 17 == 0 || w.toNat / 2 ^ 95 % 2 ^ 17 == 2 ^ 17 - 1)

/-- The exact value of an entry that is in range, or a NaN (R105), with the flags of reading it. -/
def awValue (w : AW) (anchor : Int) : Num × FlagSet :=
  if awOut w then (.nan false, Flag.overflow)
  else (.fin (decide (awSum w < 0)) (awSum w).natAbs anchor, raiseIf (w.getLsbD 112) Flag.sticky)

/-- aw_read into a format of one value an element (R105). -/
def awRead (w : AW) (anchor : Int) (f : Fmt) (p : Tpr) (draw : Nat) : Nat × FlagSet :=
  if awOut w then
    (match f with
     | .fp g => g.canon
     | .int k => 2 ^ (k - 1), Flag.overflow)
  else
    let (r, fl) := cvt (awValue w anchor).1 f p draw
    (r, fl ||| (awValue w anchor).2)

/-- An XA: its SUM and its four flags (R106). -/
structure Xa where
  sum : Int
  flags : BitVec 4
  deriving DecidableEq, Repr, Inhabited

/-- Reads the 64 bytes of an XA; reserved bits are ignored. -/
def Xa.ofBytes (bs : List Byte) : Xa := ⟨sgn 384 (fieldAt bs 0 48), BitVec.ofNat 4 (fieldAt bs 48 1)⟩

/-- The 64 bytes of an XA, reserved bits zero. -/
def Xa.toBytes (x : Xa) : List Byte :=
  Machine.toBytes 48 (wrapInt 384 x.sum) ++ Machine.toBytes 16 x.flags.toNat

/-- xa_add of a number (R107). -/
def Xa.add (x : Xa) (v : Num) : Xa :=
  match v with
  | .nan sig => { x with flags := x.flags ||| 1#4 ||| (if sig then 8#4 else 0#4) }
  | .inf neg => { x with flags := x.flags ||| (if neg then 4#4 else 2#4) }
  | .fin neg m e =>
    let a : Int := ((roundAt .rtz m e (-160)).1 : Nat)
    { x with sum := sgn 384 (wrapInt 384 (x.sum + (if neg then -a else a))) }

/-- xa_add of another XA (R107). -/
def Xa.merge (x y : Xa) : Xa := ⟨sgn 384 (wrapInt 384 (x.sum + y.sum)), x.flags ||| y.flags⟩

/-- xa_read (R108): the exact value, or the special one, and the flag of its checks. -/
def Xa.value (x : Xa) : Num × FlagSet :=
  let both := x.flags.getLsbD 1 && x.flags.getLsbD 2
  if x.flags.getLsbD 0 || both then (.nan false, raiseIf (x.flags.getLsbD 3 || both) Flag.invalid)
  else if x.flags.getLsbD 1 then (.inf false, 0)
  else if x.flags.getLsbD 2 then (.inf true, 0)
  else (.fin (decide (x.sum < 0)) x.sum.natAbs (-160), 0)

/-- xa_read rounded once into a floating-point format. -/
def Xa.read (x : Xa) (f : Fp) : Nat × FlagSet :=
  let (v, fl) := x.value
  let (r, fl') := ieeeRound f v
  (r, fl ||| fl')

end Sys2Proof.Machine
end

