-- ==== Sys2Proof/Machine/Tasks.lean ====
section
/-! DEFINITION. The dispatch controller's operations (R35 to R45, R234 to R248): checking and enqueueing a task record,
SEED, decrements, staging of leases, ready queues and placement. -/

namespace Sys2Proof.Machine

/-- Bytes of lease i of a record. -/
def leaseBytes (bs : List Byte) (i : Nat) : List Byte := (bs.drop (0x80 + 16 * i)).take 16

/-- A lease entry (R36). -/
def Lease.parse (bs : List Byte) : Lease :=
  let lo := fieldAt bs 0 8
  let hi := fieldAt bs 8 8
  ⟨BitVec.ofNat 64 (field lo 0 57), BitVec.ofNat 2 (field hi 62 2), field hi 44 14, field hi 0 44⟩

/-- A lease entry passes R37. -/
def leaseOk (bs : List Byte) : Bool :=
  let l := Lease.parse bs
  field (fieldAt bs 0 8) 57 7 == 0 && field (fieldAt bs 8 8) 58 4 == 0 && l.mode != 0 && l.length != 0 &&
    (l.mode != 1 || decide (l.sliceOff * 64 + l.length ≤ 0xFFE00))

/-- The check of a record at enqueue (R37). -/
def recordOk (bs : List Byte) : Bool :=
  let gang := fieldAt bs 0x07 1
  let window := fieldAt bs 0x0C 2
  let leases := fieldAt bs 0x0E 1
  decide (1 ≤ gang ∧ gang ≤ 64) && (window == 0 || decide (16 ≤ window ∧ window ≤ 1024)) && decide (leases ≤ 8) &&
    ((List.range leases).all fun i => leaseOk (leaseBytes bs i)) &&
    field (fieldAt bs 0x06 1) 4 4 == 0 && field (fieldAt bs 0x0F 1) 5 2 == 0 && field (fieldAt bs 0x10 8) 57 7 == 0 &&
    allZero bs 0x1C 4 && allZero bs 0x5A 6

/-- A task as its record and the dispatch fields give it (R35). -/
def Task.ofRecord (bs : List Byte) (copy : Nat) (id : W32) (job : W16) (seed : W64) : Task :=
  { copy := copy, record := bs, id := id, job := job, seed := seed
    ctl := BitVec.ofNat 8 (fieldAt bs 0x06 1), gang := fieldAt bs 0x07 1, deps := BitVec.ofNat 32 (fieldAt bs 0x08 4)
    window := if fieldAt bs 0x0C 2 = 0 then 256 else BitVec.ofNat 11 (fieldAt bs 0x0C 2)
    leases := (List.range (min (fieldAt bs 0x0E 1) 8)).map fun i => Lease.parse (leaseBytes bs i)
    affinity := BitVec.ofNat 8 (fieldAt bs 0x0F 1), textBase := wordAt bs 0x10, entry := BitVec.ofNat 32 (fieldAt bs 0x18 4)
    rangePtr := fieldAt bs 0x20 8, args := Vector.ofFn fun i : Fin 4 => wordAt bs (0x30 + 8 * i.val)
    succPtr := fieldAt bs 0x50 8, succCount := fieldAt bs 0x58 2, complPtr := fieldAt bs 0x60 8, complTag := wordAt bs 0x68 }

/-- CTL.PRIO, PREEMPT = DISCARD, PIN (R35). -/
def Task.prio (t : Task) : Nat := field t.ctl.toNat 0 2
/-- CTL.PREEMPT asks for DISCARD. -/
def Task.discards (t : Task) : Bool := t.ctl.getLsbD 2
/-- CTL.PIN. -/
def Task.pinned (t : Task) : Bool := t.ctl.getLsbD 3
/-- The task has a COPY_IN lease. -/
def Task.copiesIn (t : Task) : Bool := t.leases.any fun l => l.mode == 1#2

/-- The cluster that a record's AFFINITY names, when it is enabled, else another (R244). -/
def State.chooseCluster (s : State) (aff : Byte) (other : Nat) : Nat :=
  let c := field aff.toNat 0 5
  if aff.getLsbD 7 && decide (c < s.pkg.clusters.length) then c else if other < s.pkg.clusters.length then other else 0

/-- A record fault of the dispatch controller (R275). -/
def recordFault (sub : Nat) (addr : Nat) (job : W16) (id : W32) (ended : Bool) : FaultRec :=
  { cause := 0xE, sub := sub, source := 0x20, flags := (if ended then 1 else 0) + (if addr = 0 then 0 else 4)
    addr := BitVec.ofNat 64 addr, task := id, job := job }

/-- Enters a task into its ready queue's level at the tail (R244). -/
def State.enterLevel (s : State) (tid level : Nat) : State :=
  { s.modTask tid (fun t => { t with level := level, enteredAt := s.frame, agedAt := s.frame, order := s.orderNext }) with orderNext := s.orderNext + 1 }

/-- Chip-local IA of the controller's copy of the n-th enqueued record: a place of its own in a memory region, of the controller's
choice, apart from those of 2^24 records before and after it (R35, R240; log 26). -/
def copyLocal (n : Nat) : Nat :=
  let x := Config.taskCopyAt n / 3
  match Config.taskCopyAt n % 3 with
  | 0 => 0x10000000000 + x % 192 * 2 ^ 32 + n % 2 ^ 24 * 256
  | 1 => 0x100000000000 + x % 2048 * 2 ^ 32 + n % 2 ^ 24 * 256
  | _ => 0x200000000000 + x % 4096 * 2 ^ 32 + n % 2 ^ 24 * 256

/-- Its IA. -/
def State.copyIA (s : State) (n : Nat) : Nat := 2 ^ 47 * s.chip + copyLocal n

/-- The dispatch controller takes a record (R35, R37, R241): its copy, the check, and the first state. -/
def State.enqueue (s : State) (bs : List Byte) (job : W16) (seed : W64) (other : Nat) (counted : Bool) : State :=
  let j := s.job job
  let id : W32 := BitVec.ofNat 32 (2 ^ 23 * s.chip + j.enqueues % 2 ^ 23)
  let copy := s.copyIA s.taskNext
  let tid := s.taskNext
  let bytes := patch (patch (patch (patch (bs.take 256) 0 (toBytes 4 id.toNat ++ toBytes 2 job.toNat)) 0x28 (wordBytes seed)) 0x70
    (wordBytes s.frame)) 0x78 (toBytes 8 0)
  let t := { Task.ofRecord bytes copy id job seed with
    counted := counted, cluster := s.chooseCluster (BitVec.ofNat 8 (fieldAt bytes 0x0F 1)) other }
  let s := s.modJob job fun j => { j with enqueues := j.enqueues + 1 }
  let s := { s with tasks := Tab.put s.tasks tid t, taskNext := tid + 1 }.writeCopy tid 0 bytes
  if !recordOk bytes then
    let s := (s.setStatus tid .done 1).postRecord (recordFault 1 copy job id true)
    if counted then s.bumpSlot j.track 8 1 else s
  else
    (s.enterLevel tid t.prio).setStatus tid (if t.deps = 0 then .staging else .waiting) 0

/-- A job known to this package (R41, R235). -/
def State.createJob (s : State) (job : W16) (track : Nat) (seed : W64) (errq : Nat) : State :=
  if (s.job job).live then s
  else s.modJob job fun j => { j with live := true, track := track, seed := some seed, errq := errq, enqueues := 0, lastCluster := none }

/-- A write of SEED reaches the controller (R39): tiles' copies follow it, but for a tile's own writes still on their way
(R377). -/
def State.performSeed (s : State) (job : W16) (v : W64) : State :=
  let s := s.modJob job fun j => { j with seed := some v }
  let more := s.toDispatch.any fun m => match m with
    | .seedWrite j _ => j == job
    | _ => false
  if more then s
  else { s with tiles := s.tiles.map fun t => (t.1, { t.2 with seeds := Tab.del t.2.seeds job.toNat }) }

/-- The controller performs the SEED writes that have reached it, in order, before an enqueue that reaches it later (R39). -/
def State.drainSeeds (s : State) : State :=
  let ws := s.toDispatch
  let s := { s with toDispatch := ws.filter fun m => match m with
    | .seedWrite _ _ => false
    | _ => true }
  ws.foldl (fun s m => match m with
    | .seedWrite j v => s.performSeed j v
    | _ => s) s

/-- The task whose copy lies at an IA. -/
def State.taskAt (s : State) (ia : Nat) : Option Nat := (s.tasks.find? fun t => t.2.copy == ia).map (·.1)

/-- A decrement reaches the controller (R242, R420). -/
def State.decrement (s : State) (copy : Nat) (job : W16) : State :=
  match s.taskAt copy with
  | some tid =>
    let t := s.task tid
    if t.job = job ∧ t.state = .waiting then
      let s := s.modTask tid fun t => { t with deps := t.deps - 1 }
      let s := s.writeCopy tid 8 (toBytes 4 (t.deps - 1).toNat)
      if t.deps = 1 then s.setStatus tid .staging 0 else s
    else s.postRecord (recordFault 2 copy job 0 false)
  | none => s.postRecord (recordFault 2 copy job 0 false)

end Sys2Proof.Machine
end

