-- ==== Sys2Proof/Machine/System.lean ====
section
/-! DEFINITION. System words of the S engine (14 to 16): control registers, time, counters, trace marks, and the messages
to the dispatch controller, the engines and the expert predictor. -/

namespace Sys2Proof.Machine

/-- A word whose data or address is time-tainted logs TIMEREAD (R287). -/
def State.noteTaint (s : State) (v : View) : State :=
  if s.cur.anyTaint v then s.logDet s.here 4 false (s.cur.pc v.engine) else s

/-- The IA of an object of n bytes that must lie in the own slice, aligned (R83, R345, R414, R450). -/
def State.ownObject (s : State) (va : W64) (n align : Nat) : Except TrapReq Nat :=
  match s.iaOf .s va n false with
  | none => .error (leaseTrap va)
  | some a =>
    if s.inSlice s.here a && s.inSlice s.here (a + n - 1) && a % align == 0 then
      match s.uncorrectable a n with
      | some u => .error (memTrap u va)
      | none => .ok a
    else .error illegalOperand

/-- R377: reads a control register; the latency is 2. A GETC of FRAME taints. -/
def execGetc (q : BitVec 4) (d : BitVec 5) (imm : BitVec 9) (s : State) : Outcome :=
  s.require .s (ctlAssigned imm.toNat) illegalOperand
    (s.retire (view (.getc q d imm)) false (.s d (s.getCtl s.focus imm.toNat)) none (imm == 0x013#9))

/-- R410, R317: the checks of number, level and value, then the register's effect. -/
def execSetc (q : BitVec 4) (fa : Bool) (a : BitVec 5) (imm : BitVec 9) (s : State) : Outcome :=
  s.require .s (ctlAssigned imm.toNat) illegalOperand
    (s.require .s (s.cur.super || !ctlSuper imm.toNat) illegalPriv
      (match s.setCtl s.focus imm.toNat (s.cur.sreg a) with
       | none => s.trapWord .s illegalOperand
       | some s' => s'.retire (view (.setc q fa a imm)) true .none))

/-- R404: tile cycles since package reset. -/
def execRdcyc (q : BitVec 4) (d : BitVec 5) (s : State) : Outcome :=
  s.retire (view (.rdcyc q d)) true (.s d (s.tileCycles s.here)) none true

/-- R404: FRAME. -/
def execRdfrm (q : BitVec 4) (d : BitVec 5) (s : State) : Outcome :=
  s.retire (view (.rdfrm q d)) true (.s d s.frame) none true

/-- What a MARK record carries (R422): tag, word index and value, laid out in its 16 bytes in a way that is not in the spec (R284). -/
def markPayload (tag : BitVec 9) (word : W32) (x : W64) : List Byte :=
  (List.range 16).map fun i => Config.markByte i tag.toNat word.toNat x.toNat

/-- R422: a MARK trace record, when marks are on and the ring is valid. -/
def execTrmark (q : BitVec 4) (fa : Bool) (a : BitVec 5) (imm : BitVec 9) (s : State) : Outcome :=
  let marked := if (s.tile s.here).traceCtl.getLsbD 1 then
      s.trace s.here 2 (s.focus % 8) (markPayload imm (s.cur.pc .s) (s.cur.sreg a)) else s
  marked.retire (view (.trmark q fa a imm)) true .none

/-- A performance counter (R286): CYCLES counts tile cycles; a number that is not listed reads zero. -/
def State.perfCounter (s : State) (k num : Nat) : W64 := if num = 0 then s.tileCycles k else Tab.get 0 (s.tile k).perf num

/-- R398: reads a performance counter of the own tile; the latency is 2. -/
def execPerfrd (q : BitVec 4) (d : BitVec 5) (imm : BitVec 9) (s : State) : Outcome :=
  s.retire (view (.perfrd q d imm)) false (.s d (s.perfCounter s.here imm.toNat))

/-- R414: the record goes to the own package's controller; a counted task counts it in INJ. -/
def execSpawn (o : RA) (s : State) : Outcome :=
  s.checked .s (s.ownObject (s.cur.sreg o.a) 256 64) fun a =>
    let bs := s.readIA a 256
    let t := s.curTask
    let s := (s.noteRead s.here false (s.cur.pc .s) a 256).drainSeeds
    let s := if t.counted then s.bumpSlot (s.job t.job).track 0 1 else s
    (s.enqueue bs t.job ((s.job t.job).seed.getD t.seed) (s.here / 16) t.counted).retire (view (.spawn o)) true .none

/-- R420: one decrement for the controller that holds the record. -/
def execTdec (o : RA) (s : State) : Outcome :=
  let va := s.cur.sreg o.a
  match s.iaOf .s va 1 true with
  | none => s.trapWord .s (leaseTrap va)
  | some a =>
    s.require .s (a % 64 == 0) (illegalAlign va)
      (let job := s.curTask.job
       let s := if chipOf a = s.chip then { s with toDispatch := s.toDispatch ++ [.decrement a job] }
         else ((s.bumpSlot (s.job job).track 0 1).emit (.decrement (chipOf a) a job true)).noteSent s.originNow (.tdec a)
       s.retire (view (.tdec o)) true .none)

/-- R345: the record, the job and its SEED go to the controller of chip s_b. -/
def execAmsg (o : RAB) (s : State) : Outcome :=
  let chip := (s.cur.sreg o.b).toNat
  s.require .s (decide (chip ≤ 511) && s.inDomain chip) illegalOperand
    (s.checked .s (s.ownObject (s.cur.sreg o.a) 256 64) fun a =>
      let bs := s.readIA a 256
      let t := s.curTask
      let s := (s.noteRead s.here false (s.cur.pc .s) a 256).drainSeeds
      let j := s.job t.job
      let m : TaskMsg :=
        { record := bs, job := t.job, seed := j.seed.getD t.seed, cluster := s.here / 16, fromChip := s.chip, track := j.track
          errq := j.errq, counted := true, succs := none }
      let s := s.bumpSlot j.track 0 1
      let sent : State := if chip = s.chip then { s with toDispatch := s.toDispatch ++ [.amsg m] }
        else (s.emit (.taskMessage chip m)).noteSent s.originNow (.task chip)
      sent.retire (view (.amsg o)) true .none)

/-- The engine that runs a command kind (R86). -/
def kindEngine (kind : Nat) : Option Nat :=
  if 1 ≤ kind ∧ kind ≤ 3 then some 0
  else if kind = 4 ∨ kind = 8 then some 1
  else if kind = 5 then some 2
  else if kind = 7 then some 3
  else if kind = 6 then some 4
  else if kind = 9 then some 5
  else if kind = 0xA then some 6
  else none

/-- The header of a command for an engine satisfies R84 and R86. -/
def headerOk (eng : Nat) (bs : List Byte) : Bool :=
  kindEngine (fieldAt bs 0 1) == some eng && field (fieldAt bs 1 1) 2 6 == 0 && fieldAt bs 3 1 == 0 &&
    (bitAt (fieldAt bs 1 1) 0 || fieldAt bs 0x1C 4 == 0)

/-- The distance of R92 from now to a stamp. -/
def State.stampDistance (s : State) (stamp : Nat) : Nat := (stamp + 2 ^ 32 - wfield s.frame 0 32) % 2 ^ 32

/-- A command accepted into queue `queue` of engine `eng` (R83, R92, R120). -/
def State.acceptCommand (s : State) (eng queue : Nat) (bs : List Byte) : State :=
  let k := s.here
  let i := 4 * eng + queue
  let q := s.tileQcw k i
  let stamp := fieldAt bs 4 4
  let d := s.stampDistance stamp
  let c : Cmd :=
    { seq := (s.tile k).cmdNext, engine := eng, queue := queue, task := s.curTaskNum, rank := s.cur.rank, slot := s.focus % 8
      super := s.cur.super, bytes := bs, ranges := s.cur.ranges, state := .queued
      progress := BitVec.ofNat 64 (fieldAt bs 0x1C 4), extent := [], eligibleAt := none, waits := [], slackZero := false
      missed := stamp != 0 && !decide (1 ≤ d ∧ d ≤ 2 ^ 31 - 1), wordIndex := s.cur.pc .s, born := s.steps }
  let s := (s.poke (localOf (q.slot q.tail)) bs).poke (qcwTable k i + 20) (toBytes 4 ((q.tail + 1) % 2 ^ 32))
  s.modTile k fun t => { t with cmds := t.cmds ++ [c], cmdNext := t.cmdNext + 1 }

/-- S holds at an ECMD whose queue, of index i, is full, for up to 4,096 cycles (R83). -/
def State.ecmdHolds (s : State) (i : Nat) : Outcome :=
  let now := s.tileCycles s.here
  match s.cur.ecmdSince with
  | none => .next (s.modCur fun t => { t with ecmdSince := some now, ecmdQueue := i })
  | some since => if 4096 ≤ (now - since).toNat then s.trapWord .s { cause := 2, sub := 3 } else .next s

/-- R365, R83: the record's copy goes into a command queue of an engine. -/
def execEcmd (q : BitVec 4) (eng : BitVec 4) (fa : Bool) (a : BitVec 5) (queue : BitVec 2) (s : State) : Outcome :=
  let v := view (.ecmd q eng fa a queue)
  let qw := s.tileQcw s.here (4 * eng.toNat + queue.toNat)
  s.require .s (decide (eng.toNat < 7) && qw.valid) illegalOperand
    (s.checked .s (s.ownObject (s.cur.sreg a) 128 128) fun ia =>
      let bs := s.readIA ia 128
      s.require .s (s.cur.super || fieldAt bs 0 1 != 0xA) illegalPriv
        (s.require .s (headerOk eng.toNat bs) illegalOperand
          (if qw.occupancy = qw.depth then s.ecmdHolds (4 * eng.toNat + queue.toNat)
           else
             let s := (s.noteRead s.here false (s.cur.pc .s) ia 128).noteTaint v
             (s.acceptCommand eng.toNat queue.toNat bs).retire v true .none)))

/-- The pairs of a hint block (R450). -/
def hintPairs (bs : List Byte) : Nat → List (Nat × Nat)
  | 0 => []
  | n + 1 => (fieldAt bs 0 2, fieldAt bs 4 4) :: hintPairs (bs.drop 8) n

/-- R450: a hint for the expert predictor; with TOPN 0 it is discarded. -/
def execXpf (o : RAB) (s : State) : Outcome :=
  let layer := s.cur.sreg o.b
  let va := s.cur.sreg o.a
  s.require .s (wfield layer 16 48 == 0) illegalOperand
    (s.checked .s (s.ownObject va 8 8) fun a =>
      let count := s.readNum a 2
      s.require .s (decide (count ≤ 256) && s.readNum (a + 2) 6 == 0) illegalOperand
        (s.checked .s (s.ownObject va (8 + 8 * count) 8) fun a =>
          let bs := s.readIA (a + 8) (8 * count)
          s.require .s ((List.range count).all fun e => fieldAt bs (8 * e + 2) 2 == 0) illegalOperand
            (let s := s.noteRead s.here false (s.cur.pc .s) a (8 + 8 * count)
             let topn := field (s.readNum 0x180002008 8) 12 8
             let s := if topn = 0 then s
               else s.modPkg fun p => { p with hints := p.hints ++ [(wfield layer 0 16, hintPairs bs count)] }
             s.retire (view (.xpf o)) true .none)))

end Sys2Proof.Machine
end

