-- ==== Sys2Proof/Machine/Loads.lean ====
section
/-! DEFINITION. Words of the L engine (R313; 15): local and global loads, futures, pips, ring waits, and the L halves of
FENCE and MARK. A local load reads memory when it issues; a departing word's request leaves when its departure commits. -/

namespace Sys2Proof.Machine

/-- The first uncorrectable unit under a list of elements read here (R147). -/
def State.firstUncorrectable (s : State) : List Elem → Option TrapReq
  | [] => none
  | x :: xs => match s.uncorrectable x.ia x.n with
    | some u => some (memTrap u x.va)
    | none => s.firstUncorrectable xs

/-- Logs PENDING_READ for every element that has a pending shadow (R162). -/
def State.noteReads (s : State) (e : Engine) (xs : List Elem) : State :=
  xs.foldl (fun s x => s.noteRead s.here false (s.cur.pc e) x.ia x.n) s

/-- A wait word whose test holds: BACKOFF returns to 0 (R58). -/
def State.testHeld (s : State) : State := s.modCur fun t => { t with backoff := 0, polled := false }

/-- The single accesses of an element, IA and length: one when it is aligned, else one for each byte (R151, R371; log 65). -/
def Elem.parts (x : Elem) : List (Nat × Nat) :=
  if x.va.toNat % x.n = 0 then [(x.ia, x.n)] else (List.range x.n).map fun i => (x.ia + i, 1)

/-- Bytes that stand one after another, element by element, by the elements' lengths. -/
def splitSizes : List Nat → List Byte → List (List Byte)
  | [], _ => []
  | n :: ns, bs => bs.take n :: splitSizes ns (bs.drop n)

/-- The accesses of a load in part that are left, as elements of their own. -/
def State.loadLeft (s : State) : List Elem := s.cur.leftL.map fun p => ⟨p.1, p.2.1, p.2.2⟩

/-- The rest of a local load that has been issued: its addresses are those at its issue (R79, R151). -/
def State.loadRest (s : State) (i : Instr) (els : List (W64 × Nat)) (result : List (List Byte) → Dest) : Outcome :=
  let left := s.loadLeft
  match s.firstUncorrectable left with
  | some r => s.trapWord .l r
  | none => (s.noteReads .l left).retire (view i) false
      (result (splitSizes (els.map (·.2)) (s.cur.partL.flatten ++ left.flatMap fun x => s.readIA x.ia x.n)))

/-- A local load (R370, R384): the checks, the bytes of each element, and the result on its way to the register. -/
def State.loadLocal (s : State) (i : Instr) (els : List (W64 × Nat)) (result : List (List Byte) → Dest) : Outcome :=
  if !s.cur.partL.isEmpty then s.loadRest i els result
  else s.checked .l (s.checkMem .l true false els) fun xs =>
    match s.firstUncorrectable xs with
    | some r => s.trapWord .l r
    | none => (s.noteReads .l xs).retire (view i) false (result (xs.map fun x => s.readIA x.ia x.n))

/-- The next access of a load, when it is not the last (R151). -/
def State.loadNext (s : State) (i : Instr) : List (W64 × Nat × Nat) → State
  | p :: q :: rest =>
    (s.noteRead s.here false (s.cur.pc .l) p.2.1 p.2.2).modCur fun t =>
      { t with begunL := some i, partL := t.partL ++ [s.readIA p.2.1 p.2.2], leftL := q :: rest }
  | _ => s

/-- One more access of a local load, when it is not the last (R151, R371). The first comes after the checks of the word (R370). -/
def State.loadPart (s : State) (i : Instr) (els : List (W64 × Nat)) : State :=
  if !s.cur.partL.isEmpty then (if (s.firstUncorrectable s.loadLeft).isSome then s else s.loadNext i s.cur.leftL)
  else match s.checkMem .l true false els with
    | .error _ => s
    | .ok xs => if (s.firstUncorrectable xs).isSome then s
        else s.loadNext i (xs.flatMap fun x => x.parts.map fun p => (x.va, p.1, p.2))

/-- Lane addresses: the lane's number and its element's VA. -/
def laneAddrs (f : Nat → W64) : List (W64 × Nat) := (List.range 64).map fun l => (f l, 4)

/-- A vector whose lane l holds element l. -/
def lanesFrom (bs : List (List Byte)) : VReg := Vector.ofFn fun l : Fin 64 => BitVec.ofNat 32 (ofBytes (bs.getD l.val []))

/-- A scalar from the bytes of one element, zero-extended (R371). -/
def scalarFrom (bs : List (List Byte)) : W64 := BitVec.ofNat 64 (ofBytes (bs.headD []))

/-- The address of lane l with a signed stride (R384, R415). -/
def strideAddr (base stride : W64) (l : Nat) : W64 := base + BitVec.ofNat 64 l * stride

/-- The address of a lane with an index vector and a scale (R384, R380). -/
def indexAddr (base : W64) (idx : VReg) (scale : Nat) (l : Nat) : W64 :=
  base + BitVec.ofNat 64 ((idx.toList.getD l 0).toNat * scale)

/-- R384: scalar load of the own slice. -/
def execLd (o : RIS) (s : State) : Outcome :=
  let n := sizeBytes o.size
  s.loadLocal (.ld o) [(s.cur.sreg o.a + offset9 o.imm n, n)] fun bs => .s o.d (scalarFrom bs)

/-- R384: 256 bytes of the own slice, lane 0 first. -/
def execLdv (o : RI) (s : State) : Outcome :=
  let base := s.cur.sreg o.a + offset9 o.imm 256
  s.loadLocal (.ldv o) (laneAddrs fun l => base + BitVec.ofNat 64 (4 * l)) fun bs => .v o.d (lanesFrom bs)

/-- R384: strided lanes. -/
def execLdvs (o : RRR) (s : State) : Outcome :=
  s.loadLocal (.ldvs o) (laneAddrs (strideAddr (s.cur.sreg o.a) (s.cur.sreg o.b))) fun bs => .v o.d (lanesFrom bs)

/-- R384: indexed lanes; a scale above 4 is a reserved fn value. -/
def execLdvx (o : RRF) (s : State) : Outcome :=
  s.require .l (decide (o.fn.toNat ≤ 2)) illegalOp
    (s.loadLocal (.ldvx o) (laneAddrs (indexAddr (s.cur.sreg o.a) (s.cur.vreg o.b) (2 ^ o.fn.toNat))) fun bs => .v o.d (lanesFrom bs))

/-- R379: scalar load that always departs; its request leaves at the commit. -/
def execGld (o : RIS) (s : State) : Outcome :=
  let n := sizeBytes o.size
  s.checked .l (s.checkMem .l false false [(s.cur.sreg o.a + offset9 o.imm n, n)]) fun xs =>
    match xs with
    | x :: _ => s.depart (view (.gld o)) 1 (BitVec.ofNat 64 x.ia) true 1 [(x.ia, .load x.ia n none)] (some (.s o.d)) [(0, x.va)]
    | [] => .next s

/-- The active lanes of a predicate, lowest first. -/
def activeLanes (p : W64) : List Nat := (List.range 64).filter fun l => p.getLsbD l

/-- R380: gather of the active lanes; with none it retires and v_d stands. -/
def execGldv (o : RRF) (s : State) : Outcome :=
  let ls := activeLanes (s.cur.preg o.fn)
  s.checked .l (s.checkMem .l false false (ls.map fun l => (indexAddr (s.cur.sreg o.a) (s.cur.vreg o.b) 4 l, 4))) fun xs =>
    match xs with
    | [] => s.retire (view (.gldv o)) true .none
    | x :: _ =>
      s.depart (view (.gldv o)) 1 (BitVec.ofNat 64 x.ia) true ls.length
        ((ls.zip xs).map fun (l, x) => (x.ia, .load x.ia 4 (some l))) (some (.v o.d)) ((ls.zip xs).map fun (l, x) => (l, x.va))

/-- R378: a full future gives its value; an empty one departs, and one elsewhere always. -/
def execGetf (o : RDA) (s : State) : Outcome :=
  let va := s.cur.sreg o.a
  s.require .l (decide (va.toNat % 16 = 0)) (illegalAlign va)
    (s.checked .l (s.checkMem .l false false [(va, 16)]) fun xs =>
      match xs with
      | [] => .next s
      | x :: _ =>
        if s.inSlice s.here x.ia then
          match s.uncorrectable x.ia 16 with
          | some u => s.trapWord .l (memTrap u va)
          | none =>
            let s := s.noteReads .l xs
            if s.readNum (x.ia + 8) 8 = 0 then
              s.depart (view (.getf o)) 4 (BitVec.ofNat 64 x.ia) false 1 [] (some (.s o.d))
            else
              let s' := if s.cur.polled then s.logDet s.here 6 false (s.cur.pc .l) else s
              s'.testHeld.retire (view (.getf o)) false (.s o.d (BitVec.ofNat 64 (s.readNum x.ia 8)))
        else s.depart (view (.getf o)) 4 (BitVec.ofNat 64 x.ia) false 1 [(x.ia, .wait x.ia .future)] (some (.s o.d)) [(0, va)])

/-- The IA lies in the flag window of a slice (R373). -/
def State.inFlagWindow (s : State) (ia : Nat) : Bool :=
  s.regionOf ia == some .slice && decide (0xFFE00 ≤ localOf ia % 0x100000)

/-- The checks of a pip's address (R373): aligned to 8, translated, in a flag window. -/
def State.pipAt (s : State) (e : Engine) (va : W64) (write : Bool) : Except TrapReq Nat :=
  if va.toNat % 8 ≠ 0 then .error (illegalAlign va)
  else match s.iaOf e va 8 write with
    | none => .error (leaseTrap va)
    | some a => if s.inFlagWindow a then .ok a else .error illegalOperand

/-- R374: reads a pip; one of another tile departs. -/
def execFlrd (o : RDA) (s : State) : Outcome :=
  s.checked .l (s.pipAt .l (s.cur.sreg o.a) false) fun a =>
    if s.inSlice s.here a then
      match s.uncorrectable a 8 with
      | some u => s.trapWord .l (memTrap u (s.cur.sreg o.a))
      | none => s.retire (view (.flrd o)) false (.s o.d (BitVec.ofNat 64 (s.readNum a 8)))
    else s.depart (view (.flrd o)) 1 (BitVec.ofNat 64 a) true 1 [(a, .load a 8 none)] (some (.s o.d)) [(0, s.cur.sreg o.a)]

/-- The ring that a VA names, of the own slice (R400, R407); an uncorrectable unit of its QCW traps (R147). -/
def State.ringFor (s : State) (e : Engine) (va : W64) (write : Bool) : Except TrapReq (Nat × Qcw) :=
  match s.iaOf e va 32 write with
  | none => .error (leaseTrap va)
  | some a => match s.uncorrectable a 32, s.ringAt s.here a with
    | some u, _ => .error (memTrap u va)
    | none, some q => .ok (a, q)
    | none, none => .error illegalOperand

/-- R407: proceeds when the slot is filled, else departs keyed to the write pointer. -/
def execRngwait (o : RAB) (s : State) : Outcome :=
  s.checked .l (s.ringFor .l (s.cur.sreg o.a) false) fun (a, q) =>
    let d := ((s.cur.sreg o.b).toNat + 2 ^ 32 - q.head) % 2 ^ 32
    s.require .l (decide (d < q.depth)) illegalOperand
      (let s := s.openRing s.here a s.curTaskNum
       if d < q.occupancy then s.testHeld.retire (view (.rngwait o)) true .none
       else s.depart (view (.rngwait o)) 8 (BitVec.ofNat 64 (a + 20)) false)

/-- The order field of a FENCE is one of R308. -/
def fenceOrderOk (ord : BitVec 2) : Bool := ord != 0#2

/-- R372: the L half. Loads are performed when they issue, so it completes where it is reached; a full fence holds L until
the W half has completed. -/
def execFenceL (q : BitVec 4) (ord scope : BitVec 2) (s : State) : Outcome :=
  s.require .l (fenceOrderOk ord) illegalOperand
    (let s := s.modCur fun t => t.countHalf 2 .l
     if ord = 3#2 ∧ s.cur.halves[3] < s.cur.halves[2] then .next s
     else s.retire (view (.fenceL q ord scope)) true .none)

/-- R389, R155: the L half holds until the W half of the same count is reached, and earlier own-slice writes are performed. -/
def execMarkL (q : BitVec 4) (s : State) : Outcome :=
  let s := s.modCur fun t => t.countHalf 0 .l
  if s.cur.halves[1] < s.cur.halves[0] ∨ s.ownHeld s.curTaskNum s.cur.rank s.here then .next s else s.retire (view (.markL q)) true .none

end Sys2Proof.Machine
end

