-- ==== Sys2Proof/Machine/Stores.lean ====
section
/-! DEFINITION. Words of the W engine that are not atomics on memory (R314; 15): local and global stores, futures, pips, ring
release and publication, and the W halves of FENCE and MARK. -/

namespace Sys2Proof.Machine

/-- A posted write of the strand in focus leaves W (R64, R152). Behind a release form that is held, and for a release form
itself while earlier writes are not performed, it stays in the tile's outbound order (R159, R401). -/
def State.post (s : State) (ia : Nat) (b : MsgBody) (release : Bool) : State :=
  let held := s.releaseHeld s.curTaskNum s.cur.rank || (release && (s.outstanding s.curTaskNum s.cur.rank || s.cur.loadsTrail))
  s.send (if held then s.chip else chipOf ia) s.originNow b

/-- A store of the strand in focus (R64, R381, R415): performed at once in the own slice, else posted. -/
def State.storeOut (s : State) (ia : Nat) (bs : List Byte) : State :=
  if s.inSlice s.here ia then (s.perform ia bs).closeCleared s.here s.curTaskNum (localOf ia) bs.length
  else s.post ia (.store ia bs) false

/-- The first own-slice element whose write an uncorrectable unit keeps from being performed (R147; log 25). -/
def State.firstBlocked (s : State) : List Elem → Option TrapReq
  | [] => none
  | x :: xs => match if s.inSlice s.here x.ia then s.blockedUnit x.ia x.n false else none with
    | some u => some (memTrap u x.va)
    | none => s.firstBlocked xs

/-- The single accesses of an element of a store: one when it is aligned or leaves the tile, whose home performs the bytes of a
misaligned one, else one for each byte (R151, R371). -/
def State.storeParts (s : State) (x : Elem) (bs : List Byte) : List (Nat × List Byte) :=
  if x.va.toNat % x.n = 0 ∨ !s.inSlice s.here x.ia then [(x.ia, bs)] else bs.zipIdx.map fun b => (x.ia + b.2, [b.1])

/-- A store word: the checks of R370 over all elements, then the elements in lane order (R371). Of one that has been issued the accesses
that are left follow, with the addresses and values of its issue (R79, R151). -/
def State.storeWord (s : State) (i : Instr) (local_ : Bool) (els : List (W64 × List Byte)) : Outcome :=
  if s.cur.partW ≠ 0 then (s.cur.leftW.foldl (fun s x => s.storeOut x.1 x.2) s).retire (view i) true .none
  else s.checked .w (s.checkMem .w local_ true (els.map fun x => (x.1, x.2.length))) fun xs =>
    match s.firstBlocked xs with
    | some r => s.trapWord .w r
    | none => (((els.zip xs).map fun x => (x.2.ia, x.1.2)).foldl (fun s x => s.storeOut x.1 x.2) (s.noteTaint (view i))).retire (view i) true .none

/-- The next access of a store, when it is not the last (R151). -/
def State.storeNext (s : State) (i : Instr) : List (Nat × List Byte) → State
  | p :: q :: rest => (s.storeOut p.1 p.2).modCur fun t => { t with begunW := some i, partW := t.partW + 1, leftW := q :: rest }
  | _ => s

/-- One more access of a store, when it is not the last (R151, R371). The first comes after the checks of the word (R370). -/
def State.storePart (s : State) (i : Instr) (local_ : Bool) (els : List (W64 × List Byte)) : State :=
  if s.cur.partW ≠ 0 then s.storeNext i s.cur.leftW
  else match s.checkMem .w local_ true (els.map fun x => (x.1, x.2.length)) with
    | .error _ => s
    | .ok xs => if (s.firstBlocked xs).isSome then s
        else
          let parts := (els.zip xs).flatMap fun x => s.storeParts x.2 x.1.2
          if parts.length < 2 then s else (s.noteTaint (view i)).storeNext i parts

/-- The bytes of lane l of a vector. -/
def laneOf (v : VReg) (l : Nat) : List Byte := toBytes 4 (v.toList.getD l 0).toNat

/-- R415: scalar store to the own slice. -/
def execSt (o : RRS) (s : State) : Outcome :=
  let n := sizeBytes o.size
  s.storeWord (.st o) true [(s.cur.sreg o.a + offset5 o.d n, toBytes n (s.cur.sreg o.b).toNat)]

/-- R415: 256 bytes, lane 0 first. -/
def execStv (o : RRR) (s : State) : Outcome :=
  let base := s.cur.sreg o.a + offset5 o.d 256
  s.storeWord (.stv o) true ((List.range 64).map fun l => (base + BitVec.ofNat 64 (4 * l), laneOf (s.cur.vreg o.b) l))

/-- R415: strided lanes, the stride in s_d. -/
def execStvs (o : RRR) (s : State) : Outcome :=
  s.storeWord (.stvs o) true
    ((List.range 64).map fun l => (strideAddr (s.cur.sreg o.a) (s.cur.sreg o.d) l, laneOf (s.cur.vreg o.b) l))

/-- R415: indexed lanes, the indexes in v_d; a scale above 4 is a reserved fn value. -/
def execStvx (o : RRF) (s : State) : Outcome :=
  s.require .w (decide (o.fn.toNat ≤ 2)) illegalOp
    (s.storeWord (.stvx o) true ((List.range 64).map fun l =>
      (indexAddr (s.cur.sreg o.a) (s.cur.vreg o.d) (2 ^ o.fn.toNat) l, laneOf (s.cur.vreg o.b) l)))

/-- R381: scalar store to any address. -/
def execGst (o : RRS) (s : State) : Outcome :=
  let n := sizeBytes o.size
  s.storeWord (.gst o) false [(s.cur.sreg o.a + offset5 o.d n, toBytes n (s.cur.sreg o.b).toNat)]

/-- R382: scatter of the active lanes. -/
def execGstv (o : RRF) (s : State) : Outcome :=
  s.storeWord (.gstv o) false ((activeLanes (s.cur.preg o.fn)).map fun l =>
    (indexAddr (s.cur.sreg o.a) (s.cur.vreg o.d) 4 l, laneOf (s.cur.vreg o.b) l))

/-- The 16 bytes of a filled future (R378, R401). -/
def futureBytes (v : W64) : List Byte := wordBytes v ++ toBytes 8 1

/-- R401: fills a future as a release at DOMAIN scope; W does not hold for what comes before it. -/
def execPutf (o : RAB) (s : State) : Outcome :=
  let va := s.cur.sreg o.a
  let v := s.cur.sreg o.b
  s.require .w (decide (va.toNat % 16 = 0)) (illegalAlign va)
    (s.checked .w (s.checkMem .w false true [(va, 16)]) fun xs =>
      match xs, s.firstBlocked xs with
      | [], _ => .next s
      | _, some r => s.trapWord .w r
      | x :: _, none =>
        let s := s.noteTaint (view (.putf o))
        let now := s.inSlice s.here x.ia && !s.outstanding s.curTaskNum s.cur.rank && !s.cur.loadsTrail
        let s := if now then s.perform x.ia (futureBytes v) else s.post x.ia (.putf x.ia v (s.cur.walk .w)) true
        s.retire (view (.putf o)) true .none)

/-- An increment of a pip performed at its home (R373), with who made it (R284). -/
def State.addPip (s : State) (ia : Nat) (v : W64) (who : Nat × Nat × Nat × Nat) : State :=
  let old := BitVec.ofNat 64 (s.readNum ia 8)
  let a := localOf ia
  (s.modTile (a / 0x100000) fun t => { t with setters := Tab.put t.setters (a % 0x200 / 8) who }).perform ia (wordBytes (old + v))

/-- The order field of FLADD (0 or 2) or FLWAIT (0 or 1) is one of R308. -/
def flagOrderOk (ord scope : BitVec 2) (suffix : BitVec 2) : Bool := ord == suffix || (ord == 0#2 && scope == 0#2)

/-- R373: adds to a pip, as a release where it says so; of a release form W does not hold for what comes before it. -/
def execFladd (o : ROrd) (s : State) : Outcome :=
  s.require .w (flagOrderOk o.ord o.scope 2#2) illegalOperand
    (s.checked .w (s.pipAt .w (s.cur.sreg o.a) true) fun a =>
      let v := s.cur.sreg o.b
      let release := o.ord == 2#2 && o.scope != 0#2
      match if s.inSlice s.here a then s.uncorrectable a 8 else none with
      | some u => s.trapWord .w (memTrap u (s.cur.sreg o.a))
      | none =>
        let s := s.noteTaint (view (.fladd o))
        let now := s.inSlice s.here a && !(release && s.outstanding s.curTaskNum s.cur.rank) && !(o.ord == 2#2 && s.cur.loadsTrail)
        let held := release || (o.ord == 2#2 && s.cur.loadsTrail)
        let s := if now then s.addPip a v (s.here, s.chip, 0, s.focus % 8)
          else s.post a (.fladd a v (if held then some (s.cur.walk .w) else none)) held
        s.retire (view (.fladd o)) true .none)

/-- The payload of a WAIT trace record (R284). -/
def waitPayload (pip waiter : Nat) (who : Nat × Nat × Nat × Nat) (waited id : Nat) : List Byte :=
  toBytes 1 pip ++ toBytes 1 waiter ++ toBytes 2 who.1 ++ toBytes 2 who.2.1 ++ toBytes 1 who.2.2.1 ++ toBytes 1 who.2.2.2 ++
    toBytes 4 (min waited (2 ^ 32 - 1)) ++ toBytes 4 id

/-- A flag wait that has waited since a cycle of tile k ends with a WAIT record, which names who satisfied it (R284). -/
def State.traceWaited (s : State) (k slot pip : Nat) (who : Nat × Nat × Nat × Nat) (since : W64) (id : W32) : State :=
  let waited := s.tileCycles k - since
  if waited = 0 then s else s.trace k 1 slot (waitPayload pip slot who waited.toNat id.toNat)

/-- The same for a pip of the tile itself. -/
def State.traceWait (s : State) (k slot pip : Nat) (since : W64) (id : W32) : State :=
  s.traceWaited k slot pip (Tab.get (0, 0, 3, 0) (s.tile k).setters pip) since id

/-- R375: a passing test of an own pip retires, with its subtraction; a failing one, and one of another tile, departs. -/
def execFlwait (o : ROrd) (sub : Bool) (s : State) : Outcome :=
  let v := view (.flwait o sub)
  s.require .w (flagOrderOk o.ord o.scope 1#2) illegalOperand
    (s.checked .w (s.pipAt .w (s.cur.sreg o.a) sub) fun a =>
      let th := s.cur.sreg o.b
      let pip := localOf a % 0x200 / 8
      let waiting := s.modCur fun t =>
        { t with flagWaitSince := if t.flagWaitSince.isSome then t.flagWaitSince else some (s.tileCycles s.here, pip) }
      if s.inSlice s.here a then
        match s.uncorrectable a 8 with
        | some u => s.trapWord .w (memTrap u (s.cur.sreg o.a))
        | none =>
          let f := BitVec.ofNat 64 (s.readNum a 8)
          if th ≤ f then
            let s := if sub then s.perform a (wordBytes (f - th)) else s
            let s := match s.cur.flagWaitSince with
              | some (since, _) => s.traceWait s.here (s.focus % 8) pip since (s.cur.pc .w)
              | none => s
            (s.testHeld.modCur fun t => { t with flagWaitSince := none }).retire v true .none
          else waiting.depart v 5 (BitVec.ofNat 64 a) false
      else s.depart v 5 (BitVec.ofNat 64 a) false 1 [(a, .wait a (.pip th sub))] none [(0, s.cur.sreg o.a)])

/-- R407: releases the slot at HEAD. -/
def execRngrel (o : RA) (s : State) : Outcome :=
  s.checked .w (s.ringFor .w (s.cur.sreg o.a) true) fun (a, q) =>
    s.require .w (q.tail != q.head) illegalOperand
      (((s.openRing s.here a s.curTaskNum).perform (a + 16) (toBytes 4 ((q.head + 1) % 2 ^ 32))).retire
        (view (.rngrel o)) true .none)

/-- R400: advances TAIL of an open ring over filled slots. -/
def execPub (o : RAB) (s : State) : Outcome :=
  s.checked .w (s.ringFor .w (s.cur.sreg o.a) true) fun (a, q) =>
    let n := (s.cur.sreg o.b).toNat
    s.require .w (s.ringOpen s.here a && decide (n ≤ q.depth - q.occupancy)) illegalOperand
      (let s := if n = 0 then s else s.perform (a + 20) (toBytes 4 ((q.tail + n) % 2 ^ 32))
       s.retire (view (.pub o)) true .none)

/-- R372, R157: the W half completes when its partner has, and, of .rel and .full, earlier stores are performed at the scope; at a wider
scope it departs while a posted one is not, once its partner is reached. -/
def execFenceW (q : BitVec 4) (ord scope : BitVec 2) (s : State) : Outcome :=
  let v := view (.fenceW q ord scope)
  s.require .w (fenceOrderOk ord) illegalOperand
    (if s.cur.halves[2] < s.cur.halves[3] + 1 then .next s
     else if scope ≠ 0#2 ∧ s.outstanding s.curTaskNum s.cur.rank then s.depart v 3 (scope.setWidth 64) true
     else if ord ≠ 1#2 ∧ s.ownHeld s.curTaskNum s.cur.rank s.here then .next s
     else (s.modCur fun t => t.countHalf 3 .w).retire v true .none)

/-- R389, R155: the W half holds until the L half of the same count is reached, and earlier own stores are performed. -/
def execMarkW (q : BitVec 4) (s : State) : Outcome :=
  let s := s.modCur fun t => t.countHalf 1 .w
  if s.cur.halves[0] < s.cur.halves[1] ∨ s.ownHeld s.curTaskNum s.cur.rank s.here then .next s
  else s.retire (view (.markW q)) true .none

/-- One more access of a word that is no single access: a local load, or a store (R151). Its last access goes with the word's
retirement. -/
def partRun (i : Instr) (s : State) : Outcome :=
  let t := s.cur
  let lanes (f : Nat → W64) (b : BitVec 5) : List (W64 × List Byte) := (List.range 64).map fun l => (f l, laneOf (t.vreg b) l)
  .next (match i with
  | .ld o => s.loadPart i [(t.sreg o.a + offset9 o.imm (sizeBytes o.size), sizeBytes o.size)]
  | .ldv o => s.loadPart i (laneAddrs fun l => t.sreg o.a + offset9 o.imm 256 + BitVec.ofNat 64 (4 * l))
  | .ldvs o => s.loadPart i (laneAddrs (strideAddr (t.sreg o.a) (t.sreg o.b)))
  | .ldvx o => if o.fn.toNat ≤ 2 then s.loadPart i (laneAddrs (indexAddr (t.sreg o.a) (t.vreg o.b) (2 ^ o.fn.toNat))) else s
  | .st o => s.storePart i true [(t.sreg o.a + offset5 o.d (sizeBytes o.size), toBytes (sizeBytes o.size) (t.sreg o.b).toNat)]
  | .stv o => s.storePart i true (lanes (fun l => t.sreg o.a + offset5 o.d 256 + BitVec.ofNat 64 (4 * l)) o.b)
  | .stvs o => s.storePart i true (lanes (strideAddr (t.sreg o.a) (t.sreg o.d)) o.b)
  | .stvx o => if o.fn.toNat ≤ 2 then s.storePart i true (lanes (indexAddr (t.sreg o.a) (t.vreg o.d) (2 ^ o.fn.toNat)) o.b) else s
  | .gst o => s.storePart i false [(t.sreg o.a + offset5 o.d (sizeBytes o.size), toBytes (sizeBytes o.size) (t.sreg o.b).toNat)]
  | .gstv o => s.storePart i false ((activeLanes (t.preg o.fn)).map fun l =>
      (indexAddr (t.sreg o.a) (t.vreg o.d) 4 l, laneOf (t.vreg o.b) l))
  | _ => s)

end Sys2Proof.Machine
end

