-- ==== Sys2Proof/Machine/Atomics.lean ====
section
/-! DEFINITION. Memory atomics (R340 to R344): what each operation writes and returns, the checks of R342, the 25 forms of
AMO and the exact add into an XA. -/

namespace Sys2Proof.Machine

/-- What an atomic writes on n bytes from old value, value and compare value, or nothing, and its flags (R341). -/
def amoNew (op : AmoOp) (n old v c : Nat) : Option Nat × FlagSet :=
  let w := 8 * n
  match op with
  | .add => (some ((old + v) % 2 ^ w), 0)
  | .and => (some (old &&& v), 0)
  | .or => (some (old ||| v), 0)
  | .xor => (some (old ^^^ v), 0)
  | .min => (some (if sgn w old ≤ sgn w v then old else v), 0)
  | .max => (some (if sgn w old ≤ sgn w v then v else old), 0)
  | .minu => (some (min old v), 0)
  | .maxu => (some (max old v), 0)
  | .swap => (some v, 0)
  | .cas => (if old = c then some v else none, 0)
  | .fmin => let (r, f) := fpMinMax Fp.fp32 false old v; (some r, f)
  | .fmax => let (r, f) := fpMinMax Fp.fp32 true old v; (some r, f)
  | .fadd => let (r, f) := fpAdd Fp.fp32 old v; (some r, f)

/-- What a returning atomic writes to s_d from the old value: ADD, MIN and MAX sign-extend (R341). -/
def amoReturn (op : AmoOp) (n old : Nat) : W64 :=
  match op with
  | .add => BitVec.ofInt 64 (sgn (8 * n) old)
  | .min => BitVec.ofInt 64 (sgn (8 * n) old)
  | .max => BitVec.ofInt 64 (sgn (8 * n) old)
  | _ => BitVec.ofNat 64 old

/-- An atomic performed at its home (R341): the state, the old value and the flags. -/
def State.amoPerform (s : State) (op : AmoOp) (n ia : Nat) (v c : W64) : State × Nat × FlagSet :=
  let old := s.readNum ia n
  let (new, f) := amoNew op n old (wfield v 0 (8 * n)) (wfield c 0 (8 * n))
  match new with
  | some x => (s.store ia (toBytes n x), old, f)
  | none => (s, old, f)

/-- Alignment and the checks of R342, steps 1 to 5. -/
def State.checkAmo (s : State) (va : W64) (n : Nat) : Except TrapReq Nat :=
  if va.toNat % n ≠ 0 then .error (illegalAlign va)
  else match s.checkMem .w false true [(va, n)] with
    | .error r => .error r
    | .ok xs => match xs with
      | x :: _ =>
        if s.inSlice s.here x.ia then
          match s.uncorrectable x.ia n with
          | some u => .error (memTrap u va)
          | none => .ok x.ia
        else .ok x.ia
      | [] => .error illegalOperand

/-- FADD is logged as an operation whose result depends on order (R117, R287). -/
def State.noteFadd (s : State) (op : AmoOp) : State :=
  match op with
  | .fadd => s.logDet s.here 1 false (s.cur.pc .w)
  | _ => s

/-- A returning atomic (R341, R342 steps 6 and 7). -/
def State.amoWord (s : State) (i : Instr) (op : AmoOp) (n : Nat) (d a b : BitVec 5) : Outcome :=
  let v := view i
  s.checked .w (s.checkAmo (s.cur.sreg a) n) fun ia =>
    let x := s.cur.sreg b
    let c := s.cur.sreg d
    let s := s.noteTaint v
    if s.inSlice s.here ia then
      let (s, old, f) := ((s.noteFadd op).noteRead s.here false (s.cur.pc .w) ia n).amoPerform op n ia x c
      (s.setFlags s.here f).retire v false (.s d (amoReturn op n old))
    else s.depart v 2 (BitVec.ofNat 64 ia) true 1 [(ia, .amo op n ia x c true)] (some (.s d)) [(0, s.cur.sreg a)]

/-- A non-returning atomic (R341, R342 steps 6 and 8). -/
def State.amoWordNr (s : State) (i : Instr) (op : AmoOp) (n : Nat) (a b : BitVec 5) : Outcome :=
  let v := view i
  s.checked .w (s.checkAmo (s.cur.sreg a) n) fun ia =>
    let x := s.cur.sreg b
    let s := (s.noteTaint v).noteFadd op
    if s.inSlice s.here ia then
      let (s, _, f) := s.amoPerform op n ia x 0
      (s.setFlags s.here f).retire v true .none
    else (s.post ia (.amo op n ia x 0 false) false).retire v true .none

/-- R341: returning add. -/
def execAmoAdd (o : RRS) (s : State) : Outcome := s.amoWord (.amoAdd o) .add (sizeBytes o.size) o.d o.a o.b

/-- R341: returning AND. -/
def execAmoAnd (o : RRS) (s : State) : Outcome := s.amoWord (.amoAnd o) .and (sizeBytes o.size) o.d o.a o.b

/-- R341: returning OR. -/
def execAmoOr (o : RRS) (s : State) : Outcome := s.amoWord (.amoOr o) .or (sizeBytes o.size) o.d o.a o.b

/-- R341: returning exclusive OR. -/
def execAmoXor (o : RRS) (s : State) : Outcome := s.amoWord (.amoXor o) .xor (sizeBytes o.size) o.d o.a o.b

/-- R341: returning signed minimum. -/
def execAmoMin (o : RRS) (s : State) : Outcome := s.amoWord (.amoMin o) .min (sizeBytes o.size) o.d o.a o.b

/-- R341: returning signed maximum. -/
def execAmoMax (o : RRS) (s : State) : Outcome := s.amoWord (.amoMax o) .max (sizeBytes o.size) o.d o.a o.b

/-- R341: returning unsigned minimum. -/
def execAmoMinu (o : RRS) (s : State) : Outcome := s.amoWord (.amoMinu o) .minu (sizeBytes o.size) o.d o.a o.b

/-- R341: returning unsigned maximum. -/
def execAmoMaxu (o : RRS) (s : State) : Outcome := s.amoWord (.amoMaxu o) .maxu (sizeBytes o.size) o.d o.a o.b

/-- R341: returning swap. -/
def execAmoSwap (o : RRS) (s : State) : Outcome := s.amoWord (.amoSwap o) .swap (sizeBytes o.size) o.d o.a o.b

/-- R341: returning compare and swap, the compare value in s_d. -/
def execAmoCas (o : RRS) (s : State) : Outcome := s.amoWord (.amoCas o) .cas (sizeBytes o.size) o.d o.a o.b

/-- R341: returning FP32 minimumNumber. -/
def execAmoFmin (o : RRR) (s : State) : Outcome := s.amoWord (.amoFmin o) .fmin 4 o.d o.a o.b

/-- R341: returning FP32 maximumNumber. -/
def execAmoFmax (o : RRR) (s : State) : Outcome := s.amoWord (.amoFmax o) .fmax 4 o.d o.a o.b

/-- R341: returning FP32 sum. -/
def execAmoFadd (o : RRR) (s : State) : Outcome := s.amoWord (.amoFadd o) .fadd 4 o.d o.a o.b

/-- R341: non-returning add. -/
def execAmoAddNr (o : RABS) (s : State) : Outcome := s.amoWordNr (.amoAddNr o) .add (sizeBytes o.size) o.a o.b

/-- R341: non-returning AND. -/
def execAmoAndNr (o : RABS) (s : State) : Outcome := s.amoWordNr (.amoAndNr o) .and (sizeBytes o.size) o.a o.b

/-- R341: non-returning OR. -/
def execAmoOrNr (o : RABS) (s : State) : Outcome := s.amoWordNr (.amoOrNr o) .or (sizeBytes o.size) o.a o.b

/-- R341: non-returning exclusive OR. -/
def execAmoXorNr (o : RABS) (s : State) : Outcome := s.amoWordNr (.amoXorNr o) .xor (sizeBytes o.size) o.a o.b

/-- R341: non-returning signed minimum. -/
def execAmoMinNr (o : RABS) (s : State) : Outcome := s.amoWordNr (.amoMinNr o) .min (sizeBytes o.size) o.a o.b

/-- R341: non-returning signed maximum. -/
def execAmoMaxNr (o : RABS) (s : State) : Outcome := s.amoWordNr (.amoMaxNr o) .max (sizeBytes o.size) o.a o.b

/-- R341: non-returning unsigned minimum. -/
def execAmoMinuNr (o : RABS) (s : State) : Outcome := s.amoWordNr (.amoMinuNr o) .minu (sizeBytes o.size) o.a o.b

/-- R341: non-returning unsigned maximum. -/
def execAmoMaxuNr (o : RABS) (s : State) : Outcome := s.amoWordNr (.amoMaxuNr o) .maxu (sizeBytes o.size) o.a o.b

/-- R341: non-returning swap. -/
def execAmoSwapNr (o : RABS) (s : State) : Outcome := s.amoWordNr (.amoSwapNr o) .swap (sizeBytes o.size) o.a o.b

/-- R341: non-returning FP32 minimumNumber. -/
def execAmoFminNr (o : RAB) (s : State) : Outcome := s.amoWordNr (.amoFminNr o) .fmin 4 o.a o.b

/-- R341: non-returning FP32 maximumNumber. -/
def execAmoFmaxNr (o : RAB) (s : State) : Outcome := s.amoWordNr (.amoFmaxNr o) .fmax 4 o.a o.b

/-- R341: non-returning FP32 sum. -/
def execAmoFaddNr (o : RAB) (s : State) : Outcome := s.amoWordNr (.amoFaddNr o) .fadd 4 o.a o.b

/-- The number that an XADD takes from s_b (R344). -/
def xaddValue (t : Nat) (v : W64) : Option Num :=
  match t with
  | 0 => some (readFmt (.int 32) (wfield v 0 32))
  | 1 => some (readFmt (.int 64) v.toNat)
  | 2 => some (readFp Fp.fp16 (wfield v 0 16))
  | 3 => some (readFp Fp.bf16 (wfield v 0 16))
  | 4 => some (readFp Fp.fp32 (wfield v 0 32))
  | _ => none

/-- An exact add into the XA at an IA of this package (R107, R344). -/
def State.xaPerform (s : State) (ia : Nat) (x : Num) : State :=
  s.store ia ((Xa.ofBytes (s.readIA ia 64)).add x).toBytes

/-- R344: exact add of one value into an XA; other types are reserved fn values. -/
def execAmoXadd (o : RABF) (s : State) : Outcome :=
  match xaddValue o.fn.toNat (s.cur.sreg o.b) with
  | none => s.trapWord .w illegalOp
  | some x =>
    s.checked .w (s.checkAmo (s.cur.sreg o.a) 64) fun ia =>
      let v := view (.amoXadd o)
      let b := s.cur.sreg o.b
      let s := s.noteTaint v
      let s := if s.inSlice s.here ia then s.xaPerform ia x
        else s.post ia (.xadd ia o.fn b) false
      s.retire v true .none

end Sys2Proof.Machine
end

