-- ==== Sys2Proof/Machine/Control.lean ====
section
/-! DEFINITION. Control words of the S engine (R80 to R82, R311, R312): branch preparation, branches, loops, the end of a
strand, departures by form, traps, and SKIP of every engine. -/

namespace Sys2Proof.Machine

/-- Writes a branch-target register that holds no active LOOP, else ILLEGAL (R82, R397). -/
def State.prepareBranch (s : State) (i : Instr) (b : BitVec 3) (target : W32) : Outcome :=
  s.require .s (!bLoop (s.cur.breg b)) illegalOperand (s.retire (view i) true (.b b (bMake false 0 target)))

/-- R397: target relative to the word's own index. -/
def execPbr (q : BitVec 4) (b : BitVec 3) (off : BitVec 17) (s : State) : Outcome :=
  s.prepareBranch (.pbr q b off) b (s.cur.pc .s + off.signExtend 32)

/-- R397: absolute target. -/
def execPbrxImm (q : BitVec 4) (b : BitVec 3) (imm : BitVec 28) (s : State) : Outcome :=
  s.prepareBranch (.pbrxImm q b imm) b (imm.setWidth 32)

/-- R397: target from a register and an offset. -/
def execPbrxReg (q : BitVec 4) (b : BitVec 3) (fa : Bool) (a : BitVec 5) (imm : BitVec 28) (s : State) : Outcome :=
  s.prepareBranch (.pbrxReg q b fa a imm) b ((s.cur.sreg a).setWidth 32 + imm.signExtend 32)

/-- A taken branch to a target outside the body of an active LOOP clears it, and the LOOPs nested in it (R387): a LOOP whose
body starts inside a cleared one's body and ends within it is nested. -/
def Strand.leaveLoops (t : Strand) (target : W32) : Strand :=
  let active := ((List.range 8).map (BitVec.ofNat 3 ·)).filter fun b => bLoop (t.breg b)
  let first (b : BitVec 3) := (bTarget (t.breg b)).toNat
  let past (b : BitVec 3) := first b + bLen (t.breg b)
  let left := active.filter fun b => decide (target.toNat < first b ∨ past b ≤ target.toNat)
  let gone := active.filter fun b => left.any fun c => decide (first c ≤ first b ∧ past b ≤ past c)
  gone.foldl (fun t b => t.setB b (t.breg b &&& 0x7FFFFFFFFFFFFFFF)) t

/-- A branch word: posts its outcome and goes there (R64, R69). -/
def State.branch (s : State) (i : Instr) (d : Dest) (target : Option W32) : Outcome :=
  (s.modCur fun t => t.post ⟨t.walk .s, target⟩).retire (view i) true d target

/-- R352: taken when p[0] differs from the polarity. -/
def execBr (q : BitVec 4) (b : BitVec 3) (p : BitVec 3) (pol : Bool) (hint : BitVec 13) (s : State) : Outcome :=
  let taken := (s.cur.preg p).getLsbD 0 != pol
  if taken then
    s.require .s (!bLoop (s.cur.breg b)) illegalOperand
      ((s.modCur fun t => t.leaveLoops (bTarget (t.breg b))).branch (.br q b p pol hint) .none (some (bTarget (s.cur.breg b))))
  else s.branch (.br q b p pol hint) .none none

/-- R353, R81: call; the return index goes to s31. -/
def execCall (q : BitVec 4) (b : BitVec 3) (hint : BitVec 13) (s : State) : Outcome :=
  s.require .s (!bLoop (s.cur.breg b)) illegalOperand
    (s.branch (.call q b hint) (.s 31#5 ((s.cur.pc .s + 1).setWidth 64)) (some (bTarget (s.cur.breg b))))

/-- R406, R81: return to s31[31:0]. -/
def execRet (q : BitVec 4) (hint : BitVec 13) (s : State) : Outcome :=
  s.branch (.ret q hint) .none (some ((s.cur.sreg 31#5).setWidth 32))

/-- The active LOOPs other than in b register `b`. -/
def Strand.otherLoops (t : Strand) (b : BitVec 3) : List (BitVec 3) :=
  ((List.range 8).map (BitVec.ofNat 3 ·)).filter fun c => c != b && bLoop (t.breg c)

/-- R387, R82: a counted loop. LEN 0, a fifth LOOP, a b register already in another LOOP, and a body that closes beyond an
enclosing one raise ILLEGAL. The LOOP that a b register already holds may write it again (DEDUCED, log 10). -/
def execLoopW (q : BitVec 4) (b : BitVec 3) (fa : Bool) (a : BitVec 5) (len : BitVec 16) (s : State) : Outcome :=
  let t := s.cur
  let body := t.pc .s + 2
  let past := body.toNat + len.toNat
  let beyond := (t.otherLoops b).any fun c =>
    decide ((bTarget (t.breg c)).toNat ≤ (t.pc .s).toNat ∧ (t.pc .s).toNat < (bTarget (t.breg c)).toNat + bLen (t.breg c) ∧
      (bTarget (t.breg c)).toNat + bLen (t.breg c) < past)
  let i : Instr := .loopW q b fa a len
  s.require .s (len != 0 && (!bLoop (t.breg b) || bTarget (t.breg b) == body) && decide ((t.otherLoops b).length < 4) && !beyond) illegalOperand
    (if t.sreg a = 0 then s.branch i (.b b (bMake false len body)) (some (body + len.setWidth 32))
     else (s.modCur fun t => { t with loopRegs := smallPut t.loopRegs b a }).branch i (.b b (bMake true len body)) none)

/-- The strand in focus ends (R366): tokens dropped, its idempotent region closed, the slot freed or kept for its gang. -/
def State.endStrand (s : State) : State :=
  let n := s.focus
  let t := s.cur
  let tid := s.curTaskNum
  let s := match t.snapshot with
    | some (_, num) => s.dropRecord (n / 8) num
    | none => s
  let s := s.freeSlot n (decide (1 < (s.task tid).gang))
  let s := s.modMember tid t.rank fun m => { m with slot := none, ended := true }
  (s.finishBar tid).maybeRetire tid

/-- R366: END of a strand; in a handler it ends the task with RESULT TRAP and posts the trap's record (R272). -/
def execEndW (q : BitVec 4) (s : State) : Outcome :=
  let s := (s.modCur fun t => t.takeTokens .s q).count s.here 1
  if s.cur.super then
    let tid := s.curTaskNum
    match s.cur.trapSave with
    | some sv =>
      let bs := s.readLocal sv.frame 0x28
      .next (s.faultTask tid 4
        { cause := sv.cause, sub := sv.sub, source := (engineIdx sv.engine).val, pc := BitVec.ofNat 32 (fieldAt bs (4 * (engineIdx sv.engine).val) 4)
          addr := wordAt bs 0x20, task := (s.task tid).id, job := (s.task tid).job, tile := s.here, detail := sv.detail } false)
    | none => .next (s.endTask tid 4)
  else .next s.endStrand

/-- R451: departs with a record that is ready at once. -/
def execYield (q : BitVec 4) (s : State) : Outcome := s.depart (view (.yield q)) 0xA 0 true 0

/-- R383: an idempotent snapshot at the next word; without room the continuation-overflow trap. -/
def execIdem (q : BitVec 4) (s : State) : Outcome :=
  let t := s.cur
  let v := view (.idem q)
  let live := t.livemask
  let k := s.here
  let freed := match t.snapshot with
    | some (_, num) => s.dropRecord k num
    | none => s
  let bs := freed.contBytes 0 0 live 0 []
  if freed.contFree k < bs.length / 64 + t.block.granules then s.trapWord .s { cause := 8 }
  else
    let snap : Snapshot :=
      { regs := restoreRegs bs live, pcs := Vector.replicate 4 (t.pc .s + 1), tokens := Vector.replicate 8 0, livemask := t.livemask
        block := { t.block with walks := Vector.replicate 4 0, outcomes := Vector.replicate 4 [], closing := Vector.replicate 4 none } }
    let r := { freed.newRecord .s 0 0 0 none with isSnapshot := true }
    ((freed.pushRecord k bs r).modCur fun t => { t with snapshot := some (snap, r.num) }).retire v true .none

/-- R386: one half of LIVEMASK, for departures at later words in program order (R50). -/
def execLive (q : BitVec 4) (half : Bool) (mask : W32) (s : State) : Outcome :=
  let m := s.cur.livemask
  let x : W64 := if half then mask ++ m.setWidth 32 else (m.extractLsb' 32 32) ++ mask
  (s.modCur fun t => t.setLive x).retire (view (.live q half mask)) true .none

/-- The word retires, and then its trap is taken with the engine's next word as saved PC (R268, R271). -/
def State.retireThenTrap (s : State) (v : View) (r : TrapReq) : Outcome :=
  let t := (s.cur.takeTokens .s v.q).pass .s v.len none
  let s := (s.modCur fun _ => t).count s.here 1
  match t.signal .s (v.q.getLsbD 1) (v.q.getLsbD 0) with
  | some t => .next ((s.modCur fun _ => t).takeTrap .s { r with after := true })
  | none => .next (s.takeTrap .s { cause := 2, sub := 1, after := true })

/-- R421: retires and takes a SOFTWARE trap with the code as subcode; a code above 255 breaks its limit. -/
def execTrapW (q : BitVec 4) (imm : BitVec 9) (s : State) : Outcome :=
  s.require .s (decide (imm.toNat < 256)) illegalOperand
    (s.retireThenTrap (view (.trapW q imm)) { cause := 0xC, sub := imm.toNat })

/-- R351: retires, then takes a BREAK trap, or stops the tile under BKPT_STOP (R280). -/
def execBkpt (q : BitVec 4) (s : State) : Outcome :=
  if (s.tile s.here).bkptStop then
    match s.retire (view (.bkpt q)) true .none with
    | .next s' => .next (s'.stopTile s.here)
    | o => o
  else s.retireThenTrap (view (.bkpt q)) { cause := 0xD }

/-- R408, R274: return from a trap; at user level ILLEGAL with subcode PRIVILEGE. -/
def execRte (q : BitVec 4) (s : State) : Outcome :=
  s.require .s s.cur.super illegalPriv
    (if s.outstanding s.curTaskNum s.cur.rank then .next s
     else .next ((s.modCur fun t => t.takeTokens .s q).returnFromTrap (view (.rte q))))

/-- R349, R34: departs at the gang barrier; in a supervisor strand ILLEGAL with subcode OPERAND. -/
def execBar (q : BitVec 4) (s : State) : Outcome :=
  let t := s.curTask
  s.require .s (!s.cur.super) illegalOperand
    (s.depart (view (.bar q)) 6 (BitVec.ofNat 64 (t.id.toNat + t.barGen % 2 ^ 16 * 2 ^ 32)) true)

/-- R403: departs until the next quiet broadcast of the job's slot. -/
def execQwait (q : BitVec 4) (d : BitVec 5) (s : State) : Outcome :=
  s.depart (view (.qwait q d)) 7 (BitVec.ofNat 64 s.curTask.job.toNat) true (dest := some (.s d))

/-- Exchanges the roles of the two banks (R210, R211). -/
def State.swapBanks (s : State) (k : Nat) : State := s.modTile k fun t => { t with visBank := !t.visBank }

/-- R338: exchanges WORK and VIS, or departs until the bank is quiescent. -/
def execAccswap (q : BitVec 4) (s : State) : Outcome :=
  if !s.quiescent s.here s.curTaskNum s.cur.rank then s.depart (view (.accswap q)) 9 (BitVec.ofNat 64 s.here) true
  else (s.swapBanks s.here).retire (view (.accswap q)) true .none

/-- R413: the tagged engine idles for n cycles, and signals when it goes on. -/
def execSkip (q : BitVec 4) (e : BitVec 2) (imm : BitVec 9) (s : State) : Outcome :=
  match s.retire (view (.skip q e imm)) (imm == 0#9) .none with
  | .next s => .next (if imm = 0#9 then s else s.modCur fun t =>
      { t with flights := t.flights.dropLast ++ t.flights.getLast?.toList.map fun f => { f with skip := true } })
  | o => o

end Sys2Proof.Machine
end

