-- ==== Sys2Proof/Machine/Functions.lean ====
section
/-! DEFINITION. The functions of R431, each the exact value rounded once to nearest even: 2^x and log2 x from fixed point
with 320 fractional bits, 1/x and 1/√x from integers with a sticky bit. -/

namespace Sys2Proof.Machine

/-- Fractional bits of the fixed point in which 2^x and log2 x are found. -/
def fnBits : Nat := 320

/-- ln 2 in fixed point, rounded down. -/
def ln2Fixed : Nat := 0xb17217f7d1cf79abc9e3b39803f2f6af40f343267298b62d8a0d175b8baafa2be7b876206debac98

/-- The terms t^k / k! for k, k + 1, …, in fixed point, added to a sum. -/
def expTerms (t : Nat) : Nat → Nat → Nat → Nat → Nat
  | 0, _, _, acc => acc
  | fuel + 1, k, term, acc => expTerms t fuel (k + 1) (term * t / 2 ^ fnBits / (k + 1)) (acc + term)

/-- 2^(frac / 2^k) in fixed point, for 0 ≤ frac < 2^k. -/
def exp2Fixed (frac k : Nat) : Nat := expTerms (frac * ln2Fixed / 2 ^ k) 90 0 (2 ^ fnBits) 0

/-- The terms z^(2k+1) / (2k+1) in fixed point, added to a sum; `p` is z^(2k+1). -/
def atanhTerms (z2 : Nat) : Nat → Nat → Nat → Nat → Nat
  | 0, _, _, acc => acc
  | fuel + 1, k, p, acc => atanhTerms z2 fuel (k + 1) (p * z2 / 2 ^ fnBits) (acc + p / (2 * k + 1))

/-- log2 of m / 2^l in fixed point, for 2^l ≤ m < 2^(l+1). -/
def log2Fixed (m l : Nat) : Nat :=
  let z := (m - 2 ^ l) * 2 ^ fnBits / (m + 2 ^ l)
  2 * atanhTerms (z * z / 2 ^ fnBits) 110 0 z 0 * 2 ^ fnBits / ln2Fixed

/-- The greatest r with r² ≤ n, from bit k - 1 down. -/
def isqrtFrom (n : Nat) : Nat → Nat → Nat
  | 0, r => r
  | k + 1, r => isqrtFrom n k (if (r + 2 ^ k) * (r + 2 ^ k) ≤ n then r + 2 ^ k else r)

/-- Integer square root of a number below 2^256. -/
def isqrt (n : Nat) : Nat := isqrtFrom n 128 0

/-- A NaN result (R431): canonical, INVALID where asked. -/
def nanOut (f : Fp) (invalid : Bool) : Nat × FlagSet := (f.canon, raiseIf invalid Flag.invalid)

/-- 2^x (R431): a value between two fixed-point numbers is rounded as their odd midpoint. -/
def fnExp2 (f : Fp) (x : Nat) : Nat × FlagSet :=
  match readFp f x with
  | .nan sig => nanOut f sig
  | .inf neg => (if neg then 0 else f.infBits false, 0)
  | .fin neg m e =>
    let k := (-e).toNat
    let num : Int := (m * 2 ^ e.toNat : Nat)
    let num := if neg then -num else num
    let n := Int.fdiv num (2 ^ k : Nat)
    let frac := (num - n * (2 ^ k : Nat)).toNat
    if frac = 0 then ieeeRound f (.fin false 1 n)
    else ieeeRound f (.fin false (2 * exp2Fixed frac k + 1) (n - fnBits - 1))

/-- log2 x (R431). -/
def fnLog2 (f : Fp) (x : Nat) : Nat × FlagSet :=
  match readFp f x with
  | .nan sig => nanOut f sig
  | .inf neg => if neg then nanOut f true else (f.infBits false, 0)
  | .fin neg m e =>
    if m = 0 then (f.infBits true, Flag.divzero)
    else if neg then nanOut f true
    else
      let l := Nat.log2 m
      let n : Int := e + l
      if m = 2 ^ l then ieeeRound f (.fin (decide (n < 0)) n.natAbs 0)
      else
        let v : Int := 2 * (n * (2 ^ fnBits : Nat) + log2Fixed m l) + 1
        ieeeRound f (.fin (decide (v < 0)) v.natAbs (-(fnBits : Int) - 1))

/-- 1 / x (R431). -/
def fnRcp (f : Fp) (x : Nat) : Nat × FlagSet :=
  match readFp f x with
  | .nan sig => nanOut f sig
  | .inf neg => (if neg then 2 ^ (f.ew + f.fw) else 0, 0)
  | .fin neg m e =>
    if m = 0 then (f.infBits neg, Flag.divzero)
    else
      let k := Nat.log2 m + 64
      let q := 2 ^ k / m
      ieeeRound f (.fin neg (2 * q + (if q * m = 2 ^ k then 0 else 1)) (-(k : Int) - e - 1))

/-- 1 / √x (R431). -/
def fnRsq (f : Fp) (x : Nat) : Nat × FlagSet :=
  match readFp f x with
  | .nan sig => nanOut f sig
  | .inf neg => if neg then nanOut f true else (0, 0)
  | .fin neg m e =>
    if m = 0 then (f.infBits neg, Flag.divzero)
    else if neg then nanOut f true
    else
      let (m', e') := if e % 2 = 0 then (m, e) else (2 * m, e - 1)
      let k := Nat.log2 m' + 64
      let r := isqrt (2 ^ (2 * k) / m')
      ieeeRound f (.fin false (2 * r + (if r * r * m' = 2 ^ (2 * k) then 0 else 1)) (-(k : Int) - e' / 2 - 1))

/-- The exponent of a value as a signed integer (R432). -/
def fnGetExp (f : Fp) (x : Nat) : W32 × FlagSet :=
  match readFp f x with
  | .nan _ => (0x7FFFFFFF, Flag.invalid)
  | .inf _ => (0x7FFFFFFF, Flag.invalid)
  | .fin _ m e => if m = 0 then (0x80000000, Flag.invalid) else (BitVec.ofInt 32 (Nat.log2 m + e), 0)

/-- A value rounded to an integral value of its own format (R440); never INEXACT. -/
def fnRound (f : Fp) (mode : Bool → Rounding) (x : Nat) : Nat × FlagSet :=
  match readFp f x with
  | .nan sig => nanOut f sig
  | .inf neg => (f.infBits neg, 0)
  | .fin neg m e => if 0 ≤ e then (x, 0) else (packFp f neg (roundAt (mode neg) m e 0).1 0, 0)

/-- A value times 2^n, rounded once (R442). -/
def fnScale (f : Fp) (x : Nat) (n : Int) : Nat × FlagSet :=
  match readFp f x with
  | .fin neg m e => if m = 0 then (x, 0) else ieeeRound f (.fin neg m (e + n))
  | v => ieeeRound f v

end Sys2Proof.Machine
end

