-- ==== Sys2Proof/Machine/Vector.lean ====
section
/-! DEFINITION. The lane model (R418) and the lane words of the A engine that touch registers only (R315; 16): arithmetic,
logic, shifts, compares, moves and reductions. -/

namespace Sys2Proof.Machine

/-- The format of a type code 0 to 5 (R309): .i8, .i16, .i32, .f16, .bf16, .f32. -/
def typeFmt (t : BitVec 3) : Option Fmt :=
  match t.toNat with
  | 0 => some (.int 8)
  | 1 => some (.int 16)
  | 2 => some (.int 32)
  | 3 => some (.fp Fp.fp16)
  | 4 => some (.fp Fp.bf16)
  | 5 => some (.fp Fp.fp32)
  | _ => none

/-- The floating-point format of a type code 3 to 5. -/
def typeFp (t : BitVec 3) : Option Fp :=
  match typeFmt t with
  | some (.fp f) => some f
  | _ => none

/-- Bits of an element of a format in its lane (R418). -/
def element (f : Fmt) (x : W32) : Nat := x.toNat % 2 ^ f.width

/-- A result placed in its lane: integers sign-extended, floating point with upper bits zero (R418). -/
def placeLane (f : Fmt) (x : Nat) : W32 :=
  match f with
  | .int w => BitVec.ofNat 32 (wrapInt 32 (sgn w x))
  | .fp _ => BitVec.ofNat 32 x

/-- Lane l of a vector. -/
def lane (v : VReg) (l : Nat) : W32 := v.toList.getD l 0

/-- Lane results and the flags that all of them raise. -/
def lanesOut (g : Nat → W32 × FlagSet) : VReg × FlagSet :=
  let rs := (List.range 64).map g
  (Vector.ofFn fun l : Fin 64 => (rs.getD l.val (0, 0)).1, (rs.map (·.2)).foldl (· ||| ·) 0)

/-- A vector word whose lane l takes g l (R418). Every vector word has a latency above 1. -/
def State.lanes (s : State) (i : Instr) (d : BitVec 5) (g : Nat → W32 × FlagSet) : Outcome :=
  let (v, f) := lanesOut g
  (s.setFlags s.here f).retire (view i) false (.v d v)

/-- A vector word that raises no flag. -/
def State.lanesPlain (s : State) (i : Instr) (d : BitVec 5) (g : Nat → W32) : Outcome :=
  s.retire (view i) false (.v d (Vector.ofFn fun l : Fin 64 => g l.val))

/-- A word of type t: a code above 5 is a reserved fn value. -/
def State.typed (s : State) (t : BitVec 3) (k : Fmt → Outcome) : Outcome :=
  match typeFmt t with
  | some f => k f
  | none => s.trapWord .a illegalOp

/-- A word of a floating-point type: any other code is a reserved fn value. -/
def State.typedFp (s : State) (t : BitVec 3) (k : Fp → Outcome) : Outcome :=
  match typeFp t with
  | some f => k f
  | none => s.trapWord .a illegalOp

/-- The operations of R424. -/
inductive LaneOp where
  | add | sub | mul | fma | fms | min | max
  deriving DecidableEq, Repr

/-- One lane of R424 for x, y and z. -/
def laneArith (op : LaneOp) (f : Fmt) (x y z : Nat) : Nat × FlagSet :=
  match f with
  | .int w =>
    let a := sgn w x
    let b := sgn w y
    (match op with
     | .add => wrapInt w (a + b)
     | .sub => wrapInt w (a - b)
     | .mul => wrapInt w (a * b)
     | .fma => wrapInt w (a * b + sgn w z)
     | .fms => wrapInt w (sgn w z - a * b)
     | .min => if a ≤ b then x else y
     | .max => if a ≤ b then y else x, 0)
  | .fp g =>
    match op with
    | .add => fpAdd g x y
    | .sub =>
      let (v, fl) := numAdd (readFp g x) (numNeg (readFp g y))
      let (r, fl') := ieeeRound g v
      (r, fl ||| fl')
    | .mul => fpMul g x y
    | .fma => fpFma g (readFp g x) (readFp g y) (readFp g z)
    | .fms => fpFma g (numNeg (readFp g x)) (readFp g y) (readFp g z)
    | .min => fpMinMax g false x y
    | .max => fpMinMax g true x y

/-- A word of R424. -/
def State.laneWord (s : State) (i : Instr) (op : LaneOp) (o : RRF) : Outcome :=
  s.typed o.fn fun f =>
    let e (v : VReg) (l : Nat) := element f (lane v l)
    s.lanes i o.d fun l =>
      let (r, fl) := laneArith op f (e (s.cur.vreg o.a) l) (e (s.cur.vreg o.b) l) (e (s.cur.vreg o.d) l)
      (placeLane f r, fl)

/-- R424: sum. -/
def execVadd (o : RRF) (s : State) : Outcome := s.laneWord (.vadd o) .add o

/-- R424: difference. -/
def execVsub (o : RRF) (s : State) : Outcome := s.laneWord (.vsub o) .sub o

/-- R424: product. -/
def execVmul (o : RRF) (s : State) : Outcome := s.laneWord (.vmul o) .mul o

/-- R424: product plus v_d with one rounding. -/
def execVfma (o : RRF) (s : State) : Outcome := s.laneWord (.vfma o) .fma o

/-- R424: v_d minus the product with one rounding. -/
def execVfms (o : RRF) (s : State) : Outcome := s.laneWord (.vfms o) .fms o

/-- R424: minimum. -/
def execVmin (o : RRF) (s : State) : Outcome := s.laneWord (.vmin o) .min o

/-- R424: maximum. -/
def execVmax (o : RRF) (s : State) : Outcome := s.laneWord (.vmax o) .max o

/-- Absolute value of one element: integers modulo 2^w, floating point by its sign bit (R423). -/
def laneAbs (f : Fmt) (x : Nat) : Nat :=
  match f with
  | .int w => wrapInt w ((sgn w x).natAbs : Int)
  | .fp g => x % 2 ^ (g.ew + g.fw)

/-- Negation of one element (R423). -/
def laneNeg (f : Fmt) (x : Nat) : Nat :=
  match f with
  | .int w => wrapInt w (-sgn w x)
  | .fp g => x ^^^ 2 ^ (g.ew + g.fw)

/-- R423: absolute value. -/
def execVabs (o : RDAT) (s : State) : Outcome :=
  s.typed o.t fun f => s.lanesPlain (.vabs o) o.d fun l => placeLane f (laneAbs f (element f (lane (s.cur.vreg o.a) l)))

/-- R423: negation. -/
def execVneg (o : RDAT) (s : State) : Outcome :=
  s.typed o.t fun f => s.lanesPlain (.vneg o) o.d fun l => placeLane f (laneNeg f (element f (lane (s.cur.vreg o.a) l)))

/-- R425: and. -/
def execVand (o : RRR) (s : State) : Outcome :=
  s.lanesPlain (.vand o) o.d fun l => lane (s.cur.vreg o.a) l &&& lane (s.cur.vreg o.b) l

/-- R425: or. -/
def execVor (o : RRR) (s : State) : Outcome :=
  s.lanesPlain (.vor o) o.d fun l => lane (s.cur.vreg o.a) l ||| lane (s.cur.vreg o.b) l

/-- R425: exclusive or. -/
def execVxor (o : RRR) (s : State) : Outcome :=
  s.lanesPlain (.vxor o) o.d fun l => lane (s.cur.vreg o.a) l ^^^ lane (s.cur.vreg o.b) l

/-- R445: left shift by v_b[4:0]. -/
def execVshl (o : RRR) (s : State) : Outcome :=
  s.lanesPlain (.vshl o) o.d fun l => lane (s.cur.vreg o.a) l <<< ((lane (s.cur.vreg o.b) l).toNat % 32)

/-- R445: right shift with zeros. -/
def execVshrL (o : RRR) (s : State) : Outcome :=
  s.lanesPlain (.vshrL o) o.d fun l => lane (s.cur.vreg o.a) l >>> ((lane (s.cur.vreg o.b) l).toNat % 32)

/-- R445: right shift with copies of bit 31. -/
def execVshrA (o : RRR) (s : State) : Outcome :=
  s.lanesPlain (.vshrA o) o.d fun l => (lane (s.cur.vreg o.a) l).sshiftRight ((lane (s.cur.vreg o.b) l).toNat % 32)

/-- One lane of VCMP (R427): the outcome and its flags. -/
def laneCmp (cc : BitVec 3) (f : Fmt) (x y : Nat) : Bool × FlagSet :=
  match f with
  | .int w =>
    let a := sgn w x
    let b := sgn w y
    (match cc.toNat with
     | 0 => x == y
     | 1 => x != y
     | 2 => decide (a < b)
     | 3 => decide (a ≤ b)
     | 4 => decide (x < y)
     | _ => decide (x ≤ y), 0)
  | .fp g =>
    let a := readFp g x
    let b := readFp g y
    let nan := a.isNan || b.isNan
    let bad := a.isSig || b.isSig || (nan && 2 ≤ cc.toNat)
    let r := numCmp a b
    (match cc.toNat with
     | 0 => !nan && r == .eq
     | 1 => nan || r != .eq
     | 2 => !nan && r == .lt
     | _ => !nan && r != .gt, raiseIf bad Flag.invalid)

/-- R427: bit l of p_d takes the outcome of lane l; LTU and LEU take integer types only. -/
def execVcmp (o : RVCmp) (s : State) : Outcome :=
  s.require .a (decide (o.cc.toNat < 6) && (decide (o.cc.toNat < 4) || decide (o.t.toNat < 3))) illegalOp
    (s.typed o.t fun f =>
      let rs := (List.range 64).map fun l =>
        laneCmp o.cc f (element f (lane (s.cur.vreg o.a) l)) (element f (lane (s.cur.vreg o.b) l))
      let p := BitVec.ofNat 64 ((List.range 64).foldl (fun acc l => acc + (rs.getD l (false, 0)).1.toNat * 2 ^ l) 0)
      (s.setFlags s.here ((rs.map (·.2)).foldl (· ||| ·) 0)).retire (view (.vcmp o)) false (.p o.d p))

/-- R444: selects lanes by predicate. -/
def execVsel (o : RRF) (s : State) : Outcome :=
  s.lanesPlain (.vsel o) o.d fun l =>
    if (s.cur.preg o.fn).getLsbD l then lane (s.cur.vreg o.a) l else lane (s.cur.vreg o.b) l

/-- R434: copy. -/
def execVmov (o : RDA) (s : State) : Outcome := s.lanesPlain (.vmov o) o.d fun l => lane (s.cur.vreg o.a) l

/-- R426: broadcast of a scalar's element. -/
def execVbcast (o : RDAT) (s : State) : Outcome :=
  s.typed o.t fun f => s.lanesPlain (.vbcast o) o.d fun _ => placeLane f ((s.cur.sreg o.a).toNat % 2 ^ f.width)

/-- R430: one lane to a scalar. -/
def execVext (o : RI) (s : State) : Outcome :=
  s.require .a (decide (o.imm.toNat < 64)) illegalOperand
    (s.retire (view (.vext o)) false (.s o.d ((lane (s.cur.vreg o.a) o.imm.toNat).setWidth 64)))

/-- R433: lane numbers from a start. -/
def execViota (o : RDA) (s : State) : Outcome :=
  s.lanesPlain (.viota o) o.d fun l => (s.cur.sreg o.a).setWidth 32 + BitVec.ofNat 32 l

/-- R435: permutes lanes. -/
def execVperm (o : RRR) (s : State) : Outcome :=
  s.lanesPlain (.vperm o) o.d fun l => lane (s.cur.vreg o.a) ((lane (s.cur.vreg o.b) l).toNat % 64)

/-- R441: rotates lanes toward lane 0. -/
def execVrot (o : RI) (s : State) : Outcome :=
  s.require .a (decide (o.imm.toNat < 64)) illegalOperand
    (s.lanesPlain (.vrot o) o.d fun l => lane (s.cur.vreg o.a) ((l + o.imm.toNat) % 64))

/-- R436: the 1 bits of a predicate. -/
def execVpopc (q : BitVec 4) (d : BitVec 5) (p : BitVec 3) (s : State) : Outcome :=
  s.retire (view (.vpopc q d p)) false (.s d (BitVec.ofNat 64 (popCount 64 (s.cur.preg p).toNat)))

/-- The elements of a vector read as a format, lane 0 first. -/
def elements (f : Fmt) (v : VReg) : List Nat := (List.range 64).map fun l => element f (lane v l)

/-- An XA that holds zero. -/
def Xa.zero : Xa := ⟨0, 0⟩

/-- xa_add of every element of a list (R107). -/
def Xa.addAll (x : Xa) (f : Fmt) (es : List Nat) : Xa := es.foldl (fun x e => x.add (readFmt f e)) x

/-- The result of a register form of VRED (R439); `none` for a pairing that its table excludes. -/
def reduce (op : Nat) (f : Fmt) (es : List Nat) : Option (W64 × FlagSet) :=
  match f with
  | .int w =>
    let is := es.map (sgn w)
    match op with
    | 0 => some (BitVec.ofInt 64 is.sum, 0)
    | 1 => some (BitVec.ofInt 64 (is.foldl min (is.headD 0)), 0)
    | 2 => some (BitVec.ofInt 64 (is.foldl max (is.headD 0)), 0)
    | 3 => some (BitVec.ofInt 64 (sgn w (es.foldl (· &&& ·) (2 ^ w - 1))), 0)
    | 4 => some (BitVec.ofInt 64 (sgn w (es.foldl (· ||| ·) 0)), 0)
    | 5 => some (BitVec.ofInt 64 (sgn w (es.foldl (· ^^^ ·) 0)), 0)
    | _ => none
  | .fp g =>
    let extreme (wantMax : Bool) : W64 × FlagSet :=
      let (r, fl) := es.tail.foldl (fun (a : Nat × FlagSet) e => let (r, fl) := fpMinMax g wantMax a.1 e; (r, a.2 ||| fl))
        (es.headD 0, 0)
      (BitVec.ofNat 64 r, fl)
    match op with
    | 0 => let (r, fl) := (Xa.zero.addAll f es).read g; some (BitVec.ofNat 64 r, fl)
    | 1 => some (extreme false)
    | 2 => some (extreme true)
    | _ => none

/-- The running combinations of VSCAN (R443), lane 0 first, with the flags of each. -/
def scanInt (op w : Nat) (acc : Option Int) : List Nat → List (Nat × FlagSet)
  | [] => []
  | e :: es =>
    let x := sgn w e
    let r := match acc with
      | none => x
      | some a => if op = 0 then sgn w (wrapInt w (a + x)) else if op = 1 then min a x else max a x
    (wrapInt w r, 0) :: scanInt op w (some r) es

/-- Running exact sums, each rounded once (R443). -/
def scanSum (g : Fp) (x : Xa) : List Nat → List (Nat × FlagSet)
  | [] => []
  | e :: es => let y := x.add (readFp g e); y.read g :: scanSum g y es

/-- Running extremes (R443): a lane whose elements are all NaNs takes the canonical NaN. -/
def scanExtreme (g : Fp) (wantMax : Bool) (acc : Option Nat) : List Nat → List (Nat × FlagSet)
  | [] => []
  | e :: es => let r := fpMinMax g wantMax (acc.getD e) e; r :: scanExtreme g wantMax (some r.1) es

/-- R443: prefix combination under ADD, MIN or MAX. -/
def execVscan (o : RDAO) (s : State) : Outcome :=
  s.typed o.t fun f =>
    s.require .a (decide (o.op.toNat < 3)) illegalOperand
      (let es := elements f (s.cur.vreg o.a)
       let rs := match f with
         | .int w => scanInt o.op.toNat w none es
         | .fp g => if o.op.toNat = 0 then scanSum g Xa.zero es else scanExtreme g (o.op.toNat == 2) none es
       s.lanes (.vscan o) o.d fun l => let (r, fl) := rs.getD l (0, 0); (placeLane f r, fl))

end Sys2Proof.Machine
end

