-- ==== Sys2Proof/Machine/VectorFn.lean ====
section
/-! DEFINITION. Function words of the A engine on registers (R315; 16): R429, R431, R432, R438, R440, R442. -/

namespace Sys2Proof.Machine

/-- A function of one floating-point lane. -/
def State.laneFn (s : State) (i : Instr) (o : RDAT) (fn : Fp → Nat → Nat × FlagSet) : Outcome :=
  s.typedFp o.t fun f => s.lanes i o.d fun l =>
    let (r, fl) := fn f (element (.fp f) (lane (s.cur.vreg o.a) l))
    (BitVec.ofNat 32 r, fl)

/-- R431: 2^x. -/
def execVfexp (o : RDAT) (s : State) : Outcome := s.laneFn (.vfexp o) o fnExp2

/-- R431: log2 x. -/
def execVflog (o : RDAT) (s : State) : Outcome := s.laneFn (.vflog o) o fnLog2

/-- R431: reciprocal. -/
def execVrcp (o : RDAT) (s : State) : Outcome := s.laneFn (.vrcp o) o fnRcp

/-- R431: reciprocal square root. -/
def execVrsq (o : RDAT) (s : State) : Outcome := s.laneFn (.vrsq o) o fnRsq

/-- R432: exponent as an integer. -/
def execVgetexp (o : RDAT) (s : State) : Outcome :=
  s.typedFp o.t fun f => s.lanes (.vgetexp o) o.d fun l => fnGetExp f (element (.fp f) (lane (s.cur.vreg o.a) l))

/-- R442: scale by a power of two. -/
def execVscale (o : RRF) (s : State) : Outcome :=
  s.typedFp o.fn fun f => s.lanes (.vscale o) o.d fun l =>
    let (r, fl) := fnScale f (element (.fp f) (lane (s.cur.vreg o.a) l)) (lane (s.cur.vreg o.b) l).toInt
    (BitVec.ofNat 32 r, fl)

/-- The rounding of a mode number of VRND (R440). -/
def rndMode (op : Nat) (neg : Bool) : Rounding :=
  match op with
  | 0 => .rne
  | 1 => .rtz
  | 2 => .floor neg
  | _ => .ceil neg

/-- R440: round to integral; a mode above 3 is OPERAND. -/
def execVrnd (o : RDAO) (s : State) : Outcome :=
  s.typedFp o.t fun f =>
    s.require .a (decide (o.op.toNat < 4)) illegalOperand
      (s.lanes (.vrnd o) o.d fun l =>
        let (r, fl) := fnRound f (rndMode o.op.toNat) (element (.fp f) (lane (s.cur.vreg o.a) l))
        (BitVec.ofNat 32 r, fl))

/-- R438: KX-128 bits under the task's seed snapshot and TASK_ID. -/
def execVrand (o : RRR) (s : State) : Outcome :=
  let t := s.curTask
  s.lanesPlain (.vrand o) o.d fun l =>
    BitVec.ofNat 32 ((kx128 t.seed t.id (s.cur.sreg o.a + BitVec.ofNat 64 l).toNat (wfield (s.cur.sreg o.b) 0 32)).headD 0)

/-- The tensor parameters P_FP32 (R334). -/
def pFp32 : Tpr := ⟨0x0C, false, false, 0, 0, 0⟩

/-- R429: block mantissas to FP32; a width of 9 is a reserved fn value. -/
def execVdeq (o : RRF) (s : State) : Outcome :=
  s.require .a (decide (o.fn.toNat ≤ 6)) illegalOp
    (s.lanes (.vdeq o) o.d fun l =>
      let b := o.fn.toNat + 2
      let m := sgn b (lane (s.cur.vreg o.a) l).toNat
      let e := if l < 32 then wfield (s.cur.sreg o.b) 0 8 else wfield (s.cur.sreg o.b) 8 8
      let (r, fl) := cvt (.fin (decide (m < 0)) m.natAbs ((e : Int) - 127)) (.fp Fp.fp32) pFp32 0
      (BitVec.ofNat 32 r, fl))

end Sys2Proof.Machine
end

