-- ==== Sys2Proof/Machine/Exact.lean ====
section
/-! DEFINITION. Words of the A engine that touch memory or the accumulator banks (R315, R336, R337, R419; 16): conversions
under a tensor parameter record, exact accumulators, and the VIS bank. -/

namespace Sys2Proof.Machine

/-- The place of an operand of an A word in memory (R419): alignment, translation, own slice, then R370. -/
def State.exactPlace (s : State) (va : W64) (n : Nat) (write : Bool) : Except TrapReq (List Elem) :=
  if va.toNat % n ≠ 0 then .error illegalOperand else s.checkMem .a true write [(va, n)]

/-- The same for an operand that the word reads: its units are good (R147). -/
def State.exactOperand (s : State) (va : W64) (n : Nat) (write : Bool) : Except TrapReq Nat :=
  match s.exactPlace va n write with
  | .error r => .error r
  | .ok xs => match s.firstUncorrectable xs with
    | some r => .error r
    | none => .ok ((xs.map (·.ia)).headD 0)

/-- Reads a tensor parameter record that a word accepts (R419). -/
def State.withTpr (s : State) (va : W64) (accepts : Tpr → Bool) (k : Tpr → State → Outcome) : Outcome :=
  s.checked .a (s.exactOperand va 16 false) fun ia =>
    match Tpr.parse (s.readIA ia 16) with
    | some p => s.require .a (accepts p) illegalOperand (k p (s.noteRead s.here false (s.cur.pc .a) ia 16))
    | none => s.trapWord .a illegalOperand

/-- The formats that VCVT and VSRND accept (R428). -/
def cvtAccepts (p : Tpr) : Bool := [0x00, 0x01, 0x02, 0x08, 0x09, 0x0A, 0x0B, 0x0C].contains p.fmt

/-- A converted value in its lane: integers sign-extended, others zero-extended (R428). -/
def placeFmt (f : Fmt) (x : Nat) : W32 := placeLane f x

/-- R428: converts each lane under a record with ROUND RNE. -/
def execVcvt (o : RRF) (s : State) : Outcome :=
  s.typed o.fn fun src =>
    s.withTpr (s.cur.sreg o.b) (fun p => cvtAccepts p && !p.stoch) fun p s =>
      match Fmt.ofCode p.fmt with
      | none => s.trapWord .a illegalOperand
      | some dst => s.lanes (.vcvt o) o.d fun l =>
          let (r, fl) := cvt (readFmt src (element src (lane (s.cur.vreg o.a) l))) dst p 0
          (placeFmt dst r, fl)

/-- R446: converts each lane with stochastic rounding of the finite values. -/
def execVsrnd (o : RPair) (s : State) : Outcome :=
  s.typed o.t fun src =>
    s.withTpr (s.cur.sreg (o.bp ++ 0#1)) cvtAccepts fun p s =>
      match Fmt.ofCode p.fmt with
      | none => s.trapWord .a illegalOperand
      | some dst => s.lanes (.vsrnd o) o.d fun l =>
          let n := (s.cur.sreg (o.bp ++ 1#1) + BitVec.ofNat 64 l).toNat
          let (r, fl) := cvt (readFmt src (element src (lane (s.cur.vreg o.a) l))) dst { p with stoch := true }
            (kxDraw s.curTask.seed s.curTask.id n p.stream)
          (placeFmt dst r, fl)

/-- R437: each half of the vector becomes one block. -/
def execVquant (o : RPair) (s : State) : Outcome :=
  s.typed o.t fun src =>
    s.withTpr (s.cur.sreg (o.bp ++ 0#1)) (fun p => (bfpOfCode p.fmt).isSome) fun p s =>
      let b := (bfpOfCode p.fmt).getD 8
      let half (h : Nat) := bfpBlock b p
        ((List.range 32).map fun i => readFmt src (element src (lane (s.cur.vreg o.a) (32 * h + i))))
        ((List.range 32).map fun i =>
          kxDraw s.curTask.seed s.curTask.id (s.cur.sreg (o.bp ++ 1#1) + BitVec.ofNat 64 (32 * h + i)).toNat p.stream)
      let lo := half 0
      let hi := half 1
      s.lanes (.vquant o) o.d fun l =>
        let (e, ms, fl) := if l < 32 then lo else hi
        (BitVec.ofNat 32 (e % 256 * 2 ^ 24 + wrapInt 24 (ms.getD (l % 32) 0)), fl)

/-- The XA at an IA of the own slice. -/
def State.xaAt (s : State) (ia : Nat) : Xa := Xa.ofBytes (s.readIA ia 64)

/-- A word that changes the XA at a VA as one atomic update (R419); it retires when that is performed. -/
def State.xaUpdate (s : State) (i : Instr) (va : W64) (f : Xa → Xa × FlagSet) : Outcome :=
  s.checked .a (s.exactOperand va 64 true) fun ia =>
    let (x, fl) := f (s.xaAt ia)
    ((s.perform ia x.toBytes).setFlags s.here fl).retire (view i) false .none

/-- R439: reduces the lanes to a scalar, or adds them into an XA. -/
def execVred (o : RDAO) (s : State) : Outcome :=
  s.typed o.t fun f =>
    let es := elements f (s.cur.vreg o.a)
    if o.op = 6#5 then
      s.require .a (decide (2 ≤ o.t.toNat)) illegalOperand
        (s.xaUpdate (.vred o) (s.cur.sreg o.d) fun x => (x.addAll f es, 0))
    else match reduce o.op.toNat f es with
      | none => s.trapWord .a illegalOperand
      | some (r, fl) => (s.setFlags s.here fl).retire (view (.vred o)) false (.s o.d r)

/-- One lane of VXACC (R447): adds the exact product to the XA, or marks it. -/
def xaccLane (sc : Num) (x : Xa × FlagSet) (v : Num) : Xa × FlagSet :=
  match v, sc with
  | .nan a, .nan b => ({ x.1 with flags := x.1.flags ||| 1#4 ||| (if a || b then 8#4 else 0#4) }, x.2)
  | .nan a, _ => ({ x.1 with flags := x.1.flags ||| 1#4 ||| (if a then 8#4 else 0#4) }, x.2)
  | _, .nan b => ({ x.1 with flags := x.1.flags ||| 1#4 ||| (if b then 8#4 else 0#4) }, x.2)
  | _, _ =>
    match (numMul v sc).1 with
    | .nan _ => ({ x.1 with flags := x.1.flags ||| 9#4 }, x.2)
    | .inf neg => ({ x.1 with flags := x.1.flags ||| (if neg then 4#4 else 2#4) }, x.2)
    | .fin neg m e =>
      if cmpMag m e 1 160 != .lt then ({ x.1 with flags := x.1.flags ||| 9#4 }, x.2 ||| Flag.overflow)
      else
        let (t, ix) := roundAt .rtz m e (-160)
        (x.1.add (.fin neg t (-160)), x.2 ||| raiseIf ix Flag.inexact)

/-- R447: adds the exact products of a scale and each lane into an XA. -/
def execVxacc (o : RRR) (s : State) : Outcome :=
  let sc := readFp Fp.fp32 (wfield (s.cur.sreg o.b) 0 32)
  s.xaUpdate (.vxacc o) (s.cur.sreg o.d) fun x =>
    (elements (.fp Fp.fp32) (s.cur.vreg o.a)).foldl (fun x e => xaccLane sc x (readFp Fp.fp32 e)) (x, 0)

/-- R448: clears an XA. It reads nothing: an uncorrectable unit that it writes whole gets fresh check bits (R147). -/
def execXclr (o : RA) (s : State) : Outcome :=
  let va := s.cur.sreg o.a
  s.checked .a (s.exactPlace va 64 true) fun xs =>
    let ia := (xs.map (·.ia)).headD 0
    match s.blockedUnit ia 64 false with
    | some u => s.trapWord .a (memTrap u va)
    | none => (s.perform ia Xa.zero.toBytes).retire (view (.xclr o)) false .none

/-- R448: adds every lane into an XA; .i8 and .i16 are reserved fn values. -/
def execXaddv (o : RABF) (s : State) : Outcome :=
  s.require .a (decide (2 ≤ o.fn.toNat)) illegalOp
    (s.typed o.fn fun f => s.xaUpdate (.xaddv o) (s.cur.sreg o.a) fun x => (x.addAll f (elements f (s.cur.vreg o.b)), 0))

/-- R448: reads an XA rounded once; it records no DETCAUSE event. -/
def execXrd (o : RDAT) (s : State) : Outcome :=
  s.typedFp o.t fun f =>
    s.checked .a (s.exactOperand (s.cur.sreg o.a) 64 false) fun ia =>
      let (r, fl) := (s.xaAt ia).read f
      (s.setFlags s.here fl).retire (view (.xrd o)) false (.s o.d (BitVec.ofNat 64 r))

/-- Index in `banks` of entry e of the bank with the VIS role, or the WORK role (R210). -/
def Tile.bankIndex (t : Tile) (vis : Bool) (e : Nat) : Nat := (if t.visBank == vis then 4096 else 0) + e

/-- A VIS entry of tile k. -/
def State.visEntry (s : State) (k e : Nat) : AW := Tab.get 0 (s.tile k).banks ((s.tile k).bankIndex true e)

/-- R337: 64 VIS entries into a vector, through aw_read, or as they stand in arrival order. -/
def execAccrd (o : RRR) (s : State) : Outcome :=
  let e := (s.cur.sreg o.a).toNat
  let c := s.cur.sreg o.b
  s.require .a (decide (e ≤ 4032) && wfield c 17 47 == 0) illegalOperand
    (s.lanes (.accrd o) o.d fun l =>
      let w := s.visEntry s.here (e + l)
      if c.getLsbD 16 then (w.setWidth 32, 0)
      else
        let (r, fl) := awRead w (sgn 16 c.toNat) (.fp Fp.fp32) pFp32 0
        (BitVec.ofNat 32 r, fl))

/-- Entry of a bank set; a zero entry that is not listed stays so. -/
def bankPut (b : Tab AW) (i : Nat) (w : AW) : Tab AW := if w = 0 ∧ Tab.get 0 b i = 0 then b else Tab.put b i w

/-- R336: clears a run of VIS entries. -/
def execAccclr (o : RAB) (s : State) : Outcome :=
  let e := (s.cur.sreg o.a).toNat
  let c := (s.cur.sreg o.b).toNat
  s.require .a (decide (e ≤ 4095 ∧ c ≤ 4096 - e)) illegalOperand
    (let xs := (List.range c).map fun i => (s.tile s.here).bankIndex true (e + i)
     let s := s.modTask s.curTaskNum fun t => t.touch s.cur.rank xs
     (s.modTile s.here fun t => { t with banks := xs.foldl (fun b x => bankPut b x 0) t.banks }).retire
       (view (.accclr o)) false .none)

end Sys2Proof.Machine
end

