-- ==== Sys2Proof/Machine/Commands.lean ====
section
/-! DEFINITION. What every engine command shares (R84 to R92, R160 to R164, R190, R276): eligibility and start, the checks
of an operand, shadow writes, publish, completion and the end by fault. -/

namespace Sys2Proof.Machine

/-- A command of tile k while its engine works on it. -/
structure Run where
  s : State
  k : Nat
  c : Cmd
  fault : Option CmdFault := none
  /-- The engine waits: for a ring slot, a page, a member. -/
  waits : Bool := false

/-- KIND (R84). -/
def Cmd.kind (c : Cmd) : Nat := fieldAt c.bytes 0 1
/-- FLAGS.RESUME. -/
def Cmd.resume (c : Cmd) : Bool := bitAt (fieldAt c.bytes 1 1) 0
/-- FLAGS.SIG_ON_FAULT. -/
def Cmd.sigOnFault (c : Cmd) : Bool := bitAt (fieldAt c.bytes 1 1) 1
/-- SLACK, zero once the command has aged (R184). -/
def Cmd.slack (c : Cmd) : Nat := if c.slackZero then 0 else fieldAt c.bytes 2 1
/-- STAMP. -/
def Cmd.stamp (c : Cmd) : Nat := fieldAt c.bytes 4 4
/-- ID. -/
def Cmd.id (c : Cmd) : W32 := BitVec.ofNat 32 (fieldAt c.bytes 0x18 4)
/-- A field of the record, as a number. -/
def Cmd.num (c : Cmd) (o n : Nat) : Nat := fieldAt c.bytes o n
/-- A VA field of the record. -/
def Cmd.va (c : Cmd) (o : Nat) : W64 := wordAt c.bytes o

/-- Pips that a 64-bit mask names. -/
def pipsOf (m : Nat) : List Nat := (List.range 64).filter (bitAt m)

/-- IA of pip n of tile k (R84). -/
def State.pipIA (s : State) (k n : Nat) : Nat := s.sliceBase k + 0xFFE00 + 8 * n

/-- A pip. -/
def State.pip (s : State) (k n : Nat) : W64 := BitVec.ofNat 64 (s.readNum (s.pipIA k n) 8)

/-- Every pip that WAITMASK names is nonzero (R87). -/
def State.eligible (s : State) (k : Nat) (c : Cmd) : Bool := (pipsOf (c.num 8 8)).all fun n => s.pip k n != 0

/-- A command of the machine. -/
def State.findCmd (s : State) (r : CmdRef) : Option Cmd := (s.tile r.tile).cmds.find? fun c => c.seq == r.seq

/-- Replaces a command. -/
def State.setCmd (s : State) (k : Nat) (c : Cmd) : State :=
  s.modTile k fun t => { t with cmds := t.cmds.map fun x => if x.seq = c.seq then c else x }

/-- Takes a command out of its tile. -/
def State.removeCmd (s : State) (k seq : Nat) : State :=
  s.modTile k fun t => { t with cmds := t.cmds.filter fun x => x.seq != seq }

/-- The engines of tile k move: the package runs, and the tile is not stopped (R92, R280). -/
def State.enginesRun (s : State) (k : Nat) : Bool :=
  !s.halted k && !s.pkg.packageError && s.pkg.power == .on

/-- No earlier command stands queued in the same queue (R87). -/
def headOfQueue (cmds : List Cmd) (c : Cmd) : Bool :=
  cmds.all fun x => !(x.state == .queued && x.engine == c.engine && x.queue == c.queue && decide (x.seq < c.seq))

/-- Commands of a kind that run. -/
def runningOf (cmds : List Cmd) (p : Cmd → Bool) : Nat := (cmds.filter fun x => x.state == .running && p x).length

/-- The engine has room for a command (R184, R192, R211, R469). -/
def State.engineFree (s : State) (k : Nat) (c : Cmd) : Bool :=
  let cmds := (s.tile k).cmds
  match c.engine with
  | 0 => decide ((cmds.filter fun x => x.engine == 0 && (x.state == .running || x.state == .publishing)).length < 1024)
  | 1 => runningOf cmds (fun x => x.engine == 1 && x.kind == c.kind) == 0 &&
      ((s.tile k).swaps.all fun w => decide (c.born < w.2)) && !s.swapDue k
  | 2 => runningOf cmds (fun x => x.engine == 2) == 0
  | 4 => runningOf cmds (fun x => x.engine == 4) == 0
  | _ => true

/-- The task of a command runs; its commands do not start while it is pre-empted. -/
def State.taskRuns (s : State) (c : Cmd) : Bool :=
  match (s.task c.task).state with
  | .running => true
  | .retiring => true
  | _ => false

/-- A queued command that its engine could start now (R87). -/
def State.couldStart (s : State) (k : Nat) (c : Cmd) : Bool :=
  s.enginesRun k && s.taskRuns c && c.state == .queued && s.eligible k c && s.engineFree k c &&
    (s.tile k).cmds.all (fun x => !(x.state == .stopped && x.engine == c.engine && s.taskRuns x)) &&
    (c.engine == 0 || headOfQueue (s.tile k).cmds c)

/-- SLACK of a queued command: 0 once it has been eligible for 65,536 FRAME cycles (R184). -/
def State.slackNow (s : State) (c : Cmd) : Nat :=
  match c.eligibleAt with
  | some since => if 65536 ≤ (s.frame - since).toNat then 0 else c.slack
  | none => c.slack

/-- Its engine prefers command x to command c (R87, R184, R192, R469). -/
def State.prefers (s : State) (x c : Cmd) : Bool :=
  if c.engine = 0 then decide (s.slackNow x < s.slackNow c ∨ s.slackNow x = s.slackNow c ∧ x.seq < c.seq) else decide (x.seq < c.seq)

/-- FRAME cycles from a command's stamp to now; 2^31 or more while the stamp lies ahead (R92). -/
def State.stampLate (s : State) (c : Cmd) : Nat := (wfield s.frame 0 32 + 2 ^ 32 - c.stamp) % 2 ^ 32

/-- FRAME cycles by which a tile's edge may lie behind the stamp: less than one tile clock period (R24, R92). -/
def State.stampSlack (s : State) : Nat := if s.pkg.envActive = 0 then 0 else 1

/-- A queued stamped command that can start at this edge, and whose edge is not one at which its engine has made a stamped start
(R92). -/
def State.stampStarts (s : State) (k : Nat) (c : Cmd) : Bool :=
  c.stamp != 0 && !c.missed && decide (s.stampLate c ≤ s.stampSlack) && s.couldStart k c &&
    match Tab.find (s.tile k).stampStarts c.engine with
    | some f => decide (s.stampLate c < (s.frame - f).toNat)
    | none => true

/-- No other stamped command of its engine starts at this edge before it (R92). -/
def State.stampFirst (s : State) (k : Nat) (c : Cmd) : Bool :=
  !((s.tile k).cmds.any fun x => x.engine == c.engine && decide (x.seq < c.seq) && s.stampStarts k x)

/-- The command that its engine starts next: a stamped one at its edge, else the one that it prefers (R87, R92). -/
def State.engineNext (s : State) (k : Nat) (c : Cmd) : Bool :=
  if c.stamp ≠ 0 then s.stampStarts k c && s.stampFirst k c
  else s.couldStart k c &&
    (s.tile k).cmds.all fun x =>
      !(x.engine == c.engine && (s.stampStarts k x || (x.stamp == 0 && (c.engine != 1 || x.kind == c.kind) && s.prefers x c && s.couldStart k x)))

/-- The start of x comes before that of c: a stamped one before every unstamped one (R92), else the one whose ECMD retired first
(R88). -/
def startsSooner (x c : Cmd) : Bool := if (x.stamp == 0) == (c.stamp == 0) then decide (x.seq < c.seq) else c.stamp == 0

/-- The starts of a tile come in their order (R88, R92): no sooner one is to be made now. One that waits, for a page or for the other
members of its collective, holds back its own engine only. -/
def State.startTurn (s : State) (k : Nat) (c : Cmd) : Bool :=
  s.engineNext k c && (s.tile k).cmds.all fun x => !(startsSooner x c && !x.unset && s.engineNext k x)

/-- The unstamped command that its tile starts next (R87, R88). -/
def State.startsNext (s : State) (k : Nat) (c : Cmd) : Bool := c.stamp == 0 && s.startTurn k c

/-- Some command of tile k is to start now (R88). -/
def State.startDue (s : State) (k : Nat) : Bool := (s.tile k).cmds.any fun c => !c.unset && s.engineNext k c

/-- The watches of pips whose tests pass, and come after no start, are answered (R56, R88). -/
def State.lateWatches (s : State) : State :=
  (s.watches.filter fun w => s.pipAwaited w.ia && !s.startDue (localOf w.ia / 0x100000)).foldl (fun s w => s.testWatch w) s

/-- FRAME at which each queued copy command became eligible (R184); forgotten while it is not. -/
def State.noteEligible (s : State) : State :=
  { s with tiles := s.tiles.map fun t => (t.1, { t.2 with cmds := t.2.cmds.map fun c =>
      if c.engine = 0 ∧ c.state = .queued then
        { c with eligibleAt := if s.eligible t.1 c then (if c.eligibleAt.isSome then c.eligibleAt else some s.frame) else none }
      else c }) }

/-- Tile cycles that a queued command has been pending on each pip of its WAITMASK, with `d` more for those that are zero (R284). -/
def State.waitsOf (s : State) (k : Nat) (d : W64) (c : Cmd) : List (Nat × W64) :=
  (pipsOf (c.num 8 8)).filterMap fun n =>
    let w := ((c.waits.find? fun w => w.1 == n).map (·.2)).getD 0 + if s.pip k n = 0 then d else 0
    if w = 0 then none else some (n, w)

/-- `d` cycles of every tile that is not stopped pass for the queued commands (R280, R284). -/
def State.noteWaits (s : State) (d : W64) : State :=
  { s with tiles := s.tiles.map fun t => (t.1, { t.2 with cmds := t.2.cmds.map fun c =>
      if c.state = .queued ∧ ¬ t.2.stopped then { c with waits := s.waitsOf t.1 d c } else c }) }

/-- Decrements every pip of WAITMASK (R87); each wait that took time is traced (R284). -/
def State.takePips (s : State) (k : Nat) (c : Cmd) : State :=
  let s := c.waits.foldl (fun s w => s.traceWait k (0x10 + c.engine) w.1 (s.tileCycles k - w.2) c.id) s
  let s := s.traceOther k 6 c.slot 4
  (pipsOf (c.num 8 8)).foldl (fun s n => s.perform (s.pipIA k n) (wordBytes (s.pip k n - 1))) s

/-- Raises every pip of SIGMASK, with the command as its setter (R89, R284). -/
def State.signalPips (s : State) (k : Nat) (c : Cmd) : State :=
  (pipsOf (c.num 0x10 8)).foldl (fun s n => s.addPip (s.pipIA k n) 1 (k, s.chip, 1, c.engine)) s

/-- Notes a fault, unless one stands already. -/
def Run.fail (r : Run) (f : CmdFault) : Run := if r.fault.isSome then r else { r with fault := some f }

/-- A malformed record (R191, R193). -/
def malformed : CmdFault := { cause := 9, sub := 2 }
/-- A protected destination (R190). -/
def protectedFault (el : Nat) : CmdFault := { cause := 9, sub := 1, element := el }
/-- A lease fault of a command (R267). -/
def Run.leaseFault (r : Run) (el : Nat) (va : W64) : CmdFault :=
  { cause := 4, sub := if r.c.engine = 0 then 7 else 0, element := el, addr := va }
/-- A memory error met by a command (R147, R473). -/
def Run.memFault (r : Run) (el : Nat) (va : W64) (u : Nat × Nat) : CmdFault :=
  { cause := 0xA, sub := if r.c.engine = 0 then 8 else 0, element := el, addr := va, detail := unitDetail u }

/-- A check: the work goes on when it holds. -/
def Run.check (r : Run) (ok : Bool) (f : CmdFault) (k : Run → Run) : Run :=
  if r.fault.isSome then r else if ok then k r else r.fail f

/-- `ia` and the lease check for a command (R44, R119, R120). -/
def Run.iaOf (r : Run) (va : W64) (n : Nat) (write : Bool) : Option Nat :=
  match r.s.ia r.c.ranges r.c.super va n write with
  | some a => if r.c.super || r.s.leased (r.s.task r.c.task) a n write then some a else none
  | none => none

/-- The IA of an operand unit: a lease fault at the element, or a wait for its page. -/
def Run.unit (r : Run) (el : Nat) (va : W64) (n : Nat) (write : Bool) (k : Run → Nat → Run) : Run :=
  if r.fault.isSome || r.waits then r
  else match r.iaOf va n write with
    | none => r.fail (r.leaseFault el va)
    | some a =>
      if r.s.stoppedSlice a then { r with waits := true }
      else if r.s.pageWaits a n write then
        let s := if r.s.placed (localOf a) n write then r.s
          else r.s.raiseFault (r.s.firstUnplaced (localOf a) n write) write (r.s.task r.c.task).job (.command r.k r.c.seq)
        { r with s := s, waits := true }
      else k r a

/-- Step 5 of R370 refuses a user command's write: it reaches a live region of its slice (R125, R270). -/
def Run.liveHit (r : Run) (a n : Nat) : Bool :=
  !r.c.super && r.s.regionOf a == some .slice && chipOf a == r.s.chip &&
    touches (r.s.liveRegions (localOf a / 0x100000)) (localOf a) n

/-- Some other command with a shadow to publish has the bytes in its destination (R162, R185). -/
def State.shadowedBut (s : State) (k seq ia n : Nat) : Bool :=
  s.tiles.any fun t => t.2.cmds.any fun c =>
    c.pending && !(t.1 == k && c.seq == seq) && c.extent.any fun x => overlaps ia n x.1 x.2

/-- PENDING_READ of a command's read (R162). -/
def Run.note (r : Run) (a n : Nat) : Run :=
  if r.s.shadowedBut r.k r.c.seq a n then { r with s := r.s.logDet r.k 3 true r.c.id } else r

/-- A command's own read: of bytes that its publish at a pre-emption has replaced, what they held before (R90, R185; log 67). -/
def Cmd.overlay (c : Cmd) (a : Nat) (bs : List Byte) : List Byte :=
  c.before.foldr (fun w bs =>
    if overlaps a bs.length w.1 w.2.length then
      bs.zipIdx.map fun b => if w.1 ≤ a + b.2 ∧ a + b.2 < w.1 + w.2.length then w.2.getD (a + b.2 - w.1) b.1 else b.1
    else bs) bs

/-- Reads an operand unit. -/
def Run.read (r : Run) (el : Nat) (va : W64) (n : Nat) (k : Run → List Byte → Run) : Run :=
  r.unit el va n false fun r a =>
    match r.s.uncorrectable a n with
    | some u => r.fail (r.memFault el va u)
    | none => k (r.note a n) (r.c.overlay a (r.s.readIA a n))

/-- Writes an element's bytes into the shadow (R161). -/
def Run.write (r : Run) (el : Nat) (va : W64) (bs : List Byte) (k : Run → Run) : Run :=
  r.unit el va bs.length true fun r a =>
    match r.s.blockedUnit a bs.length false with
    | some u => r.fail (r.memFault el va u)
    | none => k { r with c := { r.c with shadow := r.c.shadow ++ [(a, bs)] } }

/-- Raises arithmetic flags on the tile and in the command's record (R358). -/
def Run.flags (r : Run) (f : BitVec 8) : Run :=
  { r with s := r.s.setFlags r.k f, c := { r.c with work := { r.c.work with flags := r.c.work.flags ||| f } } }

/-- Changes what the command's engine holds. -/
def Run.modWork (r : Run) (f : CmdWork → CmdWork) : Run := { r with c := { r.c with work := f r.c.work } }

/-- The element index of a command. -/
def Run.pos (r : Run) : Nat := r.c.progress.toNat

/-- The command has performed every element below n. -/
def Run.reach (r : Run) (n : Nat) : Run := { r with c := { r.c with progress := BitVec.ofNat 64 n } }

/-- A protected region of tile k (R125, R128, R190, R270): the flag window, carved queues, trap frames, open rings. -/
def State.tileProtected (s : State) (k a n : Nat) : Bool :=
  overlaps a n (0x100000 * k + 0xFFE00) 512 || touches (s.liveRegions k) a n ||
    (s.tile k).rings.any fun r => overlaps a n (localOf r.base) (s.ringQueue r).span

/-- A destination overlaps a protected region on some slice that it touches; of another package only the flag windows are
known. -/
def State.protected_ (s : State) (ia n : Nat) : Bool :=
  decide (0 < n) && s.regionOf ia == some .slice &&
    (List.range (n / 0x100000 + 2)).any fun i =>
      let k := localOf ia / 0x100000 + i
      if chipOf ia = s.chip then s.tileProtected k (localOf ia) n else overlaps (localOf ia) n (0x100000 * k + 0xFFE00) 512

/-- A range of VAs cut where ranges can begin or end, at 64 KiB (R119). -/
def blocksOf (va : W64) (n : Nat) : List (W64 × Nat) :=
  let first := min n (0x10000 - va.toNat % 0x10000)
  (if n = 0 then [] else [(va, first)]) ++
    (List.range ((n - first + 0xFFFF) / 0x10000)).map fun i =>
      (va + BitVec.ofNat 64 (first + 0x10000 * i), min 0x10000 (n - first - 0x10000 * i))

/-- The IAs of ranges of VAs, as far as they translate for a read or a write: no byte elsewhere can be accessed (R119). -/
def Run.spans (r : Run) (write : Bool) (xs : List (W64 × Nat)) : List (Nat × Nat) :=
  (xs.flatMap fun x => blocksOf x.1 x.2).filterMap fun x => (r.s.ia r.c.ranges r.c.super x.1 x.2 write).map fun a => (a, x.2)

/-- Pieces of a destination, for the extent and its check (R161, R190). -/
def Run.pieces (r : Run) (xs : List (W64 × Nat)) : List (Nat × Nat) := r.spans true xs

/-- Adds pieces to the destination extent; one that is protected refuses the command (R190). -/
def Run.extent (r : Run) (xs : List (Nat × Nat)) (k : Run → Run) : Run :=
  r.check (!xs.any fun x => r.s.protected_ x.1 x.2) (protectedFault 0)
    fun r => k { r with c := { r.c with extent := r.c.extent ++ xs } }

/-- An object of the own slice: aligned, translated; `none` otherwise. -/
def Run.own (r : Run) (va : W64) (n align : Nat) (write : Bool) : Option Nat :=
  match r.iaOf va n write with
  | some a => if a % align = 0 ∧ r.s.inSlice r.k a ∧ r.s.inSlice r.k (a + n - 1) then some a else none
  | none => none

/-- The completion record that a body names: its place, or a malformed or protected one (R161, R186, R189). -/
def Run.crecAt (r : Run) (o n : Nat) (bad : CmdFault) (k : Run → Run) : Run :=
  let va := r.c.va o
  if r.fault.isSome then r
  else if va = 0 then k r
  else match r.own va n n true with
    | none => r.fail bad
    | some a =>
      if r.s.protected_ a n then
        let r' := k r
        r'.fail (protectedFault 0)
      else k { r with c := { r.c with crec := some a, extent := r.c.extent ++ [(a, n)] } }

/-- Reserved bytes of a record are zero (R3). -/
def Run.zero (r : Run) (o n : Nat) : Bool := allZero r.c.bytes o n

/-- The chips other than this one that hold bytes of a publish. -/
def State.awayChips (s : State) (ws : List (Nat × List Byte)) : List Nat :=
  ((ws.map fun w => chipOf w.1).filter (· != s.chip)).eraseDups

/-- Who a command is, to a message. -/
def State.originOf (s : State) (k : Nat) (c : Cmd) : Origin :=
  ⟨s.chip, k, c.task, c.rank, c.slot, 0, (s.job (s.task c.task).job).track, (s.task c.task).job, (s.task c.task).id, c.super⟩

/-- The first unit that keeps a write of a publish in this package from being performed (R29, R147). -/
def State.blockedWrite (s : State) (ws : List (Nat × List Byte)) : Option (Nat × Nat) :=
  ws.findSome? fun w => s.blockedUnit w.1 w.2.length false

/-- The part of a publish that lies in this package, performed at once (R161), but for what an offline slice or an uncorrectable unit
keeps from being performed (R29, R147). -/
def State.publishHere (s : State) (ws : List (Nat × List Byte)) : State :=
  (ws.filter fun w => chipOf w.1 == s.chip && (s.blockedUnit w.1 w.2.length false).isNone).foldl (fun s w => s.store w.1 w.2) s

/-- A publish of shadow writes: performed at once in this package, sent whole to each other home chip, which acknowledges it
(R161). -/
def State.publish (s : State) (k : Nat) (c : Cmd) (ws : List (Nat × List Byte)) : State :=
  ((s.awayChips ws).foldl (fun s a => s.send a (s.originOf k c) (.publish (ws.filter fun w => chipOf w.1 == a))) s).publishHere ws

/-- The fault record of a command (R275, R276). -/
def State.commandRecord (s : State) (k : Nat) (c : Cmd) (f : CmdFault) : FaultRec :=
  { cause := f.cause, sub := f.sub, source := 0x10 + c.engine
    flags := (if c.super then 2 else 0) + (if (c.super && f.addr != 0) || f.isIA then 4 else 0)
    addr := f.addr, cmd := c.id, task := (s.task c.task).id, job := (s.task c.task).job, tile := k
    element := if f.cause = 3 then 0xFFFFFFFFFFFFFFFF else BitVec.ofNat 64 f.element, detail := f.detail }

/-- The last steps of a command whose writes are published (R89, R276): SIGMASK, and the fault record. The pips of a refused EPIL are
untouched (R367). -/
def State.finishCommand (s : State) (k : Nat) (c : Cmd) (f : Option CmdFault) : State :=
  let s := (s.removeCmd k c.seq).traceOther k 7 c.slot 4
  let s := match f with
    | some f => s.postRecord (s.commandRecord k c f)
    | none => s
  (if f.isNone || (c.sigOnFault && !(c.refused && c.kind == 8)) then s.signalPips k c else s).maybeRetire c.task

/-- An earlier command of the same non-copy queue, or of the mask unit, has not completed (R89, R230). -/
def laterInOrder (cmds : List Cmd) (c : Cmd) : Bool :=
  c.engine != 0 && cmds.any fun x =>
    (x.state == .running || x.state == .publishing) && decide (x.started < c.started) && x.engine == c.engine &&
      (x.queue == c.queue || c.engine == 3)

/-- The fault of a command whose publish fails at an IA (R89, R147, R473). -/
def Cmd.publishFault (c : Cmd) (cause a : Nat) (detail : List Byte) : CmdFault :=
  { cause := cause, sub := if c.engine ≠ 0 then 0 else if cause = 4 then 7 else 8, element := c.progress.toNat
    addr := BitVec.ofNat 64 a, detail := detail, isIA := true }

/-- A publish ends in this package, every other chip having acknowledged its part: the bytes that lie here and the completion record
(R161, R276), then the command's last steps. -/
def State.finishPublish (s : State) (k : Nat) (c : Cmd) : State :=
  let f := c.fault <|> (s.blockedWrite c.shadow).map fun u => c.publishFault 0xA u.1 (unitDetail u)
  let record := c.crec.toList.map fun a => (a, if f.isSome then c.records.2 else c.records.1)
  (s.publishHere (c.shadow ++ record)).finishCommand k c f

/-- A command's publish: the parts of other home chips leave first, and the part here, with the completion record, is held until they
are acknowledged (R161). -/
def State.publishCommand (s : State) (k : Nat) (c : Cmd) : State :=
  let away := s.awayChips c.shadow
  if away.isEmpty then s.finishPublish k c
  else
    let acks := (List.range away.length).map (s.msgNext + ·)
    (away.foldl (fun s a => s.send a (s.originOf k c) (.publish (c.shadow.filter fun w => chipOf w.1 == a))) s).setCmd k
      { c with shadow := c.shadow.filter fun w => chipOf w.1 == s.chip, acks := acks }

/-- Its turn to publish has not come: an earlier command of its queue has not completed (R89), or a chip has not acknowledged what it
has published (R161). -/
def State.publishWaits (s : State) (k : Nat) (c : Cmd) : Bool := laterInOrder (s.tile k).cmds c || !c.acks.isEmpty

/-- The end of a command (R89, R161, R164, R276): publish, completion record, SIGMASK, and the fault record; `record` gives the
completion record for a STATUS. A command that its start checks refuse writes nothing, no completion record either (R190, R191,
R213, R224, R367; log 23). While its turn has not come the command stands as publishing. -/
def State.endCommand (s : State) (k : Nat) (c : Cmd) (f : Option CmdFault) (refused : Bool) (record : Nat → List Byte) : State :=
  let c := { c with
    state := .publishing, fault := f, refused := refused, shadow := if refused then [] else c.shadow
    crec := if refused then none else c.crec, records := (record 0, record 1) }
  if s.publishWaits k c then s.setCmd k c else s.publishCommand k c

/-- A publishing command goes on when its turn has come. -/
def State.concludeCommand (s : State) (k : Nat) (c : Cmd) : State :=
  if c.state ≠ .publishing ∨ s.publishWaits k c then s else s.publishCommand k c

/-- A chip has met an error in the publish of a command that message `num` carried: the command ends by that fault (R89, R147). -/
def Cmd.failPublish (c : Cmd) (num cause a : Nat) (detail : List Byte) : Cmd :=
  if c.acks.contains num && c.fault.isNone then { c with fault := some (c.publishFault cause a detail) } else c

/-- The same for whichever command it is. -/
def State.failPublish (s : State) (num cause a : Nat) (detail : List Byte) : State :=
  { s with tiles := s.tiles.map fun t => (t.1, { t.2 with cmds := t.2.cmds.map fun c => c.failPublish num cause a detail }) }

/-- A chip has acknowledged the publish that message `num` carried (R161). -/
def State.ackPublish (s : State) (num : Nat) : State :=
  s.tiles.foldl (fun s t => t.2.cmds.foldl (fun s c =>
    if c.acks.contains num then
      let c := { c with acks := c.acks.erase num }
      (s.setCmd t.1 c).concludeCommand t.1 c
    else s) s) s

/-- What a kind of command does: the checks at start that refuse it, what it does once started, one element, the writes that
belong to no element and go with its end, how it stops and restarts around a pre-emption, and its completion record for a
STATUS. -/
structure Unit_ where
  check : Run → Run
  setup : Run → Run
  element : Run → Run
  /-- A pre-emption stops it at an element, at or before the one named (R164, R217). -/
  stop : Nat → Run → Run := fun _ r => r
  /-- What it does when it restarts (R459). -/
  resume : Run → Run := id
  final : Run → List (Nat × List Byte) := fun _ => []
  record : Cmd → Nat → List Byte

/-- A command that faults, or has no element left, ends (R89, R90). -/
def Run.settleEnd (u : Unit_) (r : Run) : State :=
  match r.fault with
  | some f =>
    let c := { r.c with progress := BitVec.ofNat 64 f.element, shadow := r.c.shadow ++ u.final r }
    r.s.endCommand r.k c (some f) false (u.record c)
  | none =>
    if !r.waits ∧ r.c.work.total ≤ r.pos then
      r.s.endCommand r.k { r.c with shadow := r.c.shadow ++ u.final r } none false (u.record r.c)
    else r.s.setCmd r.k r.c

/-- What a piece of a command's work that has to wait leaves: the page fault that it raised, and nothing else; it is done again
later. -/
def State.keepFault (s t : State) : State :=
  { s with pkg := { s.pkg with pageFaults := t.pkg.pageFaults, faultNext := t.pkg.faultNext }, out := t.out }

/-- What a command's engine does at its start, once the command runs; while it waits it is still to be done. -/
def State.setupCommand (u : Unit_) (s : State) (k : Nat) (c : Cmd) : State :=
  let r := u.setup { s := s.setCmd k { c with unset := false }, k := k, c := { c with unset := false } }
  match r.fault with
  | some _ => r.settleEnd u
  | none =>
    if r.waits then (s.keepFault r.s).setCmd k { c with unset := true }
    else if r.c.work.total ≤ r.pos then r.settleEnd u else r.s.setCmd k r.c

/-- A command starts (R87, R191): the checks, then the pips, then what its engine does at its start. A check that has to wait for a
page, or for other members, is made again. -/
def State.beginCommand (u : Unit_) (s : State) (k : Nat) (c : Cmd) : State :=
  let r := u.check { s := s.popQueue k c, k := k, c := c }
  match r.fault with
  | some f =>
    let next := (r.s.tile k).startNext
    (r.s.modTile k fun t => { t with startNext := t.startNext + 1 }).endCommand k { r.c with started := next, extent := [] } (some f) true (u.record r.c)
  | none =>
    if r.waits then (s.keepFault r.s).setCmd k { c with unset := true }
    else
      let c := { r.c with state := .running, unset := false, started := (r.s.tile k).startNext }
      let s := (r.s.takePips k c).modTile k fun t => { t with startNext := t.startNext + 1 }
      s.setupCommand u k c

/-- A stopped command that its engine may restart: its task runs, the engine is free, and entries before it have restarted
(R459). -/
def State.resumes (s : State) (k : Nat) (c : Cmd) : Bool :=
  c.state == .stopped && s.enginesRun k && s.taskRuns c && s.engineFree k c &&
    (s.tile k).cmds.all fun x => !(x.state == .stopped && x.task == c.task && x.rank == c.rank && decide (x.seq < c.seq))

/-- A stopped command restarts: it takes no pip and applies no STAMP (R459). -/
def State.resumeCommand (u : Unit_) (s₀ : State) (k : Nat) (c : Cmd) : State :=
  let c := { c with state := .running, started := (s₀.tile k).startNext }
  let s := (s₀.setCmd k c).modTile k fun t => { t with startNext := t.startNext + 1 }
  let r := u.resume { s := s, k := k, c := c }
  match r.fault with
  | some _ => r.settleEnd u
  | none => if r.waits then s₀.keepFault r.s else r.s.setCmd k r.c

/-- One element: one that faults leaves nothing of its own in the shadow (R164). -/
def Run.step (u : Unit_) (r : Run) : Run :=
  let x := u.element r
  match x.fault with
  | some f => if f.element ≤ r.pos then { x with c := { x.c with shadow := r.c.shadow } } else x
  | none => x

/-- The event of a kind's row: the command starts, or performs its next element. -/
def State.commandEvent (u : Unit_) (s : State) (kinds : Nat) (ref : CmdRef) : Outcome :=
  match s.findCmd ref with
  | none => .next s
  | some c =>
    if c.kind ≠ kinds ∨ !s.enginesRun ref.tile then .next s
    else match c.state with
    | .queued =>
      if s.startsNext ref.tile c && !c.missed || c.unset && s.couldStart ref.tile c then .next (s.beginCommand u ref.tile c) else .next s
    | .running =>
      if c.unset then .next (s.setupCommand u ref.tile c)
      else if c.work.total ≤ c.progress.toNat ∨ (c.engine = 3 ∧ laterInOrder (s.tile ref.tile).cmds c) then .next s
      else
        let r := Run.step u { s := s, k := ref.tile, c := c }
        match r.fault with
        | some _ => .next (r.settleEnd u)
        | none => .next (if r.waits then s.keepFault r.s else r.s.setCmd ref.tile r.c)
    | .publishing => .next (s.concludeCommand ref.tile c)
    | .stopped => if s.resumes ref.tile c then .next (s.resumeCommand u ref.tile c) else .next s

/-- Every element that is left, while none faults or waits; one that waits has had no effect. -/
def Run.rest (u : Unit_) : Nat → Run → Run
  | 0, r => r
  | n + 1, r =>
    if r.fault.isSome || r.waits || decide (r.c.work.total ≤ r.pos) then r
    else
      let x := r.step u
      if x.waits && x.fault.isNone then { r with s := r.s.keepFault x.s, waits := true } else x.rest u n

/-- The completion of a running command (R89): its remaining elements, then its publish. -/
def State.completeCommand (u : Unit_) (s : State) (k : Nat) (c : Cmd) : State :=
  (Run.rest u (c.work.total - c.progress.toNat) { s := s, k := k, c := c }).settleEnd u

/-- The 32-bit numbers of a byte list. -/
def indexes (bs : List Byte) : List Nat := (List.range (bs.length / 4)).map fun i => fieldAt bs (4 * i) 4

/-- Copy completion record (R189). Where a RESUME's PROGRESS lies beyond the elements, DONE is that PROGRESS: the model's choice
(log 74). -/
def copyRecord (c : Cmd) (status : Nat) : List Byte :=
  toBytes 4 c.id.toNat ++ toBytes 2 status ++ toBytes 2 c.work.flags.toNat ++ wordBytes c.progress ++
    toBytes 4 c.work.skipped ++ toBytes 4 c.work.firstSkipped ++ List.replicate 8 0

end Sys2Proof.Machine
end

