-- ==== Sys2Proof/Machine/TileFormats.lean ====
section
/-! DEFINITION. Compressed tile formats (R171 to R181, R205, R471): what a TF_BMAP tile, a TF_COO stream, a TF_S24 tile and a
TF_ENT chunk hold, their failures, and their encoders. -/

namespace Sys2Proof.Machine

/-- A failure of R205: code, row, position and value of its descriptor, and the place of what it drops. -/
structure MetaFail where
  code : Nat
  row : Nat
  pos : Nat
  value : Nat
  at_ : Option (Nat × Nat)
  deriving DecidableEq, Repr, Inhabited

/-- What a tile holds: row, column and the element as stored. -/
abbrev Entries := List (Nat × Nat × Nat)

/-- Element formats of the sparse tile formats (R171). -/
def sparseFmt (f : Nat) : Bool := [0x00, 0x01, 0x02, 0x08, 0x09, 0x0A, 0x0B, 0x0C].contains f

/-- Element formats of TF_DENSE (R171). -/
def denseFmt (f : Nat) : Bool := sparseFmt f || f == 0x03

/-- A tile format allows an element format (R171). -/
def tfAllows (tf f : Nat) : Bool :=
  match tf with
  | 0 => denseFmt f
  | 1 => (bfpOfCode f).isSome
  | 2 => sparseFmt f
  | 3 => sparseFmt f
  | 4 => sparseFmt f
  | 5 => denseFmt f || (bfpOfCode f).isSome
  | _ => false

/-- Bytes of an element, or of a block, of a format (R98, R99). -/
def unitBytes (f : Nat) : Nat :=
  match bfpOfCode f with
  | some b => 1 + 4 * b
  | none => ((Fmt.ofCode f).map Fmt.bytes).getD 1

/-- Bytes of a TF_BMAP tile with `n` values (R173). -/
def bmapSize (s n : Nat) : Nat := roundUp (0x88 + n * s) 64
/-- Where the values of a TF_COO stream of `n` entries begin (R174). -/
def cooValues (n : Nat) : Nat := roundUp (0x10 + 4 * n) 8
/-- Bytes of a TF_COO stream. -/
def cooSize (s n : Nat) : Nat := roundUp (cooValues n + n * s) 64
/-- Bytes of a TF_S24 tile (R175). -/
def s24Size (s : Nat) : Nat := roundUp (0x80 + 512 * s) 64
/-- Bytes of a TF_ENT chunk with its header (R176). -/
def entSize (clen : Nat) : Nat := roundUp (8 + clen) 8

/-- The first header field that differs from what is wanted, or a nonzero reserved byte (R205, R471). Which of several wrong fields the
descriptor names is the model's choice: FMT, ROWS_M1, COLS_M1, the reserved bytes, then COUNT (log 73). -/
def badHeader (bs : List Byte) (wants : List (Nat × Nat × Nat)) (zeros : List Nat) : Option MetaFail :=
  match wants.find? fun w => fieldAt bs w.1 w.2.1 != w.2.2 with
  | some w => some ⟨5, 0, w.1, fieldAt bs w.1 w.2.1, none⟩
  | none => (zeros.find? fun o => fieldAt bs o 1 != 0).map fun o => ⟨5, 0, o, fieldAt bs o 1, none⟩

/-- The header of a TF_BMAP tile (R173, R205): FMT, reserved bytes, NNZ against the popcounts. -/
def bmapHeader (bs : List Byte) (fmt : Nat) : Option MetaFail :=
  match badHeader bs [(0, 1, fmt)] [1, 4, 5, 6, 7] with
  | some f => some f
  | none =>
    let n := ((List.range 32).map fun i => popCount 32 (fieldAt bs (8 + 4 * i) 4)).sum
    if fieldAt bs 2 2 = n then none else some ⟨4, 0, 0, fieldAt bs 2 2, none⟩

/-- The set positions of a TF_BMAP tile in row-major order. -/
def bmapPositions (bs : List Byte) : List (Nat × Nat) :=
  (List.range 32).flatMap fun i =>
    let m := fieldAt bs (8 + 4 * i) 4
    ((List.range 32).filter (bitAt m)).map fun j => (i, j)

/-- A TF_BMAP tile whose header is good (R173, R205): its elements within the extents, and its failures. -/
def bmapBody (bs : List Byte) (s rows cols : Nat) : Entries × List MetaFail :=
  let ps := (bmapPositions bs).zipIdx.map fun p => (p.1.1, p.1.2, fieldAt bs (0x88 + p.2 * s) s)
  (ps.filter fun p => decide (p.1 < rows ∧ p.2.1 < cols),
    ps.filterMap fun p =>
      if rows ≤ p.1 then some ⟨1, p.1, p.1, p.1, some (p.1, p.2.1)⟩
      else if cols ≤ p.2.1 then some ⟨2, p.1, p.1, p.2.1, some (p.1, p.2.1)⟩
      else none)

/-- The header of a TF_COO stream of given extents (R174, R205). -/
def cooHeader (bs : List Byte) (fmt rowsM1 colsM1 : Nat) : Option MetaFail :=
  match badHeader bs [(0, 1, fmt), (2, 2, rowsM1), (4, 2, colsM1)] [1, 6, 7, 12, 13, 14, 15] with
  | some f => some f
  | none => if fieldAt bs 8 4 ≤ 2 ^ 24 then none else some ⟨5, 0, 8, fieldAt bs 8 4, none⟩

/-- The entries of a TF_COO stream whose header is good (R174, R205): range before order; a dropped entry is never an accepted
pair. -/
def cooBody (bs : List Byte) (s rowsM1 colsM1 : Nat) : Nat → Nat → Option (Nat × Nat) → Entries × List MetaFail
  | 0, _, _ => ([], [])
  | n + 1, e, last =>
    let w := fieldAt bs (0x10 + 4 * e) 4
    let r := w % 2 ^ 16
    let c := w / 2 ^ 16
    let x := fieldAt bs (cooValues (fieldAt bs 8 4) + e * s) s
    let bad (f : MetaFail) := let (a, b) := cooBody bs s rowsM1 colsM1 n (e + 1) last; (a, f :: b)
    if rowsM1 < r then bad ⟨1, r, e, r, some (r, c)⟩
    else if colsM1 < c then bad ⟨2, r, e, c, some (r, c)⟩
    else if (match last with
      | some l => decide (r < l.1 ∨ r = l.1 ∧ c ≤ l.2)
      | none => false) then bad ⟨3, r, e, w, some (r, c)⟩
    else let (a, b) := cooBody bs s rowsM1 colsM1 n (e + 1) (some (r, c)); ((r, c, x) :: a, b)

/-- A TF_S24 tile (R175, R205): the named positions of its good groups, and its failures. -/
def s24Body (bs : List Byte) (s : Nat) : Entries × List MetaFail :=
  let gs := (List.range 256).map fun n => (n / 8, n % 8, field (fieldAt bs (4 * (n / 8)) 4) (4 * (n % 8)) 4)
  ((gs.filter fun g => decide (g.2.2 % 4 < g.2.2 / 4)).flatMap fun g =>
      let o := 0x80 + (16 * g.1 + 2 * g.2.1) * s
      [(g.1, 4 * g.2.1 + g.2.2 % 4, fieldAt bs o s), (g.1, 4 * g.2.1 + g.2.2 / 4, fieldAt bs (o + s) s)],
    (gs.filter fun g => !decide (g.2.2 % 4 < g.2.2 / 4)).map fun g =>
      ⟨6, g.1, 8 * g.1 + g.2.1, g.2.2, some (g.1, 4 * g.2.1)⟩)

/-- The element is +0 or −0 (R179). -/
def isZeroFmt (f : Fmt) (x : Nat) : Bool :=
  match readFmt f x with
  | .fin _ m _ => m == 0
  | _ => false

/-- The bytes of a TF_BMAP tile of present elements in row-major order (R173). -/
def bmapBytes (fmt s : Nat) (xs : Entries) : List Byte :=
  let maps := (List.range 32).flatMap fun i =>
    toBytes 4 ((xs.filter fun x => x.1 == i).foldl (fun a x => a + 2 ^ x.2.1) 0)
  padTo (toBytes 1 fmt ++ [0] ++ toBytes 2 xs.length ++ toBytes 4 0 ++ maps ++ xs.flatMap fun x => toBytes s x.2.2)
where
  /-- Zeros up to a multiple of 64 bytes. -/
  padTo (bs : List Byte) : List Byte := bs ++ List.replicate (roundUp bs.length 64 - bs.length) 0

/-- The bytes of a TF_COO stream (R174). -/
def cooBytes (fmt s rows cols : Nat) (xs : Entries) : List Byte :=
  let head := toBytes 1 fmt ++ [0] ++ toBytes 2 (rows - 1) ++ toBytes 2 (cols - 1) ++ toBytes 2 0 ++ toBytes 4 xs.length ++
    toBytes 4 0 ++ xs.flatMap fun x => toBytes 2 x.1 ++ toBytes 2 x.2.1
  let body := head ++ List.replicate (cooValues xs.length - head.length) 0 ++ xs.flatMap fun x => toBytes s x.2.2
  body ++ List.replicate (cooSize s xs.length - body.length) 0

/-- The two positions that a group keeps (R181), from whether each of its four elements is zero; `none` when more than two
are nonzero. -/
def s24Keep (zero : List Bool) : Option (Nat × Nat) :=
  let nz := (List.range 4).filter fun i => !zero.getD i true
  let un := (List.range 4).filter fun i => zero.getD i true
  match nz, un with
  | [a, b], _ => some (a, b)
  | [a], b :: _ => some (min a b, max a b)
  | [], a :: b :: _ => some (a, b)
  | _, _ => none

/-- The bytes of a TF_S24 tile from each group's kept positions and values (R175). -/
def s24Bytes (s : Nat) (gs : List ((Nat × Nat) × (Nat × Nat))) : List Byte :=
  let row (i : Nat) : Nat :=
    (((gs.drop (8 * i)).take 8).zipIdx.map fun g => (g.1.1.1 + 4 * g.1.1.2) * 16 ^ g.2).sum
  let body := ((List.range 32).flatMap fun i => toBytes 4 (row i)) ++ gs.flatMap fun g => toBytes s g.2.1 ++ toBytes s g.2.2
  body ++ List.replicate (s24Size s - body.length) 0

/-- Values of code length ℓ in a code table, in increasing order (R177). -/
def entOfLength (lens : List Byte) (l : Nat) : List Nat :=
  (List.range 256).filter fun i => (lens.getD i 0).toNat == l

/-- next[ℓ] of R177 before any code is given. -/
def entNext (lens : List Byte) : Nat → Nat
  | 0 => 0
  | l + 1 => if l = 0 then 0 else 2 * (entNext lens l + (entOfLength lens l).length)

/-- A code table is valid (R177). -/
def entValid (lens : List Byte) : Bool :=
  lens.all (fun l => decide (l.toNat ≤ 16)) && lens.any (· != 0) &&
    decide (((lens.filter (· != 0)).map fun l => 2 ^ (16 - l.toNat)).sum ≤ 2 ^ 16)

/-- One symbol (R177): its value and the bits that follow. -/
def entSymbol (lens : List Byte) : Nat → Nat → Nat → List Bool → Option (Nat × List Bool)
  | 0, _, _, _ => none
  | _ + 1, _, _, [] => none
  | k + 1, l, c, b :: bs =>
    let c := 2 * c + b.toNat
    let vs := entOfLength lens (l + 1)
    let base := entNext lens (l + 1)
    if base ≤ c ∧ c < base + vs.length then some (vs.getD (c - base) 0, bs) else entSymbol lens k (l + 1) c bs

/-- The first `n` symbols of a chunk's bits. -/
def entSymbols (lens : List Byte) : Nat → List Bool → Option (List Byte)
  | 0, _ => some []
  | n + 1, bs => (entSymbol lens 16 0 0 bs).bind fun x => (entSymbols lens n x.2).map (BitVec.ofNat 8 x.1 :: ·)

/-- Code bits of a chunk: from bit 0 of each byte upward (R176). -/
def entBits (bs : List Byte) : List Bool := bs.flatMap fun b => (List.range 8).map fun i => b.getLsbD i

end Sys2Proof.Machine
end

