-- ==== Sys2Proof/Machine/Copy.lean ====
section
/-! DEFINITION. The copy engine (R171 to R191, R320 to R322, R358, R359): CPY along a nest on every path of R178, and row
gather and scatter. -/

namespace Sys2Proof.Machine

/-- The paths of R178. -/
inductive CopyPath where
  | transfer
  | convert
  | encodeBfp
  | decodeBfp
  | encodeSparse
  | decodeSparse
  | decodeEnt
  deriving DecidableEq, Repr

/-- SRC_TF, DST_TF, SRC_FMT and DST_FMT of a CPY (R320). -/
def Cmd.srcTf (c : Cmd) : Nat := c.num 0x4C 1 % 16
/-- DST_TF. -/
def Cmd.dstTf (c : Cmd) : Nat := c.num 0x4C 1 / 16
/-- SRC_FMT. -/
def Cmd.srcFmt (c : Cmd) : Nat := c.num 0x4D 1
/-- DST_FMT. -/
def Cmd.dstFmt (c : Cmd) : Nat := c.num 0x4E 1

/-- The path that a source and a destination take, if any (R178). -/
def copyPath (stf dtf sf df : Nat) : Option CopyPath :=
  if stf = dtf ∧ sf = df then some .transfer
  else match stf, dtf with
  | 0, 0 => some .convert
  | 0, 1 => some .encodeBfp
  | 1, 0 => some .decodeBfp
  | 0, 2 => some .encodeSparse
  | 0, 3 => some .encodeSparse
  | 0, 4 => some .encodeSparse
  | 2, 0 => some .decodeSparse
  | 3, 0 => some .decodeSparse
  | 4, 0 => some .decodeSparse
  | 5, 0 => if sf = df then some .decodeEnt else none
  | 5, 1 => if sf = df then some .decodeEnt else none
  | _, _ => none

/-- The path of a command. -/
def Cmd.path (c : Cmd) : CopyPath := (copyPath c.srcTf c.dstTf c.srcFmt c.dstFmt).getD .transfer

/-- The path takes a tensor parameter record in AUX (R178, R320). -/
def Cmd.takesTpr (c : Cmd) : Bool := c.path != .transfer && c.path != .decodeEnt && c.srcFmt != c.dstFmt

/-- Values that one unit of a path holds on its dense side, for draws and its size (R115; log 20). -/
def Cmd.unitValues (c : Cmd) : Nat :=
  match c.path with
  | .encodeBfp => 32
  | .decodeBfp => 32
  | .encodeSparse => 1024
  | .decodeSparse => 1024
  | _ => 1

/-- Bytes of a unit on a dense or block side of format `fmt` (R321; log 20). -/
def Cmd.sideBytes (c : Cmd) (tf fmt : Nat) : Nat :=
  match c.path with
  | .transfer => if tf = 0 then c.num 0x78 2 else unitBytes fmt
  | .decodeEnt => 0
  | _ => if tf = 1 then unitBytes fmt else c.unitValues * unitBytes fmt

/-- A tile format whose side is one packed sequence (R321). -/
def packedTf (tf : Nat) : Bool := decide (2 ≤ tf)

/-- BOUND k of the nest (R320). -/
def Cmd.bound (c : Cmd) (k : Nat) : Nat := c.num (0x40 + 2 * k) 2

/-- Elements of the nest (R90). -/
def Cmd.nest (c : Cmd) : Nat := c.bound 0 * c.bound 1 * c.bound 2 * c.bound 3 * c.bound 4 * c.bound 5

/-- Σ i_k × STRIDE_k for k = 1 to 5 at element e, with the strides from offset `o` (R321). -/
def Cmd.strided (c : Cmd) (o e : Nat) : Int :=
  let rec go : Nat → Nat → Nat → Int
    | 0, _, _ => 0
    | n + 1, k, e => ((e % c.bound k : Nat) : Int) * sgn 32 (c.num (o + 4 * (k - 1)) 4) + go n (k + 1) (e / c.bound k)
  go 5 1 (e / c.bound 0)

/-- The VA of the unit at element e of a dense or block side (R321). -/
def Cmd.unitVa (c : Cmd) (base : W64) (stride u e : Nat) : W64 :=
  base + BitVec.ofNat 64 (e % c.bound 0 * u) + BitVec.ofInt 64 (c.strided stride e)

/-- Largest bytes of one unit of a packed destination (R161, R174): a transfer may bring a stream of 2^24 entries. -/
def Cmd.packedMost (c : Cmd) : Nat :=
  let s := unitBytes c.dstFmt
  match c.dstTf with
  | 2 => bmapSize s 1024
  | 3 => cooSize s (if c.path = .transfer then 2 ^ 24 else 1024)
  | 4 => s24Size s
  | _ => entSize 65536

/-- Bytes of the dense unit that element e of the nest decodes to: for a TF_COO stream, by the extents read at the start, in
`index`. -/
def Cmd.denseUnit (c : Cmd) (e : Nat) : Nat :=
  if c.path = .decodeSparse ∧ c.srcTf = 3 then c.work.index.getD e 0 * unitBytes c.dstFmt else c.sideBytes c.dstTf c.dstFmt

/-- The pieces of the destination extent of a CPY (R161). -/
def Cmd.cpyPieces (c : Cmd) : List (W64 × Nat) :=
  let dst := c.va 0x28
  (List.range c.nest).map fun e =>
    if packedTf c.dstTf then
      (dst + BitVec.ofNat 64 (e * c.packedMost), c.packedMost)
    else if c.path = .decodeEnt then (c.unitVa dst 0x64 4096 e, 4096)
    else
      let u := c.denseUnit e
      (c.unitVa dst 0x64 u e, u)

/-- The fields of a CPY that a record may not hold (R171, R178, R320, R321). -/
def Cmd.cpyFields (c : Cmd) : Bool :=
  let xfer := c.path == .transfer
  let dense := xfer && c.srcTf == 0
  let unit := c.num 0x78 2
  tfAllows c.srcTf c.srcFmt && tfAllows c.dstTf c.dstFmt && (copyPath c.srcTf c.dstTf c.srcFmt c.dstFmt).isSome &&
    c.num 0x4F 1 < 2 && (c.num 0x4F 1 == 1) == (c.srcTf == 5) && c.num 0x7A 6 == 0 &&
    (if dense then decide (unit % 8 = 0 ∧ 8 ≤ unit ∧ unit ≤ 65528) else unit == 0) &&
    ((c.va 0x30 != 0) == (c.takesTpr || c.path == .decodeEnt)) &&
    (!packedTf c.srcTf || (c.num 0x50 20 == 0 && c.num 0x20 8 % (if c.srcTf = 5 then 8 else 64) == 0)) &&
    (!packedTf c.dstTf || (c.num 0x64 20 == 0 && c.num 0x28 8 % (if c.dstTf = 5 then 8 else 64) == 0))

/-- A decode's destination and an encode's source lie in slices, as far as they translate (R178). -/
def Run.slicesOnly (r : Run) (xs : List (W64 × Nat)) (write : Bool) : Bool :=
  (r.spans write xs).all fun x => r.s.regionOf x.1 == some .slice

/-- The path decodes, or encodes. -/
def Cmd.decodes (c : Cmd) : Bool := c.path == .decodeBfp || c.path == .decodeSparse || c.path == .decodeEnt
/-- The path encodes. -/
def Cmd.encodes (c : Cmd) : Bool := c.path == .encodeBfp || c.path == .encodeSparse

/-- The values of each stream of a TF_COO source that can be read, by the headers as they stand at the start (R174). -/
def Run.cooUnits : Nat → Nat → Nat → Run → Run
  | 0, _, _, r => r
  | n + 1, e, off, r =>
    let va := r.c.va 0x20 + BitVec.ofNat 64 off
    match r.iaOf va 16 false with
    | none => r
    | some a =>
      if (r.s.uncorrectable a 16).isSome then r
      else r.read e va 16 fun r hd =>
        match cooHeader hd r.c.srcFmt (fieldAt hd 2 2) (fieldAt hd 4 2) with
        | some _ => r
        | none => Run.cooUnits n (e + 1) (off + cooSize (unitBytes r.c.srcFmt) (fieldAt hd 8 4))
            (r.modWork fun w => { w with index := w.index ++ [(fieldAt hd 2 2 + 1) * (fieldAt hd 4 2 + 1)] })

/-- The tensor parameter record or code table as the checks read it: an unreadable one is a fault once the command has started, and
one on a page that faults or moves is waited for. -/
def Run.auxHead (r : Run) (aux : W64) (n : Nat) : Run :=
  if aux = 0 then r else match r.iaOf aux n false with
    | none => r
    | some a =>
      if (r.s.uncorrectable a n).isSome then r else r.read 0 aux n fun r bs => r.modWork fun w => { w with head := bs }

/-- The start checks of a CPY (R178, R190, R191, R320). -/
def cpyCheck (r : Run) : Run :=
  r.crecAt 0x38 32 malformed fun r =>
    r.check r.c.cpyFields malformed fun r =>
    let c := r.c
    let src := if c.encodes then
        (List.range (min c.nest (2 ^ 32))).map fun e =>
          let u := c.sideBytes c.srcTf c.srcFmt; (c.unitVa (c.va 0x20) 0x50 u e, u)
      else []
    let aux := c.va 0x30
    let n := if c.path = .decodeEnt then 256 else 16
    r.check (aux.toNat % (if c.path = .decodeEnt then 64 else 16) == 0) malformed fun r =>
    let r := r.auxHead aux n
    if r.waits then r
    else
    r.check (!(c.takesTpr && !r.c.work.head.isEmpty) || (match Tpr.parse r.c.work.head with
      | some p => p.fmt == c.dstFmt
      | none => false)) malformed fun r =>
    if c.nest ≤ 2 ^ 32 - 1 then
      let r := if c.path = .decodeSparse ∧ c.srcTf = 3 then Run.cooUnits c.nest 0 0 r else r
      if r.waits then r
      else
        r.check (r.slicesOnly src false && (!c.decodes || r.slicesOnly r.c.cpyPieces true)) malformed fun r =>
        r.extent (r.pieces r.c.cpyPieces) id
    else r

/-- The size of a packed unit of a tile format at a VA, and the bytes that a chunk decodes to. -/
def Run.packedSize (r : Run) (el tf s : Nat) (va : W64) (k : Run → Nat → Nat → Run) : Run :=
  match tf with
  | 2 => r.read el va 4 fun r bs => k r (bmapSize s (fieldAt bs 2 2)) 0
  | 3 => r.read el va 12 fun r bs => k r (cooSize s (min (fieldAt bs 8 4) (2 ^ 24))) 0
  | 4 => k r (s24Size s) 0
  | _ => r.read el va 8 fun r bs => k r (entSize (fieldAt bs 0 4)) (fieldAt bs 4 4)

/-- Walks `n` packed units of a side from its base: bytes passed, and decoded bytes since the innermost dimension began. -/
def Run.packedWalk (tf s : Nat) (base : W64) : Nat → Nat → Nat → Nat → Run → (Run → Nat → Nat → Run) → Run
  | 0, _, off, d, r, k => k r off d
  | n + 1, e, off, d, r, k =>
    r.packedSize e tf s (base + BitVec.ofNat 64 off) fun r z dl =>
      Run.packedWalk tf s base n (e + 1) (off + z) (if (e + 1) % r.c.bound 0 = 0 then 0 else d + dl) r k

/-- Once started (R90): the nest's size, AUX as read, and the walk to PROGRESS of a resumed command. -/
def cpySetup (r : Run) : Run :=
  let c := r.c
  r.check (decide (c.nest ≤ 2 ^ 32 - 1)) { cause := 9, sub := 3 } fun r =>
    let r := r.modWork fun w => { w with total := c.nest }
    if c.nest ≤ r.pos then r
    else
      let aux (r : Run) (k : Run → Run) : Run :=
        if c.va 0x30 = 0 ∨ ¬ c.work.head.isEmpty then k r
        else r.read r.pos (c.va 0x30) (if c.path = .decodeEnt then 256 else 16) fun r bs =>
          k (r.modWork fun w => { w with head := bs })
      let src (r : Run) (k : Run → Run) : Run :=
        if packedTf c.srcTf then
          Run.packedWalk c.srcTf (unitBytes c.srcFmt) (c.va 0x20) r.pos 0 0 0 r fun r off d =>
            k (r.modWork fun w => { w with srcOff := off, dstOff := if c.path = .decodeEnt then d else w.dstOff })
        else k r
      let dst (r : Run) (k : Run → Run) : Run :=
        if packedTf c.dstTf then
          Run.packedWalk c.dstTf (unitBytes c.dstFmt) (c.va 0x28) r.pos 0 0 0 r fun r off _ =>
            k (r.modWork fun w => { w with dstOff := off })
        else k r
      aux r fun r => src r fun r => dst r id

/-- Bytes moved count in COPY_BYTES (R286), and the element is complete. -/
def Run.copied (r : Run) (n : Nat) : Run := { r.reach (r.pos + 1) with s := r.s.count r.k 0xE (BitVec.ofNat 64 n) }

/-- A draw of a conversion by the command: element index n × V + j, draw index STREAM (R115). -/
def Run.draw (r : Run) (p : Tpr) (n : Nat) : Nat :=
  let t := r.s.task r.c.task
  kxDraw t.seed t.id n p.stream

/-- Converts value j of the `v` values of the element under the command's record (R110, R115, R178): equal formats keep the bits. -/
def Run.convertAt (r : Run) (v sf df x j : Nat) : Nat × BitVec 8 :=
  if sf = df then (x, 0)
  else match Fmt.ofCode sf, Fmt.ofCode df, Tpr.parse r.c.work.head with
  | some a, some b, some p => cvt (readFmt a x) b p (r.draw p (r.pos * v + j))
  | _, _, _ => (0, 0)

/-- Element i of a list of elements of `s` bytes. -/
def elemAt (bs : List Byte) (s i : Nat) : Nat := fieldAt bs (i * s) s

/-- Writes the element's unit of a dense or block destination. -/
def Run.putUnit (r : Run) (bs : List Byte) : Run :=
  r.write r.pos (r.c.unitVa (r.c.va 0x28) 0x64 (r.c.sideBytes r.c.dstTf r.c.dstFmt) r.pos) bs fun r => r.copied bs.length

/-- Writes the element's unit of a packed destination. -/
def Run.putPacked (r : Run) (bs : List Byte) : Run :=
  r.write r.pos (r.c.va 0x28 + BitVec.ofNat 64 r.c.work.dstOff) bs fun r =>
    (r.copied bs.length).modWork fun w => { w with dstOff := w.dstOff + bs.length }

/-- A failure of a compressed source (R180, R473). -/
def metaCopy (el value : Nat) : CmdFault := { cause := 9, sub := 4, element := el, detail := toBytes 8 value }
/-- A failure of a chunk or its table. -/
def codeCopy (el : Nat) (head : List Byte) : CmdFault := { cause := 9, sub := 5, element := el, detail := head }

/-- Reads and checks the packed source unit of the element (R180): its bytes, and what it holds, with its rows and columns. -/
def Run.getTile (r : Run) (k : Run → List Byte → Nat → Nat → Entries → Run) : Run :=
  let c := r.c
  let e := r.pos
  let s := unitBytes c.srcFmt
  let va := c.va 0x20 + BitVec.ofNat 64 c.work.srcOff
  let done (r : Run) (bs : List Byte) (rows cols : Nat) (x : Entries × List MetaFail) : Run :=
    match x.2 with
    | f :: _ => r.fail (metaCopy e f.value)
    | [] => k (r.modWork fun w => { w with srcOff := w.srcOff + bs.length }) bs rows cols x.1
  match c.srcTf with
  | 2 => r.read e va 0x88 fun r hd =>
      match bmapHeader hd c.srcFmt with
      | some f => r.fail (metaCopy e f.value)
      | none => r.read e va (bmapSize s (fieldAt hd 2 2)) fun r bs => done r bs 32 32 (bmapBody bs s 32 32)
  | 3 => r.read e va 16 fun r hd =>
      match cooHeader hd c.srcFmt (fieldAt hd 2 2) (fieldAt hd 4 2) with
      | some f => r.fail (metaCopy e f.value)
      | none =>
        let n := fieldAt hd 8 4
        r.read e va (cooSize s n) fun r bs =>
          done r bs (fieldAt hd 2 2 + 1) (fieldAt hd 4 2 + 1) (cooBody bs s (fieldAt hd 2 2) (fieldAt hd 4 2) n 0 none)
  | _ => r.read e va (s24Size s) fun r bs => done r bs 32 32 (s24Body bs s)

/-- A dense image of a tile's entries, each converted (R178): absent positions +0. -/
def Run.expand (r : Run) (rows cols : Nat) (xs : Entries) : List Byte × BitVec 8 :=
  let s := unitBytes r.c.dstFmt
  let cells := xs.map fun x =>
    let (y, f) := r.convertAt (rows * cols) r.c.srcFmt r.c.dstFmt x.2.2 (x.1 * cols + x.2.1)
    (x.1 * cols + x.2.1, y, f)
  ((List.range (rows * cols)).flatMap fun i => toBytes s (((cells.find? fun x => x.1 == i).map (·.2.1)).getD 0),
    (cells.map (·.2.2)).foldl (· ||| ·) 0)

/-- The chunk at the element (R176, R177, R180): its bytes, and what it decodes to. -/
def Run.getChunk (r : Run) (decode : Bool) (k : Run → List Byte → List Byte → Run) : Run :=
  let e := r.pos
  let va := r.c.va 0x20 + BitVec.ofNat 64 r.c.work.srcOff
  r.read e va 8 fun r hd =>
    let clen := fieldAt hd 0 4
    let dlen := fieldAt hd 4 4
    r.check (decide (1 ≤ clen ∧ clen ≤ 65536 ∧ 1 ≤ dlen ∧ dlen ≤ 4096) && (!decode || entValid r.c.work.head)) (codeCopy e hd) fun r =>
      r.read e va (entSize clen) fun r bs =>
        let r := r.modWork fun w => { w with srcOff := w.srcOff + entSize clen }
        if decode then
          match entSymbols r.c.work.head dlen (entBits ((bs.drop 8).take clen)) with
          | some out => k r bs out
          | none => r.fail (codeCopy e hd)
        else k r bs []

/-- One unit of an encode to a sparse format (R179, R181). A TF_COO stream so written has the extents of its unit, 32 × 32 (ROWS_M1 and
COLS_M1 31): the model's choice, R174 does not give them (log 20). -/
def Run.encodeTile (r : Run) (bs : List Byte) : Run :=
  let sf := r.c.srcFmt
  let df := r.c.dstFmt
  let ss := unitBytes sf
  let zero (i : Nat) : Bool := isZeroFmt ((Fmt.ofCode sf).getD (.int 8)) (elemAt bs ss i)
  let conv (i : Nat) : Nat × BitVec 8 := if zero i then (0, 0) else r.convertAt 1024 sf df (elemAt bs ss i) i
  if r.c.dstTf = 4 then
    let gs := (List.range 256).map fun g =>
      (s24Keep ((List.range 4).map fun i => zero (4 * g + i))).map fun p =>
        (p, conv (4 * g + p.1), conv (4 * g + p.2))
    r.check (gs.all (·.isSome)) { cause := 9, sub := 6, element := r.pos } fun r =>
      let gs := gs.filterMap id
      let out := s24Bytes (unitBytes df) (gs.map fun g => (g.1, (g.2.1.1, g.2.2.1)))
      (r.flags ((gs.map fun g => g.2.1.2 ||| g.2.2.2).foldl (· ||| ·) 0)).putPacked out
  else
    let xs := ((List.range 1024).filter fun i => !zero i).map fun i => (i / 32, i % 32, conv i)
    let es := xs.map fun x => (x.1, x.2.1, x.2.2.1)
    let out := if r.c.dstTf = 2 then bmapBytes df (unitBytes df) es else cooBytes df (unitBytes df) 32 32 es
    (r.flags ((xs.map (·.2.2.2)).foldl (· ||| ·) 0)).putPacked out

/-- The cluster of this package whose codec port a decode copy enters next, if any (R146). -/
def Run.codecPort (r : Run) : Option Nat :=
  if r.c.kind = 1 ∧ r.c.path = .decodeEnt ∧ r.c.state = .running ∧ ¬ r.c.unset ∧ r.pos < r.c.work.total then
    match r.iaOf (r.c.unitVa (r.c.va 0x28) 0x64 0 r.pos + BitVec.ofNat 64 r.c.work.dstOff) 1 true with
    | some a => if r.s.regionOf a = some .slice ∧ chipOf a = r.s.chip then some (localOf a / 0x1000000) else none
    | none => none
  else none

/-- The codec port serves this decode copy next: its cluster has none of less slack, nor an older one of equal slack (R146; log 66). -/
def Run.codecTurn (r : Run) : Bool :=
  match r.codecPort with
  | none => true
  | some p => r.s.tiles.all fun t => t.2.cmds.all fun x =>
      !(decide (x.slack < r.c.slack ∨ x.slack = r.c.slack ∧ x.born < r.c.born) && r.s.enginesRun t.1 &&
        Run.codecPort { s := r.s, k := t.1, c := x } == some p)

/-- One unit of a CPY (R182, R358): read in full, then written. Two places are the model's choice (log 20): decoded TF_ENT chunks lie one
after another along dimension 0, from each outer position's stride on (R176), and a decoded TF_COO stream at index 0 times its own unit's
size (R182). -/
def cpyElement (r : Run) : Run :=
  let c := r.c
  let e := r.pos
  let src (k : Run → List Byte → Run) : Run :=
    let u := c.sideBytes c.srcTf c.srcFmt
    r.read e (c.unitVa (c.va 0x20) 0x50 u e) u k
  match c.path with
  | .transfer =>
    if c.srcTf = 5 then r.getChunk false fun r bs _ => r.putPacked bs
    else if packedTf c.srcTf then r.getTile fun r bs _ _ _ => r.putPacked bs
    else src fun r bs => r.putUnit bs
  | .convert => src fun r bs =>
      let (y, f) := r.convertAt 1 c.srcFmt c.dstFmt (ofBytes bs) 0
      (r.flags f).putUnit (toBytes (unitBytes c.dstFmt) y)
  | .encodeBfp => src fun r bs =>
      match Fmt.ofCode c.srcFmt, bfpOfCode c.dstFmt, Tpr.parse c.work.head with
      | some f, some b, some p =>
        let (ex, ms, fl) := bfpBlock b p ((List.range 32).map fun i => readFmt f (elemAt bs f.bytes i))
          ((List.range 32).map fun i => r.draw p (e * 32 + i))
        (r.flags fl).putUnit (packBlock b ex ms)
      | _, _, _ => r.fail malformed
  | .decodeBfp => src fun r bs =>
      match Fmt.ofCode c.dstFmt, bfpOfCode c.srcFmt, Tpr.parse c.work.head with
      | some f, some b, some p =>
        let xs := (List.range 32).map fun i => cvt (blockValue b bs i) f p (r.draw p (e * 32 + i))
        (r.flags ((xs.map (·.2)).foldl (· ||| ·) 0)).putUnit (xs.flatMap fun x => toBytes f.bytes x.1)
      | _, _, _ => r.fail malformed
  | .encodeSparse => src fun r bs => r.encodeTile bs
  | .decodeSparse => r.getTile fun r _ rows cols xs =>
      let (out, f) := r.expand rows cols xs
      let u := rows * cols * unitBytes c.dstFmt
      let va := c.unitVa (c.va 0x28) 0x64 u e
      r.check (match r.iaOf va u true with
        | some a => !r.s.protected_ a u
        | none => true) (protectedFault e) fun r => (r.flags f).write e va out fun r => r.copied out.length
  | .decodeEnt => if !r.codecTurn then { r with waits := true } else r.getChunk true fun r _ out =>
      r.write e (c.unitVa (c.va 0x28) 0x64 0 e + BitVec.ofNat 64 r.c.work.dstOff) out fun r =>
        (r.copied out.length).modWork fun w =>
          { w with dstOff := if (e + 1) % c.bound 0 = 0 then 0 else w.dstOff + out.length }

/-- CPY (R358). -/
def cpyUnit : Unit_ := { check := cpyCheck, setup := cpySetup, element := cpyElement, record := copyRecord }

/-- R358: starts when eligible, and copies along its nest. -/
def execCpy (c : CmdRef) (s : State) : Outcome := s.commandEvent cpyUnit 1 c

/-- Packed row p of a gather or scatter, and table row x (R186, R322). -/
def Cmd.packedRow (c : Cmd) (p : Nat) : W64 := c.va 0x30 + BitVec.ofNat 64 (p * c.num 0x50 4)
/-- Table row x. -/
def Cmd.tableRow (c : Cmd) (x : Nat) : W64 := c.va 0x20 + BitVec.ofNat 64 (x * c.num 0x4C 4)

/-- The fields of R186 are within their limits. -/
def Cmd.rowFields (c : Cmd) : Bool :=
  let tp := c.num 0x4C 4
  let dp := c.num 0x50 4
  let rb := c.num 0x54 4
  decide (1 ≤ c.num 0x48 4 ∧ tp % 8 = 0 ∧ dp % 8 = 0 ∧ rb % 8 = 0 ∧ 8 ≤ rb ∧ rb ≤ 65536 ∧ rb ≤ tp ∧ rb ≤ dp ∧
    c.num 0x58 4 ≤ 2 ^ 24 ∧ 1 ≤ c.num 0x5C 1 ∧ c.num 0x5C 1 ≤ 64 ∧ c.num 0x5D 1 ≤ 1) && c.num 0x5E 34 == 0 &&
    (c.num 0x5D 1 == 0 || decide (rb % 128 = 0 ∧ dp % 128 = 0))

/-- Table rows in range that positions of an index list name. -/
def Cmd.namedRows (c : Cmd) (xs : List Nat) : List (W64 × Nat) :=
  (xs.filter fun x => decide (x < c.num 0x48 4)).map fun x => (c.tableRow x, c.num 0x54 4)

/-- The start checks of a gather or scatter (R186, R190, R359). -/
def rowCheck (r : Run) : Run :=
  r.crecAt 0x38 32 malformed fun r =>
    r.check r.c.rowFields malformed fun r =>
    let c := r.c
    let n := c.num 0x58 4
    match r.own (c.va 0x28) (4 * max n 1) 4 false with
    | none => r.fail malformed
    | some a =>
      let xs := indexes (r.s.readIA a (4 * n))
      let r := if n = 0 then r else r.note a (4 * n)
      let packed := (List.range n).map fun p => (c.packedRow p, c.num 0x54 4)
      let table := c.namedRows xs
      let (dst, src) := if c.kind = 2 then (packed, table) else (table, packed)
      r.check (!(r.spans false src).any fun x => r.s.protected_ x.1 x.2) (protectedFault 0) fun r =>
        r.extent (r.pieces dst) id

/-- The number of positions (R187). -/
def rowSetup (r : Run) : Run := r.modWork fun w => { w with total := r.c.num 0x58 4 }

/-- Reads the batch that holds position p when it begins (R187, R190): its indices, and the first position whose row is
protected. A command restarted inside a batch reads and checks the whole batch again, and a row before PROGRESS that is protected now
faults at PROGRESS: the model's choice (log 74). -/
def Run.batch (r : Run) (p : Nat) (k : Run → Run) : Run :=
  let c := r.c
  let b0 := p / c.num 0x5C 1 * c.num 0x5C 1
  if c.work.srcOff = b0 + 1 then k r
  else
    let n := min (c.num 0x5C 1) (c.num 0x58 4 - b0)
    r.read p (c.va 0x28 + BitVec.ofNat 64 (4 * b0)) (4 * n) fun r bs =>
      let xs := indexes bs
      let bad := xs.findIdx fun x => decide (x < c.num 0x48 4) &&
        match r.iaOf (c.tableRow x) (c.num 0x54 4) (c.kind == 3) with
        | some a => r.s.protected_ a (c.num 0x54 4)
        | none => false
      k (r.modWork fun w => { w with srcOff := b0 + 1, index := xs, cursor := if bad < n then [max (b0 + bad) p] else [] })

/-- 16-byte units of packed row p, as they lie or back (R187): the exchange is its own inverse. -/
def swizzle (on : Bool) (p : Nat) (bs : List Byte) : List Byte :=
  if on then (List.range (bs.length / 16)).flatMap fun u => (bs.drop (16 * (u ^^^ (p % 8)))).take 16 else bs

/-- A position whose index is out of range (R187). -/
def Run.skip (r : Run) (p : Nat) : Run :=
  r.modWork fun w => { w with skipped := w.skipped + 1, firstSkipped := if w.firstSkipped = 0xFFFFFFFF then p else w.firstSkipped }

/-- One index position (R187, R188). The row is read and written in one step, with no other agent between its 8-byte units: the model's
choice, since R188 promises the units only (log 74). -/
def rowElement (r : Run) : Run :=
  let p := r.pos
  r.batch p fun r =>
    let c := r.c
    let rb := c.num 0x54 4
    let sw := c.num 0x5D 1 == 1
    let x := c.work.index.getD (p % c.num 0x5C 1) 0
    r.check (c.work.cursor != [p]) (protectedFault p) fun r =>
    if c.kind = 2 then
      if x < c.num 0x48 4 then
        r.read p (c.tableRow x) rb fun r bs => r.write p (c.packedRow p) (swizzle sw p bs) fun r => r.copied rb
      else
        r.write p (c.packedRow p) ((List.replicate (rb / 8) (wordBytes (c.va 0x40))).flatten) fun r => (r.skip p).copied rb
    else
      r.read p (c.packedRow p) rb fun r bs =>
        if x < c.num 0x48 4 then r.write p (c.tableRow x) (swizzle sw p bs) fun r => r.copied rb
        else (r.skip p).copied 0

/-- CPYG and CPYS (R359). -/
def rowUnit : Unit_ :=
  { check := rowCheck, setup := rowSetup, element := rowElement, record := copyRecord
    resume := fun r => r.modWork fun w => { w with srcOff := 0 } }

/-- R187, R359: gathers table rows into packed rows. -/
def execCpyg (c : CmdRef) (s : State) : Outcome := s.commandEvent rowUnit 2 c

/-- R187, R359: scatters packed rows into table rows. -/
def execCpys (c : CmdRef) (s : State) : Outcome := s.commandEvent rowUnit 3 c

end Sys2Proof.Machine
end

