-- ==== Sys2Proof/Machine/Merge.lean ====
section
/-! DEFINITION. The merge and stream engines: MRG (R263, R325, R393) and SISECT (R262, R326, R412). -/

namespace Sys2Proof.Machine

/-- Pieces of a long range. -/
def Run.rangePieces (r : Run) (va : W64) (n : Nat) : List (Nat × Nat) := r.pieces [(va, n)]

/-- A key that is not above its predecessor (R262, R393, R412). -/
def orderFault (id : W32) (el stream pos key : Nat) : CmdFault :=
  { cause := 6, element := el
    detail := toBytes 4 id.toNat ++ toBytes 2 0 ++ toBytes 1 3 ++ toBytes 1 stream ++ toBytes 4 pos ++ toBytes 4 key }

/-- The key that a stream stands at: read once, and checked against the one before it. Entry n of `lastKeys` holds the key
before stream n's position, and entry 8 + n the key at it. -/
def Run.keyAt (r : Run) (stream : Nat) (keys : W64) (size : Nat) (k : Run → Nat → Run) : Run :=
  match r.c.work.lastKeys.getD (8 + stream) none with
  | some v => k r v
  | none =>
    let p := r.c.work.cursor.getD stream 0
    r.read r.pos (keys + BitVec.ofNat 64 (p * size)) size fun r bs =>
      let v := ofBytes bs
      match r.c.work.lastKeys.getD stream none with
      | some u => if v ≤ u then r.fail (orderFault r.c.id r.pos stream p v)
          else k (r.modWork fun w => { w with lastKeys := w.lastKeys.set (8 + stream) (some v) }) v
      | none => k (r.modWork fun w => { w with lastKeys := w.lastKeys.set (8 + stream) (some v) }) v

/-- A stream moves past its key. -/
def Run.advance (r : Run) (stream : Nat) : Run :=
  r.modWork fun w =>
    { w with cursor := w.cursor.modify stream (· + 1)
             lastKeys := (w.lastKeys.set stream (w.lastKeys.getD (8 + stream) none)).set (8 + stream) none }

/-- Streams stand at their beginnings. -/
def Run.rewind (r : Run) (total : Nat) : Run :=
  r.modWork fun w => { w with total := total, count := 0, cursor := List.replicate 8 0, lastKeys := List.replicate 16 none }

/-- Elements that an earlier part of the command performed are walked again, and write nothing (R262, R263). -/
def Run.rewalk (elementOf : Bool → Run → Run) : Nat → Run → Run
  | 0, r => r
  | n + 1, r =>
    if r.fault.isSome || r.waits || decide (r.c.work.total ≤ r.pos) then r else (elementOf false r).rewalk elementOf n

/-- A command that starts or goes on at PROGRESS: its walk begins at zero and catches up. `index` holds PROGRESS. -/
def Run.catchUp (elementOf : Bool → Run → Run) (r : Run) : Run :=
  let p := r.pos
  Run.rewalk elementOf p ((r.modWork fun w => { w with index := [p] }).reach 0)

/-- The walk has caught up, and writes. -/
def Run.caughtUp (r : Run) : Bool := decide (r.c.work.index.headD 0 ≤ r.pos)

/-- The stream completion record (R327). -/
def streamRecord (count : Cmd → Nat) (c : Cmd) (status : Nat) : List Byte :=
  toBytes 4 c.id.toNat ++ toBytes 2 status ++ toBytes 2 0 ++ wordBytes c.progress ++ toBytes 8 (count c) ++ List.replicate 8 0

/-- Table entry n of an MRG: KEYS, VALS and COUNT (R325). -/
def Cmd.mrgStream (c : Cmd) (n : Nat) : W64 × W64 × Nat :=
  (wordAt c.work.head (24 * n), wordAt c.work.head (24 * n + 8), fieldAt c.work.head (24 * n + 16) 4)

/-- Entries of the output. -/
def Cmd.mrgTotal (c : Cmd) : Nat := ((List.range (c.num 0x40 1)).map fun n => (c.mrgStream n).2.2).sum

/-- The limits on one table entry (R325, R393). -/
def Cmd.mrgStreamOk (c : Cmd) (n : Nat) : Bool :=
  let ks := c.num 0x41 1
  let vs := c.num 0x42 1
  let (keys, vals, _) := c.mrgStream n
  allZero c.work.head (24 * n + 20) 4 && decide (keys.toNat % ks = 0) &&
    (if vs = 0 then vals == 0 else vals != 0 && decide (vals.toNat % vs = 0))

/-- The start checks of an MRG (R190, R325, R393). -/
def mrgCheck (r : Run) : Run :=
  let c := r.c
  let ks := c.num 0x41 1
  let vs := c.num 0x42 1
  let n := c.num 0x40 1
  r.crecAt 0x38 32 malformed fun r =>
    r.check (decide (1 ≤ n ∧ n ≤ 8) && (ks == 4 || ks == 8) && (vs == 0 || vs == 4 || vs == 8) && r.zero 0x43 61 &&
        decide ((c.va 0x28).toNat % ks = 0) && (if vs = 0 then c.va 0x30 == 0 else decide ((c.va 0x30).toNat % vs = 0))) malformed fun r =>
      match r.own (c.va 0x20) (24 * n) 8 false with
      | none => r.fail malformed
      | some _ => r.read 0 (c.va 0x20) (24 * n) fun r bs =>
        let r := r.modWork fun w => { w with head := bs }
        r.check ((List.range n).all r.c.mrgStreamOk && decide (r.c.mrgTotal ≤ 2 ^ 32 - 1)) malformed fun r =>
          r.extent (r.rangePieces (c.va 0x28) (r.c.mrgTotal * ks) ++ r.rangePieces (c.va 0x30) (r.c.mrgTotal * vs)) id

/-- The keys that the streams stand at. -/
def Run.mrgHeads : Nat → Nat → List (Nat × Nat) → Run → (Run → List (Nat × Nat) → Run) → Run
  | 0, _, xs, r, k => k r xs
  | n + 1, i, xs, r, k =>
    let (keys, _, count) := r.c.mrgStream i
    if count ≤ r.c.work.cursor.getD i 0 then Run.mrgHeads n (i + 1) xs r k
    else r.keyAt i keys (r.c.num 0x41 1) fun r v => Run.mrgHeads n (i + 1) (xs ++ [(v, i)]) r k

/-- The least key, of the lowest stream that holds it. -/
def leastKey : List (Nat × Nat) → Option (Nat × Nat)
  | [] => none
  | x :: xs => match leastKey xs with
    | some y => if y.1 < x.1 then some y else some x
    | none => some x

/-- One entry of the output (R263, R393); nothing is written while the command walks again. -/
def mrgStep (writes : Bool) (r : Run) : Run :=
  let c := r.c
  let ks := c.num 0x41 1
  let vs := c.num 0x42 1
  let e := r.pos
  Run.mrgHeads (c.num 0x40 1) 0 [] r fun r xs =>
    match leastKey xs with
    | none => r.reach r.c.work.total
    | some (v, i) =>
      let p := r.c.work.cursor.getD i 0
      let done (r : Run) : Run := (r.advance i).reach (e + 1)
      if !writes then done r
      else
        let key (k : Run → Run) (r : Run) : Run := r.write e (c.va 0x28 + BitVec.ofNat 64 (e * ks)) (toBytes ks v) k
        if vs = 0 then key done r
        else r.read e ((c.mrgStream i).2.1 + BitVec.ofNat 64 (p * vs)) vs fun r bs =>
          key (fun r => r.write e (c.va 0x30 + BitVec.ofNat 64 (e * vs)) bs done) r

/-- Once started, or going on after a pre-emption. -/
def mrgSetup (r : Run) : Run := (r.rewind r.c.mrgTotal).catchUp mrgStep

/-- The merge engine. -/
def mrgUnit : Unit_ :=
  { check := mrgCheck, setup := mrgSetup, element := fun r => mrgStep r.caughtUp r, resume := mrgSetup
    record := streamRecord fun c => c.progress.toNat }

/-- R393: merges increasing key streams into one nondecreasing output. -/
def execMrg (c : CmdRef) (s : State) : Outcome := s.commandEvent mrgUnit 5 c

/-- KEYS mode. -/
def Cmd.sisKeys (c : Cmd) : Bool := c.num 0x49 1 == 1
/-- KEY_SIZE. -/
def Cmd.sisSize (c : Cmd) : Nat := c.num 0x48 1
/-- Bytes of one write of OUT. -/
def Cmd.sisUnit (c : Cmd) : Nat := if c.sisKeys then c.sisSize else 8

/-- The start checks of a SISECT (R128, R326, R412). -/
def sisectCheck (r : Run) : Run :=
  let c := r.c
  let ks := c.sisSize
  r.crecAt 0x38 32 malformed fun r =>
    r.check ((ks == 4 || ks == 8) && decide (c.num 0x49 1 ≤ 1) && decide ((c.va 0x20).toNat % ks = 0) &&
        decide ((c.va 0x28).toNat % ks = 0) && decide ((c.va 0x30).toNat % c.sisUnit = 0) && r.zero 0x4A 54) malformed fun r =>
      let xs := r.rangePieces (c.va 0x30) (if c.sisKeys then min (c.num 0x40 4) (c.num 0x44 4) * ks else 8)
      r.check (!xs.any fun x => r.s.regionOf x.1 == some .slice && touchesWindow (localOf x.1) x.2) (protectedFault 0) fun r =>
        { r with c := { r.c with extent := r.c.extent ++ xs } }

/-- A write of OUT under the store checks of R370 steps 1, 3 and 5 (R412). -/
def Run.sisWrite (r : Run) (va : W64) (bs : List Byte) (k : Run → Run) : Run :=
  match r.iaOf va bs.length true with
  | some a =>
    if r.liveHit a bs.length then r.fail (r.leaseFault r.pos va)
    else r.write r.pos va bs k
  | none => r.write r.pos va bs k

/-- The walk while it consumes key A[i], or ends with B (R262). -/
def Run.sisWalk (writes : Bool) : Nat → Run → Run
  | 0, r => r
  | n + 1, r =>
    let c := r.c
    let ks := c.sisSize
    let j := c.work.cursor.getD 1 0
    if c.num 0x44 4 ≤ j then r.modWork fun w => { w with total := r.pos }
    else r.keyAt 0 (c.va 0x20) ks fun r a => r.keyAt 1 (c.va 0x28) ks fun r b =>
      if a = b then
        let m := r.c.work.count
        let done (r : Run) : Run :=
          (((r.advance 0).advance 1).modWork fun w => { w with count := w.count + 1 }).reach (r.pos + 1)
        if writes && c.sisKeys then r.sisWrite (c.va 0x30 + BitVec.ofNat 64 (m * ks)) (toBytes ks a) done else done r
      else if a < b then (r.advance 0).reach (r.pos + 1)
      else (r.advance 1).sisWalk writes n

/-- One key of A (R262). -/
def sisectStep (writes : Bool) (r : Run) : Run := r.sisWalk writes (r.c.num 0x44 4 + 1)

/-- Once started, or going on after a pre-emption: OUT is checked, and the walk catches up. -/
def sisectSetup (r : Run) : Run :=
  let c := r.c
  let r := r.rewind (if c.num 0x44 4 = 0 then 0 else c.num 0x40 4)
  if c.sisKeys then r.catchUp sisectStep
  else
    let live := match r.iaOf (c.va 0x30) 8 true with
      | some a => r.liveHit a 8
      | none => true
    r.check (!live) (r.leaseFault r.pos (c.va 0x30)) fun r => r.catchUp sisectStep

/-- The count of a COUNT-mode command goes with its completion (R262). -/
def sisectFinal (r : Run) : List (Nat × List Byte) :=
  if r.c.sisKeys || r.fault.isSome then []
  else match r.iaOf (r.c.va 0x30) 8 true with
    | some a => [(a, toBytes 8 r.c.work.count)]
    | none => []

/-- The stream engine. -/
def sisectUnit : Unit_ :=
  { check := sisectCheck, setup := sisectSetup, element := fun r => sisectStep r.caughtUp r, final := sisectFinal, resume := sisectSetup
    record := streamRecord fun c => c.work.count }

/-- R412: intersects two increasing key streams. -/
def execSisect (c : CmdRef) (s : State) : Outcome := s.commandEvent sisectUnit 6 c

end Sys2Proof.Machine
end

