-- ==== Sys2Proof/Machine/Collective.lean ====
section
/-! DEFINITION. The collective agent: COLL (R264, R265, R329, R356, R357), and queue control: QCTL SPILL (R59, R330, R402). -/

namespace Sys2Proof.Machine

/-- COUNT. -/
def Cmd.collCount (c : Cmd) : Nat := c.num 0x48 4
/-- MEMBERS. -/
def Cmd.collMembers (c : Cmd) : Nat := c.num 0x4C 2
/-- COP. -/
def Cmd.collOp (c : Cmd) : Nat := c.num 0x50 1
/-- FMT. -/
def Cmd.collFmt (c : Cmd) : Fmt := (Fmt.ofCode (c.num 0x52 1)).getD (.int 32)

/-- The limits of R329 and R356 on the record alone. -/
def Cmd.collFields (c : Cmd) : Bool :=
  decide (1 ≤ c.collCount ∧ c.collCount ≤ 2 ^ 24 ∧ 2 ≤ c.collMembers ∧ c.collMembers ≤ 4096 ∧ c.collOp ≤ 2 ∧ c.num 0x51 1 ≤ 2) &&
    decide ((c.va 0x20).toNat % 4 = 0) &&
    (if c.collOp = 0 then decide (c.num 0x4E 2 < c.collMembers) else c.num 0x4E 2 == 0) &&
    (c.collOp != 1 || c.num 0x51 1 == 0) && [0x02, 0x03, 0x0A, 0x0B, 0x0C].contains (c.num 0x52 1) &&
    (c.collOp != 2 || decide (c.collCount % c.collMembers = 0)) && !c.resume && allZero c.bytes 0x53 45

/-- Chip and tile of a member word (R264). -/
def memberAt (w : Nat) : Nat × Nat := (field w 10 9, field w 0 10)

/-- The list has no reserved bit, no repeated member, and the issuing tile once (R356). -/
def listOk (chip tile : Nat) (ws : List Nat) : Bool :=
  (ws.all fun w => decide (w < 2 ^ 19)) && decide ws.Nodup && (ws.filter fun w => memberAt w == (chip, tile)).length == 1

/-- The rank of a tile in a list. -/
def rankIn (chip tile : Nat) (ws : List Nat) : Nat := ws.findIdx fun w => memberAt w == (chip, tile)

/-- DST elements of a rank (R356). -/
def Cmd.collOut (c : Cmd) (rank : Nat) : Nat :=
  match c.collOp with
  | 0 => if rank = c.num 0x4E 2 then c.collCount else 0
  | 1 => c.collMembers * c.collCount
  | _ => c.collCount / c.collMembers

/-- The start checks of one member's record (R356, R191), and its list in `index`. An unreadable list is a fault after the start;
one on a page that faults or moves is waited for. -/
def collRecord (r : Run) : Run :=
  let c := r.c
  r.crecAt 0x38 32 malformed fun r =>
    r.check c.collFields malformed fun r =>
      match r.iaOf (c.va 0x20) (4 * c.collMembers) false with
      | none => r
      | some a =>
        if (r.s.uncorrectable a (4 * c.collMembers)).isSome then r
        else r.read 0 (c.va 0x20) (4 * c.collMembers) fun r bs =>
          let ws := indexes bs
          r.check (listOk r.s.chip r.k ws) malformed fun r =>
            (r.modWork fun w => { w with index := ws }).extent
              (r.rangePieces (c.va 0x30) (c.collOut (rankIn r.s.chip r.k ws) * c.collFmt.bytes)) id

/-- Members of the list on other packages. -/
def Run.awayMembers (r : Run) : List Nat := r.c.work.index.filter fun w => (memberAt w).1 != r.s.chip

/-- A member starts: its list, and one message to each member on another package (R254). `total` stays above PROGRESS until the
collective ends. -/
def collJoin (r : Run) : Run :=
  r.read 0 (r.c.va 0x20) (4 * r.c.collMembers) fun r bs =>
    let r := r.modWork fun w => { w with index := indexes bs, total := 1 }
    let o := r.s.originOf r.k r.c
    let s := r.awayMembers.foldl (fun s w => (s.bumpSlot o.track 0 1).noteSent o (.coll (memberAt w).1)) r.s
    { r with s := if r.awayMembers.isEmpty then s else s.emit (.contribution r.k r.c.seq) }

/-- What one member's agent does when its turn has come. -/
def collMember : Unit_ := { check := collRecord, setup := collJoin, element := fun r => { r with waits := true }, record := copyRecord }

/-- The fields that all members share (R264): the list and the body but for SRC, DST and CREC. -/
def Cmd.collShared (c : Cmd) : List Nat × List Byte := (c.work.index, (c.bytes.drop 0x40).take 0x40)

/-- Two COLL commands belong to one collective (R264). -/
def Cmd.sameColl (x c : Cmd) : Bool := x.engine == 5 && x.num 0x40 4 == c.num 0x40 4 && x.num 0x44 4 == c.num 0x44 4

/-- The running command of a member on a tile of this package. -/
def State.collAt (s : State) (c : Cmd) (tile : Nat) : Option Cmd :=
  (s.tile tile).cmds.find? fun x => x.sameColl c && x.state == .running

/-- The other members of this package that wait at their start for command c (R264): their tiles and commands, each with its own
checks made. -/
def Run.collOthers (r : Run) : List Run :=
  (r.c.work.index.filterMap fun w =>
    if memberAt w = (r.s.chip, r.k) ∨ (memberAt w).1 ≠ r.s.chip then none
    else
      let k := (memberAt w).2
      ((r.s.tile k).cmds.find? fun x => x.sameColl r.c && x.state == .queued && x.unset && r.s.couldStart k x).map fun x =>
        collRecord { s := r.s, k := k, c := x }).filter fun x => x.fault.isNone && !x.waits

/-- The members on other packages, by their ranks; each brings a fate (R264). -/
def Run.collAwayDiffers (r : Run) : Bool :=
  r.c.work.index.zipIdx.any fun w => (memberAt w.1).1 != r.s.chip && Config.collectiveFate r.s.steps w.2 == 1

/-- The start of a member (R264, R191, R356): its own checks; then it waits, before it takes a pip, until every member has issued its
command. When all have, fields that differ refuse the command of every member. -/
def collCheck (r : Run) : Run :=
  let r := collRecord r
  if r.fault.isSome || r.waits || r.c.work.index.isEmpty then r
  else
    let others := r.collOthers
    if others.length + 1 + r.awayMembers.length < r.c.work.index.length then { r with waits := true }
    else if others.any (fun x => x.c.collShared != r.c.collShared) || r.collAwayDiffers then
      { r with s := others.foldl (fun (s : State) (x : Run) =>
        (s.popQueue x.k x.c).endCommand x.k { x.c with extent := [] } (some malformed) true (copyRecord x.c)) r.s }.fail malformed
    else r

/-- The start of a collective: the members of this package start together. -/
def collSetup (r : Run) : Run :=
  let others := r.collOthers
  let r := collJoin r
  if r.fault.isSome || r.waits then r else { r with s := others.foldl (fun (s : State) (x : Run) => s.beginCommand collMember x.k { x.c with unset := false }) r.s }

/-- The agent: once started it has nothing to do alone. -/
def collUnit : Unit_ := { collMember with check := collCheck, setup := collSetup }

/-- R356: joins the collective named by GROUP_ID and SEQ. -/
def execColl (c : CmdRef) (s : State) : Outcome := s.commandEvent collUnit 9 c

/-- Reads `n` values of `size` bytes one by one. -/
def Run.loadAll (va : W64) (size : Nat) : Nat → Nat → List Nat → Run → Run × List Nat
  | 0, _, acc, r => (r, acc)
  | n + 1, i, acc, r =>
    let r' := r.read 0 (va + BitVec.ofNat 64 (i * size)) size fun r bs => r.modWork fun w => { w with block := [some (ofBytes bs)] }
    if r'.fault.isSome || r'.waits then (r', acc)
    else Run.loadAll va size n (i + 1) (acc ++ [((r'.c.work.block.headD none).getD 0)]) r'

/-- What the members bring (R265, R357): their values by rank, the first fault of any, or a wait. -/
def State.contributions (c : Cmd) : List Nat → Nat → State → List (List Nat) → State × Except (Option CmdFault) (List (List Nat))
  | [], _, s, acc => (s, .ok acc)
  | w :: ws, rank, s, acc =>
    let (chip, tile) := memberAt w
    if chip ≠ s.chip then
      match Config.collectiveFate s.steps rank with
      | 0 => s.contributions c ws (rank + 1)
          (acc ++ [(List.range c.collCount).map fun e => Config.collectiveValue s.steps rank e % 2 ^ c.collFmt.width])
      | 2 => (s, .error (some { cause := 4 }))
      | _ => (s, .error (some { cause := 0xA }))
    else match s.collAt c tile with
      | none => (s, .error none)
      | some x =>
        let (r, vs) := Run.loadAll (x.va 0x28) c.collFmt.bytes c.collCount 0 [] { s := s, k := tile, c := x }
        if r.waits then (r.s, .error none)
        else match r.fault with
          | some f => (r.s, .error (some f))
          | none => r.s.contributions c ws (rank + 1) (acc ++ [vs])

/-- The reduction of one element over the members in rank order (R265): bits and flags. -/
def reduceValues (f : Fmt) (red : Nat) (xs : List Nat) : Nat × FlagSet :=
  match f, red with
  | .int w, 0 => (wrapInt w (xs.map fun x => sgn w x).sum, 0)
  | .int w, m =>
    (wrapInt w ((xs.drop 1).foldl (fun a x => if m = 1 then min a (sgn w x) else max a (sgn w x)) (sgn w (xs.headD 0))), 0)
  | .fp g, 0 => (xs.foldl (fun (a : Xa) x => a.add (readFp g x)) Xa.zero).read g
  | .fp g, m => (xs.drop 1).foldl (fun a x => let (y, fl) := fpMinMax g (m == 2) a.1 x; (y, fl ||| a.2)) (xs.headD 0, 0)

/-- The DST elements of a rank (R265, R356) and their flags. -/
def Cmd.collResult (c : Cmd) (vals : List (List Nat)) (rank : Nat) : List Nat × FlagSet :=
  let red (e : Nat) : Nat × FlagSet := reduceValues c.collFmt (c.num 0x51 1) (vals.map fun v => v.getD e 0)
  let out (es : List Nat) : List Nat × FlagSet :=
    let rs := es.map red
    (rs.map (·.1), (rs.map (·.2)).foldl (· ||| ·) 0)
  match c.collOp with
  | 0 => if rank = c.num 0x4E 2 then out (List.range c.collCount) else ([], 0)
  | 1 => (vals.flatten, 0)
  | _ => let n := c.collCount / c.collMembers; out ((List.range n).map fun e => rank * n + e)

/-- The members of this package: tile and command. -/
def State.localMembers (s : State) (c : Cmd) : List (Nat × Cmd) :=
  c.work.index.filterMap fun w => if (memberAt w).1 = s.chip then (s.collAt c (memberAt w).2).map fun x => ((memberAt w).2, x) else none

/-- A member's result in its shadow (R160). -/
def Run.collStore (r : Run) (vals : List (List Nat)) : Run :=
  let c := r.c
  let (xs, fl) := c.collResult vals (rankIn r.s.chip r.k c.work.index)
  let size := c.collFmt.bytes
  let r := xs.zipIdx.foldl (fun r x => r.write 0 (c.va 0x30 + BitVec.ofNat 64 (x.2 * size)) (toBytes size x.1) id) r
  if r.fault.isSome || r.waits then r else (r.flags fl).reach xs.length

/-- The messages of the members on other packages have come, one to each member of this package (R254). -/
def State.collReceived (s : State) (c : Cmd) (members away : Nat) : State :=
  (List.range (members * away)).foldl (fun s _ => s.bumpSlot (s.job (s.task c.task).job).track 8 1) s

/-- Members on other packages. -/
def State.collAway (s : State) (c : Cmd) : Nat := (c.work.index.filter fun w => (memberAt w).1 != s.chip).length

/-- The collective of a running COLL ends by a fault on every member of this package, at element 0 (R357). -/
def State.failColl (s : State) (c : Cmd) (f : CmdFault) : State :=
  let members := s.localMembers c
  members.foldl (fun s x => s.endCommand x.1 x.2 (some { f with element := 0 }) false (copyRecord x.2))
    (s.collReceived c members.length (s.collAway c))

/-- The collective of a running COLL ends on every member of this package, when all have joined (R264, R356, R357). -/
def State.finishColl (s : State) (c : Cmd) : State :=
  let members := s.localMembers c
  let away := s.collAway c
  if members.length + away ≠ c.work.index.length then s
  else
    let (s', res) := s.contributions c c.work.index 0 []
    match res with
    | .error none => s.keepFault s'
    | .error (some f) => s'.failColl c f
    | .ok vals =>
      let (s'', runs) := members.foldl (fun (acc : State × List Run) x =>
        let r := Run.collStore { s := acc.1, k := x.1, c := x.2 } vals
        (r.s, acc.2 ++ [r])) (s', [])
      if runs.any (·.waits) then s.keepFault s''
      else match runs.findSome? (·.fault) with
        | some f => s'.failColl c f
        | none => runs.foldl (fun s r => s.endCommand r.k r.c none false (copyRecord r.c)) (s''.collReceived c members.length away)

/-- The oldest continuation record of tile k moves to the SPILL queue (R59); `none` when there is none or no room. -/
def State.spillOldest (s : State) (k : Nat) : Option State :=
  match (s.tile k).recs.find? fun r => !r.spilled && !r.gone && !r.isSnapshot with
  | none => none
  | some r =>
    let q := s.tileQcw k 30
    if q.depth < q.occupancy + r.granules then none
    else
      let bs := s.recBytes k r
      let s := s.writeGranules q q.tail bs r.granules
      let s := s.modTile k fun t =>
        { t with recs := t.recs.map fun x => if x.num = r.num then { x with spilled := true, granule := q.tail } else x }
      let h := (s.tile k).contHeadNow
      let s := s.modTile k fun t => { t with contHead := h }
      some ((s.poke (qcwTable k 30 + 20) (toBytes 4 ((q.tail + r.granules) % 2 ^ 32))).poke (qcwTable k 28 + 16) (toBytes 4 h))

/-- The start checks of a QCTL (R330, R402). -/
def qctlCheck (r : Run) : Run :=
  let n := r.c.num 0x24 4
  r.crecAt 0x28 32 malformed fun r =>
    r.check (r.c.num 0x20 1 == 1 && decide (1 ≤ n ∧ n ≤ 65535) && r.zero 0x21 3 && r.zero 0x30 80 && (r.s.tileQcw r.k 30).valid &&
      (r.s.tileQcw r.k 30).kind == 6) malformed id

/-- One record moves, or the command has no more to move (R402). -/
def qctlElement (r : Run) : Run :=
  match r.s.spillOldest r.k with
  | some s => { r with s := s }.reach (r.pos + 1)
  | none => r.modWork fun w => { w with total := r.pos }

/-- Queue control. -/
def qctlUnit : Unit_ :=
  { check := qctlCheck, setup := fun r => r.modWork fun w => { w with total := r.c.num 0x24 4 }, element := qctlElement, record := copyRecord }

/-- R402: moves the oldest continuation records to the spill area. -/
def execQctlSpill (c : CmdRef) (s : State) : Outcome := s.commandEvent qctlUnit 0x0A c

end Sys2Proof.Machine
end

