-- ==== Sys2Proof/Machine/Mask.lean ====
section
/-! DEFINITION. The mask unit (R219 to R233, R394): descriptors and programs, evaluation of a query row, classification of
score tiles, and MSKEV. -/

namespace Sys2Proof.Machine

/-- A mask-program fault (R224, R473): word index, query position and table index. -/
def maskFault (sub el word q index : Nat) : CmdFault :=
  { cause := 7, sub := sub, element := el, detail := toBytes 1 word ++ toBytes 3 0 ++ toBytes 4 q ++ toBytes 4 index }

/-- A descriptor outside its limits. -/
def badDesc : CmdFault := maskFault 7 0 0xFF 0 0

/-- An interval register (R220): the pair (lo, hi); empty when lo > hi. -/
abbrev Interval := Int × Int

/-- The canonical empty pair. -/
def emptyIv : Interval := (0, -1)
/-- The pair is empty. -/
def ivEmpty (x : Interval) : Bool := decide (x.2 < x.1)
/-- Canonical form (R220). -/
def canonIv (x : Interval) : Interval := if ivEmpty x then emptyIv else x
/-- sat_s(x, 32). -/
def sat32 (x : Int) : Int := max (-2147483648) (min 2147483647 x)

/-- The mask of the fields that an operation does not use, or none for a reserved OP (R221, R222). -/
def maskUnused (op : Nat) : Option Nat :=
  match op with
  | 0x1 => some 0x00FFFFFF
  | 0x2 => some 0x00FFFFFF
  | 0x3 => some 0x000FFFFF
  | 0x4 => some 0x000FFFFF
  | 0x5 => some 0x0000FFFF
  | 0x6 => some 0x0000FFFF
  | 0x7 => some 0
  | 0x8 => some 0x0000FFFF
  | 0x9 => some 0x0000FFFF
  | 0xA => some 0
  | 0xB => some 0x0F0FFFFF
  | 0xC => some 0x0FFFFFFF
  | _ => none

/-- Bits that are zero because a register field is at most 7: bit 3 of each register field that the operation uses. -/
def maskHigh (op : Nat) : Nat :=
  match op with
  | 0x7 => 0x08800000
  | 0xA => 0x08800000
  | _ => 0x08880000

/-- The check of one word of a program (R224). -/
def maskWordFault (qn kn len i ranges : Nat) (w : W32) : Option CmdFault :=
  let x := w.toNat
  let op := x / 2 ^ 28
  match maskUnused op with
  | none => some (maskFault 1 0 i 0 0)
  | some un =>
    if x &&& un ≠ 0 ∨ x &&& maskHigh op ≠ 0 then some (maskFault 2 0 i 0 0)
    else if op = 0xC ∧ i + 1 ≠ len then some (maskFault 5 0 i 0 0)
    else if op = 0xB ∧ 2 ≤ ranges then some (maskFault 3 0 i 0 0)
    else if op = 3 ∧ qn = 0 ∨ op = 4 ∧ kn = 0 then some (maskFault 6 0 i 0 0)
    else none

/-- The check of a program's words in word order, and last of its final word (R224). -/
def maskProgFault (qn kn len : Nat) : List W32 → Nat → Nat → Option W32 → Option CmdFault
  | [], _, _, last => match last with
    | some w => if w.toNat / 2 ^ 28 = 0xC then none else some (maskFault 5 0 (len - 1) 0 0)
    | none => none
  | w :: ws, i, ranges, _ =>
    match maskWordFault qn kn len i ranges w with
    | some f => some f
    | none => maskProgFault qn kn len ws (i + 1) (if w.toNat / 2 ^ 28 = 0xB then ranges + 1 else ranges) (some w)

/-- The fields of a descriptor that a command holds after its start. -/
structure MaskDesc where
  qdoc : W64
  kdoc : W64
  qn : Nat
  kn : Nat
  q0 : Nat
  k0 : Nat
  klen : Nat
  qlen : Nat
  bits : W64
  deriving DecidableEq, Repr, Inhabited

/-- The fields of 64 descriptor bytes (R219). -/
def MaskDesc.ofBytes (bs : List Byte) : MaskDesc :=
  ⟨wordAt bs 8, wordAt bs 0x10, fieldAt bs 0x18 4, fieldAt bs 0x1C 4, fieldAt bs 0x20 4, fieldAt bs 0x24 4, fieldAt bs 0x28 4,
    fieldAt bs 0x2C 4, wordAt bs 0x30⟩

/-- The limits of R219 for a command that names `rows` queries and `cols` keys. -/
def descOk (bs : List Byte) (rows cols : Nat) : Bool :=
  let d := MaskDesc.ofBytes bs
  decide (d.qdoc.toNat % 4 = 0 ∧ d.kdoc.toNat % 4 = 0 ∧ d.qn ≤ 65536 ∧ d.kn ≤ 65536 ∧ 1 ≤ d.klen ∧ d.klen < 2 ^ 31 ∧
    1 ≤ d.qlen ∧ d.qlen < 2 ^ 31 ∧ d.q0 + rows ≤ 2 ^ 31 ∧ d.k0 + cols ≤ 2 ^ 31) &&
    (d.qn != 0 || d.qdoc == 0) && (d.kn != 0 || d.kdoc == 0) && allZero bs 0x39 7

/-- The start checks of a descriptor and its program (R224), which are copied into the unit (R231). An address that does not
translate, or holds an error, faults once the command has started; one on a page that faults or moves is waited for. -/
def Run.maskStart (r : Run) (va : W64) (rows cols : Nat) (useBits : Bool) (k : Run → Run) : Run :=
  r.check (va.toNat % 64 == 0) badDesc fun r =>
    match r.iaOf va 64 false with
    | none => k r
    | some a =>
      if (r.s.uncorrectable a 64).isSome then k r
      else r.read 0 va 64 fun r bs =>
      let d := MaskDesc.ofBytes bs
      let len := fieldAt bs 0x38 1
      let n := 4 * max 1 (min len 16)
      r.check (descOk bs rows cols && (!useBits || d.bits == 0 || (r.own d.bits (8 * rows) 8 true).isSome)) badDesc fun r =>
        match r.own (wordAt bs 0) n 64 false with
        | none => r.fail badDesc
        | some _ =>
          r.check (decide (1 ≤ len ∧ len ≤ 16)) (maskFault 4 0 0xFF 0 0) fun r => r.read 0 (wordAt bs 0) n fun r ps =>
            let ws := (indexes ps).map (BitVec.ofNat 32 ·)
            match maskProgFault d.qn d.kn len ws 0 0 none with
            | some f => r.fail f
            | none => k (r.modWork fun w => { w with head := bs, prog := ws })

/-- The descriptor is read once: where its start check could not read it, it faults here (R224, R394). -/
def Run.descRead (r : Run) (el : Nat) (va : W64) (k : Run → Run) : Run :=
  if r.c.work.head.isEmpty then r.read el va 64 fun r _ => k r else k r

/-- Entry t of a table, read at most once per command (R219, R231). -/
def Run.tableEntry (r : Run) (kdoc : Bool) (t : Nat) (k : Run → Int → Run) : Run :=
  let key := (if kdoc then 2 ^ 17 else 0) + t
  match Tab.find r.c.work.tables key with
  | some v => k r v
  | none =>
    let d := MaskDesc.ofBytes r.c.work.head
    r.read r.pos ((if kdoc then d.kdoc else d.qdoc) + BitVec.ofNat 64 (4 * t)) 4 fun r bs =>
      let v := min (ofBytes bs) (2 ^ 31 - 1)
      k (r.modWork fun w => { w with tables := Tab.put w.tables key v }) v

/-- The largest t below n with QDOC[t] at or below x (R222). -/
def Run.findDoc (x : Int) : Nat → Run → (Run → Option Nat → Run) → Run
  | 0, r, k => k r none
  | n + 1, r, k => r.tableEntry false n fun r v => if v ≤ x then k r (some n) else Run.findDoc x n r k

/-- Register fields of a mask word. -/
def maskReg (ms : List Interval) (w : W32) (lo : Nat) : Interval := ms.getD (field w.toNat lo 3) emptyIv

/-- The operations of R222 that read no table; `none` for the others. -/
def maskPure (w : W32) (q klen : Nat) (ms : List Interval) : Option Interval :=
  let a := maskReg ms w 20
  let b := maskReg ms w 16
  let imm := sgn 20 w.toNat
  match w.toNat / 2 ^ 28 with
  | 0x1 => some (q, q)
  | 0x2 => some (0, (klen : Int) - 1)
  | 0x5 => some (if ivEmpty a || ivEmpty b then emptyIv else (a.1, min a.2 (sat32 (b.1 - 1))))
  | 0x6 => some (if ivEmpty a || ivEmpty b then emptyIv else (a.1, min a.2 b.1))
  | 0x7 => some (if ivEmpty a then emptyIv else (sat32 (a.1 + imm), sat32 (a.2 + imm)))
  | 0x8 => some (max a.1 b.1, min a.2 b.2)
  | 0x9 => some (if ivEmpty a then b else if ivEmpty b then a else (min a.1 b.1, max a.2 b.2))
  | 0xA => some (if ivEmpty a then emptyIv else (sat32 (a.1 - imm), a.2))
  | _ => none

/-- Evaluates a program for query position q (R222, R223): the nonempty intervals emitted. -/
def Run.maskRow (q : Nat) : List W32 → Nat → List Interval → List Interval → Run → (Run → List Interval → Run) → Run
  | [], _, _, out, r, k => k r out
  | w :: ws, i, ms, out, r, k =>
    let d := MaskDesc.ofBytes r.c.work.head
    let a := maskReg ms w 20
    let put (r : Run) (x : Interval) : Run := Run.maskRow q ws (i + 1) (ms.set (field w.toNat 24 3) (canonIv x)) out r k
    match maskPure w q d.klen ms with
    | some x => put r x
    | none =>
      match w.toNat / 2 ^ 28 with
      | 0x3 =>
        if ivEmpty a then put r emptyIv
        else Run.findDoc a.1 d.qn r fun r t => put r (match t with
          | some t => (t, t)
          | none => emptyIv)
      | 0x4 =>
        if ivEmpty a then put r emptyIv
        else if a.1 < 0 ∨ (d.kn : Int) ≤ a.1 then r.fail (maskFault 6 r.pos i q (wrapInt 32 a.1))
        else
          let t := a.1.toNat
          if t + 1 < d.kn then r.tableEntry true (t + 1) fun r hi => r.tableEntry true t fun r lo => put r (lo, hi - 1)
          else r.tableEntry true t fun r lo => put r (lo, (d.klen : Int) - 1)
      | 0xB => Run.maskRow q ws (i + 1) ms (if ivEmpty a then out else out ++ [a]) r k
      | _ => k r out

/-- allowed(q, k0 + j) for j below n, bit j (R223, R227). -/
def allowedWord (d : MaskDesc) (q k0 n : Nat) (ivs : List Interval) : Nat :=
  if d.qlen ≤ q then 0
  else ivs.foldl (fun acc x =>
    let lo := max (max x.1 0) (k0 : Int)
    let hi := min (min x.2 ((d.klen : Int) - 1)) ((k0 + n : Nat) - 1 : Int)
    if lo ≤ hi then acc ||| ((2 ^ (hi - lo + 1).toNat - 1) * 2 ^ (lo - k0).toNat) else acc) 0

/-- The intervals of `n` rows from query position q on. -/
def Run.maskRows (q : Nat) : Nat → Run → List (List Interval) → (Run → List (List Interval) → Run) → Run
  | 0, r, acc, k => k r acc
  | n + 1, r, acc, k =>
    Run.maskRow q r.c.work.prog 0 (List.replicate 8 emptyIv) [] r fun r ivs => Run.maskRows (q + 1) n r (acc ++ [ivs]) k

/-- The class of a score tile from its rows' words (R225): 0 EMPTY, 1 PARTIAL, 2 FULL. -/
def classOf (n : Nat) (ws : List Nat) : Nat :=
  if ws.all (· == 2 ^ n - 1) then 2 else if ws.all (· == 0) then 0 else 1

/-- A classified tile counts in its counter (R233). -/
def State.countClass (s : State) (k cls : Nat) : State := s.count k (if cls = 2 then 0x10 else if cls = 1 then 0x11 else 0x12)

/-- The fields of R228. -/
def Cmd.mskevFields (c : Cmd) : Bool :=
  decide (1 ≤ c.num 0x38 2 ∧ 1 ≤ c.num 0x3A 2 ∧ c.num 0x28 8 % 64 = 0) && c.num 0x3C 68 == 0

/-- The start checks of an MSKEV (R228, R394). -/
def mskevCheck (r : Run) : Run :=
  r.crecAt 0x30 32 badDesc fun r =>
    r.check r.c.mskevFields badDesc fun r =>
      let c := r.c
      let tiles := c.num 0x38 2 * c.num 0x3A 2
      r.maskStart (c.va 0x20) (32 * c.num 0x38 2) (32 * c.num 0x3A 2) false fun r =>
        r.extent (r.pieces ((List.range ((tiles + 3) / 4)).map fun i => (c.va 0x28 + BitVec.ofNat 64 i, 1))) id

/-- Once started: the grid, and the tiles of the first map byte that an earlier part classified. `srcOff` is the first tile of
that byte; `cursor` counts EMPTY, PARTIAL and FULL. -/
def mskevSetup (r : Run) : Run :=
  let c := r.c
  let total := c.num 0x38 2 * c.num 0x3A 2
  let p := min r.pos total
  let r := r.modWork fun w => { w with total := total, srcOff := p / 4 * 4, cursor := [0, 0, 0] }
  let ready (r : Run) : Run := r.descRead p (c.va 0x20) id
  if p % 4 = 0 then ready r
  else r.read p (c.va 0x28 + BitVec.ofNat 64 (p / 4)) 1 fun r bs =>
    ready (r.modWork fun w => { w with classes := (List.range (p % 4)).map fun u => field (ofBytes bs) (2 * u) 2 })

/-- One tile of the grid (R225, R228). -/
def mskevElement (r : Run) : Run :=
  let c := r.c
  let t := r.pos
  let tk := c.num 0x3A 2
  let d := MaskDesc.ofBytes c.work.head
  let q := d.q0 + 32 * (t / tk)
  let k0 := d.k0 + 32 * (t % tk)
  Run.maskRows q 32 r [] fun r rows =>
    let cls := classOf 32 (rows.zipIdx.map fun x => allowedWord d (q + x.2) k0 32 x.1)
    r.unit t (c.va 0x28 + BitVec.ofNat 64 (t / 4)) 1 true fun r a =>
      if r.liveHit a 1 then r.fail (r.leaseFault t (c.va 0x28 + BitVec.ofNat 64 (t / 4)))
      else
      let r := { r with s := (r.s.countClass r.k cls).countCycles r.k 0x13 }
      (r.modWork fun w => { w with classes := w.classes ++ [cls], cursor := w.cursor.modify cls (· + 1) }).reach (t + 1)

/-- Map bytes of tiles from `srcOff` up to tile n, those not classified 3 (R228). -/
def Cmd.mapBytes (c : Cmd) (n : Nat) : List Byte :=
  (List.range ((n - c.work.srcOff + 3) / 4)).map fun i =>
    BitVec.ofNat 8 (((List.range 4).map fun u => c.work.classes.getD (4 * i + u) 3 * 4 ^ u).sum)

/-- The map bytes up to tile n at their places; a byte that holds the class of a tile below PROGRESS that is not known here, the
command not having been set up, is left as it stands. -/
def Run.mapWrites (r : Run) (n : Nat) : List (Nat × List Byte) :=
  let w := r.c.work
  (r.c.mapBytes n).zipIdx.filterMap fun b =>
    let i := w.srcOff / 4 + b.2
    if w.srcOff + w.classes.length < min r.pos (4 * i + 4) then none
    else ((r.iaOf (r.c.va 0x28 + BitVec.ofNat 64 i) 1 true).filter fun a => !r.liveHit a 1).map fun a => (a, [b.1])

/-- Counts of FULL, PARTIAL and EMPTY as a record holds them. -/
def Cmd.classCounts (c : Cmd) : List Byte :=
  toBytes 4 (c.work.cursor.getD 2 0) ++ toBytes 4 (c.work.cursor.getD 1 0) ++ toBytes 4 (c.work.cursor.getD 0 0)

/-- MSKEV's completion record (R229): of a grid that ended before the command's PROGRESS, every tile is classified; of a refused
command, none. -/
def mskevRecord (c : Cmd) (status : Nat) : List Byte :=
  toBytes 4 c.id.toNat ++ toBytes 2 status ++ toBytes 2 0 ++ toBytes 8 (min c.progress.toNat c.work.total) ++ c.classCounts ++ toBytes 4 0

/-- MSKEV (R394). Stopped, it publishes the tiles below PROGRESS; it goes on from the map byte of PROGRESS and reads the
tables again (R232). -/
def mskevUnit : Unit_ :=
  { check := mskevCheck, setup := mskevSetup, element := mskevElement, final := fun r => r.mapWrites r.c.work.total
    stop := fun _ r => { r with c := { r.c with shadow := r.c.shadow ++ r.mapWrites r.pos } }
    resume := fun r => r.modWork fun w =>
      { w with srcOff := r.pos / 4 * 4, classes := w.classes.drop (r.pos / 4 * 4 - w.srcOff), tables := [] }
    record := mskevRecord }

/-- R394: classifies a grid of score tiles into a map. -/
def execMskev (c : CmdRef) (s : State) : Outcome := s.commandEvent mskevUnit 7 c

end Sys2Proof.Machine
end

