-- ==== Sys2Proof/Machine/ArrayFront.lean ====
section
/-! DEFINITION. The front end of the elastic array (R100, R101, R193 to R209): operands and their panels, the checks of
compressed panels, queue entries, and the schedule of row queues. -/

namespace Sys2Proof.Machine

/-- An element as the array sees it (R100): the pair, the bits as stored, its block exponent, its sign; replaced under R101. -/
structure OpElem where
  m : Int
  e : Int
  raw : Nat
  bexp : Nat
  neg : Bool
  nonfinite : Bool
  deriving DecidableEq, Repr, Inhabited

/-- A position of a panel: absent, present, or in a unit that faults. -/
abbrev Cell_ := Option (Except CmdFault OpElem)

/-- Formats that the array accepts (R100). -/
def arrayFmt (f : Nat) : Bool := [0x00, 0x08, 0x09, 0x0A, 0x0B].contains f || (bfpOfCode f).isSome

/-- B width: cycles of a block step (R100). -/
def bWidth (f : Nat) : Nat :=
  match f with
  | 0x08 => 5
  | 0x09 => 4
  | 0x0B => 9
  | 0x0A => 12
  | _ => (bfpOfCode f).getD 8

/-- The pair of a stored element (R100, R101). -/
def opElem (fmt raw bexp : Nat) : OpElem :=
  match bfpOfCode fmt with
  | some b => ⟨sgn b raw, (bexp : Int) - 127, raw, bexp, false, false⟩
  | none =>
    match Fmt.ofCode fmt with
    | some (.fp f) =>
      let ex := field raw f.fw f.ew
      let fr := field raw 0 f.fw
      let neg := bitAt raw (f.ew + f.fw)
      match readFp f raw with
      | .fin _ _ _ =>
        let m : Int := if ex = 0 then (fr : Int) else (fr + 2 ^ f.fw : Nat)
        let e : Int := (if ex = 0 then 1 else (ex : Int)) - f.bias - f.fw
        ⟨if neg then -m else m, e, raw, 0, neg, false⟩
      | _ => ⟨0, 0, raw, 0, false, true⟩
    | _ => ⟨sgn 8 raw, 0, raw, 0, false, false⟩

/-- An operand of an MMA (R193, R323). -/
structure Operand where
  isB : Bool
  tf : Nat
  fmt : Nat
  src : Nat
  va : W64
  aux : W64
  pitch : Nat
  rows : Nat
  deriving DecidableEq, Repr, Inhabited

/-- M of an MMA. -/
def Cmd.m (c : Cmd) : Nat := c.num 0x6C 1
/-- N. -/
def Cmd.n (c : Cmd) : Nat := c.num 0x6D 1
/-- K. -/
def Cmd.k (c : Cmd) : Nat := c.num 0x58 4
/-- MCTL bits: CLEAR, ARRIVAL, SKIP. -/
def Cmd.mctl (c : Cmd) (i : Nat) : Bool := bitAt (c.num 0x76 1) i
/-- ACC_BASE. -/
def Cmd.accBase (c : Cmd) : Nat := c.num 0x72 2
/-- ANCHOR. -/
def Cmd.anchor (c : Cmd) : Int := sgn 16 (c.num 0x74 2)

/-- Operand A, or B. -/
def Cmd.operand (c : Cmd) (isB : Bool) : Operand :=
  if isB then ⟨true, c.num 0x6E 1 / 16, c.num 0x70 1, field (c.num 0x71 1) 2 2, c.va 0x28, c.va 0x38, c.num 0x64 4, 0⟩
  else ⟨false, c.num 0x6E 1 % 16, c.num 0x6F 1, field (c.num 0x71 1) 0 2, c.va 0x20, c.va 0x30, c.num 0x60 4, c.num 0x5C 4⟩

/-- Dense mode (R195). -/
def Cmd.dense (c : Cmd) : Bool := decide ((c.operand false).tf ≤ 1 ∧ (c.operand true).tf ≤ 1)

/-- The limits of R193 on one operand. -/
def Operand.ok (o : Operand) : Bool :=
  decide (o.tf ≤ 4) && arrayFmt o.fmt && (o.tf == 1) == (bfpOfCode o.fmt).isSome &&
    decide (o.pitch % (if o.tf ≤ 1 then 8 else 64) = 0) && (decide (2 ≤ o.src) || o.aux == 0) &&
    (!o.isB || o.src != 3) && (o.rows != 0) == (o.src == 3) && (o.src != 3 || decide (o.tf ≤ 1))

/-- The fields of R193 that the record alone decides. -/
def Cmd.mmaFields (c : Cmd) : Bool :=
  decide (1 ≤ c.m ∧ c.m ≤ 64 ∧ 1 ≤ c.n ∧ c.n ≤ 64 ∧ 1 ≤ c.k ∧ c.k ≤ 2 ^ 24 ∧ c.accBase + 64 * (c.m - 1) + c.n - 1 ≤ 4095) &&
    (c.operand false).ok && (c.operand true).ok && c.num 0x71 1 < 16 && c.num 0x76 1 < 8 && c.num 0x77 9 == 0 &&
    c.num 0x68 4 % 128 == 0

/-- Bytes of `n` elements of a dense or block row from an element that a block begins. -/
def rowBytes (fmt n : Nat) : Nat :=
  match bfpOfCode fmt with
  | some b => (n + 31) / 32 * (1 + 4 * b)
  | none => n * unitBytes fmt

/-- The ring of an operand: the VA of its QCW. -/
def Operand.ringVa (o : Operand) : Option W64 := if o.src = 1 then some o.va else if o.src = 2 then some o.aux else none

/-- A panel of a dense or block operand in a slot (R208, R209). -/
def Cmd.slotBytes (c : Cmd) (o : Operand) : Nat :=
  let nk := min 32 c.k
  if o.isB then (nk - 1) * o.pitch + rowBytes o.fmt c.n else (c.m - 1) * o.pitch + rowBytes o.fmt nk

/-- The IA of an operand's ring, if it names one that is good (R209). -/
def Run.ringIA (r : Run) (o : Operand) : Option Nat :=
  o.ringVa.bind fun va => (r.own va 32 32 true).bind fun a =>
    (r.s.ringAt r.k a).bind fun q => if 2 ≤ o.tf ∨ r.c.slotBytes o ≤ q.elem then some a else none

/-- The start checks of one operand (R193, R208, R209): its ring is opened. -/
def Run.operandStart (r : Run) (o : Operand) (k : Run → Run) : Run :=
  match o.ringVa with
  | some _ => match r.ringIA o with
    | some a => k { r with s := r.s.openRing r.k a r.c.task }
    | none => r.fail malformed
  | none =>
    if o.src = 3 then
      r.check ((r.own o.aux (4 * r.c.m) 1 false).isSome && (match r.iaOf o.va 1 false with
        | some a => r.s.regionOf a == some .slice
        | none => true)) malformed k
    else k r

/-- A read of an operand unit: what it holds, a fault at an element, or a wait for a page. -/
inductive Peek where
  | bytes (ia : Nat) (bs : List Byte)
  | fault (f : CmdFault)
  | wait

/-- Reads `n` bytes at an offset of an operand: from a VA, or from a slot of the own slice. -/
def Run.peek (r : Run) (el : Nat) (slot : Option Nat) (va : W64) (off n : Nat) : Peek :=
  match (match slot with
    | some a => some (a + off)
    | none => r.iaOf (va + BitVec.ofNat 64 off) n false) with
  | none => .fault (r.leaseFault el (va + BitVec.ofNat 64 off))
  | some a =>
    if r.s.pageWaits a n false || r.s.stoppedSlice a then .wait
    else match r.s.uncorrectable a n with
      | some u => .fault (r.memFault el (va + BitVec.ofNat 64 off) u)
      | none => .bytes a (r.s.readIA a n)

/-- A read that has to wait: its page fault, if any, is raised (R135). -/
def Run.await (r : Run) (el : Nat) (slot : Option Nat) (va : W64) (off n : Nat) : Run :=
  let r := if slot.isSome then r else r.unit el (va + BitVec.ofNat 64 off) n false fun r _ => r
  { r with waits := true }

/-- A unit that a compressed panel cannot do without. -/
def Run.grab (r : Run) (el : Nat) (slot : Option Nat) (va : W64) (off n : Nat) (k : Run → List Byte → Run) : Run :=
  if r.fault.isSome || r.waits then r
  else match r.peek el slot va off n with
  | .bytes a bs => k (if slot.isSome then r else r.note a n) bs
  | .fault f => r.fail f
  | .wait => r.await el slot va off n

/-- Quadrant q lies in M × N and is not EMPTY (R195, R226). -/
def Cmd.quadrantRuns (c : Cmd) (q : Nat) : Bool :=
  decide (32 * (q / 2) < c.m ∧ 32 * (q % 2) < c.n) && (c.work.classes == [] || c.work.classes.getD q 1 != 0)

/-- An A row (or 32-row tile) of half h, or a B segment h, reaches a quadrant that runs (R226). -/
def Cmd.halfUsed (c : Cmd) (isB : Bool) (h : Nat) : Bool :=
  if isB then c.quadrantRuns h || c.quadrantRuns (h + 2) else c.quadrantRuns (2 * h) || c.quadrantRuns (2 * h + 1)

/-- Cells of a dense or block row's bytes (R172). -/
def rowCells (fmt n : Nat) (bs : List Byte) : List Cell_ :=
  (List.range n).map fun i =>
    match bfpOfCode fmt with
    | some b =>
      let blk := bs.drop (i / 32 * (1 + 4 * b))
      some (.ok (opElem fmt (wrapInt b (blockMantissa b blk (i % 32))) (fieldAt blk 0 1)))
    | none => some (.ok (opElem fmt (fieldAt bs (i * unitBytes fmt) (unitBytes fmt)) 0))

/-- The cells that one read of a dense operand gives: elements, or a fault. -/
def Run.readCells (r : Run) (o : Operand) (slot : Option Nat) (va : W64) (off cells : Nat) : Run × List Cell_ :=
  match r.peek 0 slot va off (rowBytes o.fmt cells) with
  | .bytes a bs => (if slot.isSome then r else r.note a (rowBytes o.fmt cells), rowCells o.fmt cells bs)
  | .fault f => (r, List.replicate cells (some (.error f)))
  | .wait => (r.await 0 slot va off (rowBytes o.fmt cells), List.replicate cells none)

/-- Up to 32 elements of a row of a dense operand: where they fail, each element, or the block, fails or not for itself (R208). -/
def Run.denseUnit (r : Run) (o : Operand) (slot : Option Nat) (va : W64) (off cells : Nat) : Run × List Cell_ :=
  match r.peek 0 slot va off (rowBytes o.fmt cells) with
  | .fault _ =>
    if (bfpOfCode o.fmt).isSome then r.readCells o slot va off cells
    else (List.range cells).foldl (fun (r, xs) i =>
      let (r, x) := r.readCells o slot va (off + i * unitBytes o.fmt) 1
      (r, xs ++ x)) (r, [])
  | _ => r.readCells o slot va off cells

/-- The first part of a gathered row that fails R44 or R119, and with it the row (R208; log 68). -/
def Run.gatherFault (r : Run) (o : Operand) (x : Nat) : Option CmdFault :=
  (List.range ((r.c.k + 31) / 32)).findSome? fun p =>
    let va := o.va + BitVec.ofNat 64 (x * o.pitch + rowBytes o.fmt (32 * p))
    if (r.iaOf va (rowBytes o.fmt (min 32 (r.c.k - 32 * p))) false).isSome then none else some (r.leaseFault 0 va)

/-- A panel of a dense or block operand (R194, R208): A by row, B by inner position. -/
def Run.densePanel (r : Run) (o : Operand) (slot : Option Nat) (p : Nat) : Run × List (List Cell_) :=
  let c := r.c
  let nk := min 32 (c.k - 32 * p)
  if o.isB then
    (List.range nk).foldl (fun (r, rows) kk =>
      let base := (if slot.isSome then kk else 32 * p + kk) * o.pitch
      let (r, row) := (List.range 2).foldl (fun (r, row) s =>
        let n := min 32 (c.n - 32 * s)
        if n = 0 then (r, row)
        else if c.halfUsed true s then
          let (r, cs) := r.denseUnit o slot o.va (base + rowBytes o.fmt (32 * s)) n
          (r, row ++ cs)
        else (r, row ++ List.replicate n none)) (r, [])
      (r, rows ++ [row])) (r, [])
  else
    (List.range c.m).foldl (fun (r, rows) i =>
      let x := c.work.index.getD i 0
      if !c.halfUsed false (i / 32) || (o.src == 3 && decide (o.rows ≤ x)) then (r, rows ++ [List.replicate nk none])
      else match (if o.src = 3 then r.gatherFault o x else none) with
      | some f => (r, rows ++ [List.replicate nk (some (.error f))])
      | none =>
        let off := if slot.isSome then i * o.pitch else (if o.src = 3 then x else i) * o.pitch + rowBytes o.fmt (32 * p)
        let (r, cs) := r.denseUnit o slot o.va off nk
        (r, rows ++ [cs])) (r, [])

/-- A failure of a panel with its operand and element index (R206). -/
structure PanelFail where
  f : MetaFail
  isB : Bool
  element : Nat
  deriving DecidableEq, Repr, Inhabited

/-- The descriptor of a failure (R206, R471). -/
def PanelFail.bytes (x : PanelFail) (id : W32) : List Byte :=
  toBytes 4 id.toNat ++ toBytes 2 x.f.row ++ toBytes 1 x.f.code ++ toBytes 1 x.isB.toNat ++ toBytes 4 x.f.pos ++ toBytes 4 x.f.value

/-- The element index of a failure in tile t of panel p: of its position, or the first of the tile. -/
def failElement (isB : Bool) (p t : Nat) (f : MetaFail) : Nat :=
  match f.at_ with
  | none => 128 * (32 * p) + (if isB then t else 64 * t)
  | some (r, c) =>
    if isB then 128 * (32 * p + r) + (if 32 ≤ 32 * t + c then 1 else 0) else 128 * (32 * p + c) + 2 * (32 * t + r)

/-- A tile of an operand after tile t is used (R226). -/
def Cmd.laterUsed (c : Cmd) (isB : Bool) (t : Nat) : Bool := t == 0 && decide (32 < if isB then c.n else c.m) && c.halfUsed isB 1

/-- Reads one tile or stream of a panel at an offset: its size, its elements in tile coordinates, its failures. Of a tile that is not
used nothing is read but the size of a TF_BMAP tile that a used one follows (R226; log 57). -/
def Run.panelTile (r : Run) (o : Operand) (slot : Option Nat) (base : W64) (p t off : Nat) (limit : Option Nat)
    (k : Run → Option (Nat × Entries × List MetaFail) → Run) : Run :=
  let c := r.c
  let el := 128 * (32 * p)
  let s := unitBytes o.fmt
  let nk := min 32 (c.k - 32 * p)
  let ext := if o.isB then c.n else c.m
  let e := min 32 (ext - 32 * t)
  let (rows, cols) := if o.isB then (nk, e) else (e, nk)
  let fits (n : Nat) : Bool := match limit with
    | some l => decide (off + n ≤ l)
    | none => true
  let used := if o.tf = 3 then c.halfUsed o.isB 0 || c.halfUsed o.isB 1 else c.halfUsed o.isB t
  match o.tf with
  | 2 =>
    if !used then
      if !c.laterUsed o.isB t then k r (some (0, [], []))
      else if fits 4 then r.grab el slot base off 4 fun r hd => k r (some (bmapSize s (fieldAt hd 2 2), [], []))
      else k r (some (limit.getD 0, [], []))
    else if !fits 0x88 then k r none
    else r.grab el slot base off 0x88 fun r hd =>
      let n := bmapSize s (fieldAt hd 2 2)
      if !fits n then k r none
      else match bmapHeader hd o.fmt with
        | some f => k r (some (n, [], [f]))
        | none => r.grab el slot base off n fun r bs => let (x, f) := bmapBody bs s rows cols; k r (some (n, x, f))
  | 3 =>
    let (rm, cm) := if o.isB then (nk - 1, c.n - 1) else (c.m - 1, nk - 1)
    if !used then k r (some (0, [], []))
    else if !fits 16 then k r none
    else r.grab el slot base off 16 fun r hd =>
      match cooHeader hd o.fmt rm cm with
      | some f => k r (if fits (cooSize s (min (fieldAt hd 8 4) (2 ^ 24))) then some (0, [], [f]) else none)
      | none =>
        let n := cooSize s (fieldAt hd 8 4)
        if !fits n then k r none
        else r.grab el slot base off n fun r bs => let (x, f) := cooBody bs s rm cm (fieldAt hd 8 4) 0 none; k r (some (n, x, f))
  | _ =>
    let n := s24Size s
    if !used then k r (some (n, [], []))
    else if !fits n then k r none
    else r.grab el slot base off n fun r bs =>
      let (x, f) := s24Body bs s
      k r (some (n, x.filter fun y => decide (y.1 < rows ∧ y.2.1 < cols), f))

/-- The tiles of a compressed panel, one after another (R194, R205): elements as (outer, inner), failures; a tile or stream that would
reach past the end of the slot is taken as empty (R209). -/
def Run.panelTiles (o : Operand) (slot : Option Nat) (base : W64) (p : Nat) (limit : Option Nat) :
    Nat → Nat → Nat → Entries → List PanelFail → Run → (Run → Entries → List PanelFail → Run) → Run
  | 0, _, _, xs, fs, r, k => k r xs fs
  | n + 1, t, off, xs, fs, r, k =>
    r.panelTile o slot base p t off limit fun r res =>
      match res with
      | none => k r xs (fs ++ [⟨⟨5, 0, 0xFFFFFFFF, limit.getD 0, none⟩, o.isB, 128 * (32 * p)⟩])
      | some (z, ys, gs) =>
        let mine := ys.map fun y =>
          if o.tf = 3 then (if o.isB then (y.2.1, y.1, y.2.2) else y)
          else if o.isB then (32 * t + y.2.1, y.1, y.2.2) else (32 * t + y.1, y.2.1, y.2.2)
        Run.panelTiles o slot base p limit n (t + 1) (off + z) (xs ++ mine)
          (fs ++ gs.map fun g => ⟨g, o.isB, failElement o.isB p t g⟩) r k

/-- Cells of a panel from its elements (outer, inner, raw); rows that R226 does not fetch are absent. -/
def Run.cells (r : Run) (o : Operand) (p : Nat) (xs : Entries) : List (List Cell_) :=
  let c := r.c
  let nk := min 32 (c.k - 32 * p)
  let at_ (i kk : Nat) : Cell_ :=
    if c.halfUsed o.isB (i / 32) then (xs.find? fun x => x.1 == i && x.2.1 == kk).map fun x => .ok (opElem o.fmt x.2.2 0) else none
  if o.isB then (List.range nk).map fun kk => (List.range c.n).map fun j => at_ j kk
  else (List.range c.m).map fun i => (List.range nk).map fun kk => at_ i kk

/-- Slot of panel p of an operand's ring, with ELEM; `none` while TAIL has not passed it (R208). -/
def Run.slotOf (r : Run) (o : Operand) (p : Nat) : Option (Nat × Nat) :=
  (r.ringIA o).bind fun a =>
    let q := r.s.ringNow r.k a
    let h := if o.isB then r.c.work.headB else r.c.work.headA
    if p < (q.tail + 2 ^ 32 - h) % 2 ^ 32 then some (q.slot (h + p), q.elem) else none

/-- Bytes and places in its slot of the pieces of a panel that a staging copy moves (R208): VA, offset in the slot, length. -/
def Cmd.handlePieces (c : Cmd) (o : Operand) (p : Nat) : List (W64 × Nat × Nat) :=
  let nk := min 32 (c.k - 32 * p)
  if o.isB then
    let used := (List.range 2).filter fun h => c.halfUsed true h && decide (32 * h < c.n)
    (List.range nk).flatMap fun kk => used.map fun h =>
      let o1 := rowBytes o.fmt (32 * h)
      (o.va + BitVec.ofNat 64 ((32 * p + kk) * o.pitch + o1), kk * o.pitch + o1, rowBytes o.fmt (min 32 (c.n - 32 * h)))
  else
    ((List.range c.m).filter fun i => c.halfUsed false (i / 32)).map fun i =>
      (o.va + BitVec.ofNat 64 (i * o.pitch + rowBytes o.fmt (32 * p)), i * o.pitch, rowBytes o.fmt nk)

/-- A fault of a staging copy ends the MMA with the copy's cause and subcode (R208). -/
def copyFault (f : CmdFault) : CmdFault :=
  match f.cause with
  | 4 => { f with sub := 7 }
  | 0xA => { f with sub := 8 }
  | _ => f

/-- Moves pieces into the slot at TAIL. -/
def Run.moveAll (el : Nat) (slot : Nat) : List (W64 × Nat × Nat) → Run → (Run → Run) → Run
  | [], r, k => k r
  | (va, off, n) :: rest, r, k =>
    match r.peek el none va 0 n with
    | .fault f => r.fail (copyFault f)
    | .wait => r.await el none va 0 n
    | .bytes a bs =>
      let r := r.note a n
      Run.moveAll el slot rest { r with s := (r.s.perform (slot + off) bs).count r.k 0xE (BitVec.ofNat 64 n) } k

/-- A read by a staging copy, with the copy's faults (R208). -/
def Run.copyGrab (r : Run) (el : Nat) (va : W64) (off n : Nat) (k : Run → List Byte → Run) : Run :=
  match r.peek el none va off n with
  | .bytes a bs => k (r.note a n) bs
  | .fault f => r.fail (copyFault f)
  | .wait => r.await el none va off n

/-- The pieces of a compressed panel that a staging copy moves, as far as its slot reaches: the tiles and streams that the front end
will read (R208, R226). -/
def Run.panelPieces (o : Operand) (base : W64) (p limit : Nat) :
    Nat → Nat → Nat → List (W64 × Nat × Nat) → Run → (Run → List (W64 × Nat × Nat) → Run) → Run
  | 0, _, _, xs, r, k => k r xs
  | n + 1, t, off, xs, r, k =>
    let s := unitBytes o.fmt
    let el := 128 * (32 * p)
    let used := if o.tf = 3 then r.c.halfUsed o.isB 0 || r.c.halfUsed o.isB 1 else r.c.halfUsed o.isB t
    let part (z : Nat) := (base + BitVec.ofNat 64 off, off, min z (limit - off))
    if limit ≤ off ∨ ¬ used ∧ ¬ r.c.laterUsed o.isB t then k r xs
    else match o.tf with
    | 2 => r.copyGrab el base off 4 fun r hd =>
        let z := bmapSize s (fieldAt hd 2 2)
        Run.panelPieces o base p limit n (t + 1) (off + z) (xs ++ [part (if used then z else 4)]) r k
    | 3 => r.copyGrab el base off 12 fun r hd =>
        let z := cooSize s (min (fieldAt hd 8 4) (2 ^ 24))
        Run.panelPieces o base p limit n (t + 1) (off + z) (xs ++ [part z]) r k
    | _ => Run.panelPieces o base p limit n (t + 1) (off + s24Size s) (if used then xs ++ [part (s24Size s)] else xs) r k

/-- Some quadrant runs (R226): where none does, nothing is fetched. -/
def Cmd.someRuns (c : Cmd) : Bool := (List.range 4).any c.quadrantRuns

/-- The first element at or after x whose quadrant runs (R458), or the number of elements. -/
def Cmd.passOver (c : Cmd) (x : Nat) : Nat :=
  match (List.range 4).find? fun d => c.quadrantRuns ((x + d) % 4) with
  | some d => min (x + d) c.work.total
  | none => c.work.total

/-- The operands whose panels pass through a ring: RING always, HANDLE where anything is fetched (R208, R226). -/
def Cmd.ringed (c : Cmd) : List Operand :=
  [c.operand false, c.operand true].filter fun o => o.src == 1 || (o.src == 2 && c.someRuns)

/-- The transfer copy of panel p of a HANDLE operand into its staging ring, when its slot is not filled (R208). -/
def Run.stagePanel (r : Run) (o : Operand) (p : Nat) (k : Run → Run) : Run :=
  if o.src ≠ 2 ∨ ¬ r.c.someRuns ∨ (r.slotOf o p).isSome then k r
  else match r.ringIA o with
  | none => r.fail malformed
  | some a =>
    let q := r.s.ringNow r.k a
    let el := if r.c.dense then r.c.passOver (4 * p) else 128 * (32 * p)
    if q.occupancy = q.depth ∨ 1024 ≤ runningOf (r.s.tile r.k).cmds (fun x => x.engine == 0) then { r with waits := true }
    else
      let slot := q.slot q.tail
      let done (r : Run) : Run := k { r with s := r.s.perform (a + 20) (toBytes 4 ((q.tail + 1) % 2 ^ 32)) }
      if o.tf ≤ 1 then Run.moveAll el slot (r.c.handlePieces o p) r done
      else
        let base := o.va + BitVec.ofNat 64 (p * o.pitch)
        let tiles := if o.tf = 3 then 1 else ((if o.isB then r.c.n else r.c.m) + 31) / 32
        Run.panelPieces o base p q.elem tiles 0 0 [] r fun r xs => Run.moveAll el slot xs r done

/-- Panel p of an operand, and its failures (R194, R205, R208). -/
def Run.panel (r : Run) (o : Operand) (p : Nat) (k : Run → List (List Cell_) → List PanelFail → Run) : Run :=
  if r.fault.isSome || r.waits then r
  else r.stagePanel o p fun r =>
    let slot := if o.ringVa.isSome then r.slotOf o p else none
    if o ∈ r.c.ringed ∧ slot.isNone then { r with waits := true }
    else if o.tf ≤ 1 then
      let (r, cs) := r.densePanel o (slot.map (·.1)) p
      if r.waits then r else k r cs []
    else
      let tiles := if o.tf = 3 then 1 else ((if o.isB then r.c.n else r.c.m) + 31) / 32
      Run.panelTiles o (slot.map (·.1)) (o.va + BitVec.ofNat 64 (p * o.pitch)) p (slot.map (·.2)) tiles 0 0 [] [] r fun r xs fs =>
        k r (r.cells o p xs) fs

/-- HEAD of the operands' rings advances past the next panel (R208). -/
def Run.popPanel (r : Run) : Run :=
  (r.c.ringed.foldl (fun r o =>
    match r.ringIA o with
    | some a =>
      let q := r.s.qcwAt a
      { r with s := r.s.perform (a + 16) (toBytes 4 ((q.head + 1) % 2 ^ 32)) }
    | none => r) r).modWork fun w => { w with popped := w.popped + 1 }

/-- The rings have the panel's slots filled (R208). -/
def Run.panelReady (r : Run) (p : Nat) : Bool := r.c.ringed.all fun o => (r.slotOf o p).isSome

/-- Elements of a panel. -/
def Cmd.panelSize (c : Cmd) : Nat := if c.dense then 4 else 4096

/-- Every entry of a panel has been added: none waits in the spill buffer, and no product is on its way (R203, R215). -/
def CmdWork.added (w : CmdWork) (p : Nat) : Bool :=
  w.sched.spilled.all (fun x => x / 4096 != p) && (w.late ++ w.parked).all fun x => x.1 != p

/-- The slots of the panels that have ended are popped in panel order, each once its last entry has been added (R208). -/
def Run.popAdded : Nat → Run → Run
  | 0, r => r
  | n + 1, r =>
    let w := r.c.work
    let ended := if w.total ≤ r.pos then (w.total + r.c.panelSize - 1) / r.c.panelSize else r.pos / r.c.panelSize
    if w.popped < ended ∧ w.added w.popped ∧ r.panelReady w.popped then r.popPanel.popAdded n else r

/-- An entry of a row queue (R196, R197). -/
structure Entry where
  element : Nat
  i : Nat
  seg : Nat
  k : Nat
  a : Except CmdFault OpElem
  bs : List (Nat × Except CmdFault OpElem)

/-- The entries of a sparse panel in increasing element index (R196, R226). -/
def Cmd.entries (c : Cmd) (p : Nat) (as bs : List (List Cell_)) : List Entry :=
  let nk := min 32 (c.k - 32 * p)
  (List.range nk).flatMap fun kk =>
    let row := bs.getD kk []
    let seg (s : Nat) : List (Nat × Except CmdFault OpElem) :=
      ((row.drop (32 * s)).take 32).zipIdx.filterMap fun x => x.1.map fun v => (x.2, v)
    let segs := [seg 0, seg 1]
    (List.range c.m).flatMap fun i =>
      match (as.getD i []).getD kk none with
      | none => []
      | some a => (List.range 2).filterMap fun s =>
          let m := segs.getD s []
          if m.isEmpty || !c.quadrantRuns (2 * (i / 32) + s) then none
          else some ⟨128 * (32 * p + kk) + 2 * i + s, i, s, 32 * p + kk, a, m⟩

/-- The fault of an entry's operands, at its element (R208). -/
def Entry.fault (x : Entry) : Option CmdFault :=
  match x.a with
  | .error f => some { f with element := x.element }
  | .ok _ => x.bs.findSome? fun b => match b.2 with
    | .error f => some { f with element := x.element }
    | .ok _ => none

/-- The layout of an entry in a spill buffer (R197). -/
def Entry.bytes (x : Entry) : List Byte :=
  let raw (v : Except CmdFault OpElem) : Nat × Nat := match v with
    | .ok e => (e.raw, e.bexp)
    | .error _ => (0, 0)
  let (ar, ae) := raw x.a
  let be := (x.bs.head?.map fun b => (raw b.2).2).getD 0
  toBytes 1 x.i ++ toBytes 1 x.seg ++ toBytes 2 0 ++ toBytes 4 ((x.bs.map fun b => 2 ^ b.1).sum) ++ toBytes 4 x.k ++ toBytes 2 ar ++
    toBytes 1 ae ++ toBytes 1 be ++
    ((List.range 32).flatMap fun j => toBytes 2 (((x.bs.find? fun b => b.1 == j).map fun b => (raw b.2).1).getD 0)) ++
    List.replicate 48 0

/-- The step in progress at the start of a cycle (R199). -/
def RowQueue.busy (q : RowQueue) (t : Nat) : Bool := decide (t < q.until_)

/-- The position of a row (R199); an empty row takes the walk's, which never holds another (R200). -/
def RowQueue.position (q : RowQueue) (t : Nat) : Option Nat := if q.busy t then some q.pos else q.queue.head?.map (·.1)

/-- Rows start their next steps in a cycle, under the lag when it applies (R199). -/
def Schedule.starts (s : Schedule) (lagged : Bool) : List RowQueue :=
  let least := (s.rows.filterMap fun q => q.position s.cycle).foldl (fun a x => some (min (a.getD x) x)) (none : Option Nat)
  s.rows.map fun q =>
    match q.queue with
    | (k, em) :: rest =>
      if !q.busy s.cycle && decide (em < s.cycle) && (!lagged || decide (k ≤ least.getD k + s.lag)) then
        { queue := rest, pos := k, until_ := s.cycle + s.width }
      else q
    | [] => q

/-- Where the policy puts an entry whose row queue is full (R201): a row, the spill buffer, or nowhere. -/
inductive Place where
  | row (n : Nat)
  | spill
  | stall
  deriving DecidableEq, Repr

/-- The place of an entry of row n in the emission of a cycle; `seen` and `given` by row (R199, R201). -/
def Schedule.place (s : Schedule) (room : Nat) (seen given : List Nat) (n : Nat) : Place :=
  if seen.getD n 0 + given.getD n 0 < 4 then .row n
  else match s.policy with
  | 1 =>
    match (List.range 32).find? fun j =>
        seen.getD j 0 == 0 && given.getD j 0 == 0 && !(s.rows.getD j {}).busy s.cycle with
    | some j => .row j
    | none => .stall
  | 2 => if s.spilled.length < room then .spill else .stall
  | _ => .stall

/-- Row queue of an element (R196). -/
def rowOf (e : Nat) : Nat := e % 128 / 2 % 32

/-- The entries that the front end emits in one cycle (R196, R201), by element index: rows, entries left, emitted. -/
def Schedule.emit (room : Nat) (seen : List Nat) : Nat → Schedule → List RowQueue → List Nat → List Nat →
    Schedule × List RowQueue × List Nat
  | 0, s, rows, _, pend => (s, rows, pend)
  | n + 1, s, rows, given, pend =>
    match pend with
    | [] => (s, rows, [])
    | e :: rest =>
      match s.place room seen given (rowOf e) with
      | .row j =>
        let rows := rows.modify j fun q => { q with queue := q.queue ++ [(e / 128, s.cycle)] }
        let s := if j = rowOf e then s else { s with splits := s.splits + 1 }
        Schedule.emit room seen n s rows (given.modify j (· + 1)) rest
      | .spill =>
        Schedule.emit room seen n { s with spilled := s.spilled ++ [e], spills := s.spills + 1 } rows given rest
      | .stall => ({ s with stalls := min (s.stalls + 1) (2 ^ 32 - 1) }, rows, pend)

/-- One cycle of the front end and the rows (R199). -/
def Schedule.tick (s : Schedule) (lagged : Bool) (room : Nat) (pend : List Nat) : Schedule × List Nat :=
  let seen := s.rows.map fun q => q.queue.length
  let started := s.starts lagged
  let (s', rows, pend) := Schedule.emit room seen 8 s started (List.replicate 32 0) pend
  ({ s' with rows := rows, cycle := s.cycle + 1 }, pend)

/-- Cycles until every pending entry has been emitted. -/
def Schedule.run (lagged : Bool) (room : Nat) : Nat → Schedule → List Nat → Schedule
  | 0, s, _ => s
  | n + 1, s, pend =>
    if pend.isEmpty then s
    else let (s, pend) := s.tick lagged room pend; Schedule.run lagged room n s pend

/-- Cycles until every row is empty. -/
def Schedule.drain (lagged : Bool) : Nat → Schedule → Schedule
  | 0, s => s
  | n + 1, s =>
    if s.rows.all fun q => q.queue.isEmpty && !q.busy s.cycle then s else Schedule.drain lagged n (s.tick lagged 0 []).1

/-- The end of the walk (R203): the rows drain, then the spilled entries run under STALL without the lag. -/
def Schedule.finish (s : Schedule) (lagged : Bool) : Schedule :=
  if s.spilled.isEmpty then s
  else
    let s := s.drain lagged 4096
    { Schedule.run false 0 (16 * (s.spilled.length + 200)) { s with policy := 0, spilled := [] } s.spilled with policy := s.policy }

end Sys2Proof.Machine
end

