-- ==== Sys2Proof/Machine/Matrix.lean ====
section
/-! DEFINITION. MMA (R192 to R209, R215, R216, R226, R227, R391, R458): its start checks, classification, panels, products
and completion record. -/

namespace Sys2Proof.Machine

/-- A product on its way to the bank (R196, R204): output row and column, element of A, element of B. -/
structure Product where
  i : Nat
  j : Nat
  a : OpElem
  b : OpElem
  deriving DecidableEq, Repr, Inhabited

/-- The start checks (R391). -/
def mmaCheck (r : Run) : Run :=
  let c := r.c
  let spill := c.num 0x68 4
  r.crecAt 0x50 64 malformed fun r =>
    r.check c.mmaFields malformed fun r =>
      r.operandStart (c.operand false) fun r => r.operandStart (c.operand true) fun r =>
        r.check (spill == 0 || (r.own (c.va 0x40) spill 128 true).isSome) malformed fun r =>
          let regions (r : Run) : Run :=
            r.check (spill == 0 || !((r.pieces [(c.va 0x40, spill)]).any fun x => r.s.protected_ x.1 x.2)) (protectedFault 0) fun r =>
              let bits := (MaskDesc.ofBytes r.c.work.head).bits
              r.extent (if c.va 0x48 = 0 ∨ bits = 0 then [] else r.pieces [(bits, 8 * c.m)]) id
          if c.va 0x48 = 0 then regions r else r.maskStart (c.va 0x48) c.m c.n true regions

/-- Changes a WORK entry of the region, as an entry that the task has written (R210, R217). -/
def Run.putWork (r : Run) (i j : Nat) (f : AW → AW) : Run :=
  let t := r.s.tile r.k
  let x := t.bankIndex false (r.c.accBase + 64 * i + j)
  let s := r.s.modTile r.k fun t => { t with banks := bankPut t.banks x (f (Tab.get 0 t.banks x)) }
  { r with s := s.modTask r.c.task fun t => t.touch r.c.rank [x] }

/-- CLEAR sets the region's WORK entries to zero (R193). -/
def Run.clearRegion (r : Run) : Run :=
  (List.range r.c.m).foldl (fun r i => (List.range r.c.n).foldl (fun r j => r.putWork i j fun _ => 0) r) r

/-- The value of a product in arrival order, where a zero has the sign of the stored elements (R215). -/
def Product.num (x : Product) : Num :=
  let m := x.a.m * x.b.m
  .fin (if m = 0 then x.a.neg != x.b.neg else decide (m < 0)) m.natAbs (x.a.e + x.b.e)

/-- One product into its entry (R103, R204). -/
def Run.addProduct (r : Run) (x : Product) : Run := r.putWork x.i x.j fun w => awAdd w x.a.m x.a.e x.b.m x.b.e r.c.anchor

/-- A product of panel p rounded to FP32 on its way to the bank in arrival-order mode (R215): panel, row, column and bits. -/
def Product.rounded (p : Nat) (x : Product) : Nat × Nat × Nat × Nat := (p, x.i, x.j, (ieeeRound Fp.fp32 x.num).1)

/-- The flags that rounding products raises. -/
def roundFlags (xs : List Product) : BitVec 8 := (xs.map fun x => (ieeeRound Fp.fp32 x.num).2).foldl (· ||| ·) 0

/-- One FP32 product into its entry by IEEE addition (R97, R215). -/
def Run.addRounded (r : Run) (x : Nat × Nat × Nat × Nat) : Run :=
  let (_, i, j, bits) := x
  let old := Tab.get 0 (r.s.tile r.k).banks ((r.s.tile r.k).bankIndex false (r.c.accBase + 64 * i + j))
  let (v, fl) := fpAdd Fp.fp32 (field old.toNat 0 32) bits
  (r.putWork i j fun _ => BitVec.ofNat 128 v).flags fl

/-- Inserts by key. -/
def insertKeyed {α : Type} (x : Nat × α) : List (Nat × α) → List (Nat × α)
  | [] => [x]
  | y :: ys => if x.1 < y.1 then x :: y :: ys else y :: insertKeyed x ys

/-- The order in which products reach the bank: any at all in arrival-order mode (R215; log 5). -/
def arrivalOrder (step : Nat) (xs : List (Nat × Nat × Nat × Nat)) : List (Nat × Nat × Nat × Nat) :=
  ((xs.zipIdx.map fun x => (Config.arrivalOrder step x.2, x.1)).foldr insertKeyed []).map (·.2)

/-- Products of panel p and those of earlier panels that are still on their way reach the bank in any order; `wait` says that any of
them may stay on its way (R199, R201, R215; log 40). -/
def Run.arrive (r : Run) (wait : Bool) (p : Nat) (xs : List Product) : Run :=
  let all := (r.c.work.late ++ xs.map (Product.rounded p)).zipIdx
  let stays (i : Nat) : Bool := wait && Config.arrivalOrder r.s.steps (2 ^ 32 + i) % 2 == 1
  let now := (all.filter fun x => !stays x.2).map (·.1)
  let later := (all.filter fun x => stays x.2).map (·.1)
  (((arrivalOrder r.s.steps now).foldl Run.addRounded r).flags (roundFlags xs)).modWork fun w => { w with late := later }

/-- Adds products of panel p, and counts them (R216, R286). `wait` concerns arrival-order mode alone: exact sums show no order
(R104). -/
def Run.addProducts (r : Run) (wait : Bool) (p : Nat) (xs : List Product) : Run :=
  let r := if r.c.mctl 1 then r.arrive wait p xs else xs.foldl Run.addProduct r
  ({ r with s := (r.s.count r.k 0xC (BitVec.ofNat 64 xs.length)).countCycles r.k 0xD }).modWork
    fun w => { w with count := w.count + xs.length }

/-- Products of spilled entries are set aside until the walk has ended (R203, R215). -/
def Run.park (r : Run) (p : Nat) (xs : List Product) : Run :=
  if xs.isEmpty then r
  else
    ({ r with s := r.s.count r.k 0xC (BitVec.ofNat 64 xs.length) }.flags (roundFlags xs)).modWork fun w =>
      { w with parked := w.parked ++ xs.map (Product.rounded p), count := w.count + xs.length }

/-- The products of an entry. -/
def Entry.products (x : Entry) : List Product :=
  match x.a with
  | .error _ => []
  | .ok a => x.bs.filterMap fun b => match b.2 with
    | .ok v => some ⟨x.i, 32 * x.seg + b.1, a, v⟩
    | .error _ => none

/-- Cells of one block step (R195): A rows and B columns of quadrant q, by inner position. -/
def Cmd.quadrantCells (c : Cmd) (as bs : List (List Cell_)) (q : Nat) : List (List Cell_) × List (List Cell_) :=
  let i0 := 32 * (q / 2)
  let j0 := 32 * (q % 2)
  (((as.drop i0).take (min 32 (c.m - i0))), bs.map fun row => (row.drop j0).take (min 32 (c.n - j0)))

/-- A unit that a block step reads and that faults. -/
def quadrantFault (as bs : List (List Cell_)) : Option CmdFault :=
  (as ++ bs).findSome? fun row => row.findSome? fun x => match x with
    | some (.error f) => some f
    | _ => none

/-- The products of a block step (R195). -/
def quadrantProducts (q : Nat) (as bs : List (List Cell_)) : List Product :=
  as.zipIdx.flatMap fun row => row.1.zipIdx.flatMap fun a => match a.1 with
    | some (.ok x) => (bs.getD a.2 []).zipIdx.filterMap fun b => match b.1 with
      | some (.ok y) => some ⟨32 * (q / 2) + row.2, 32 * (q % 2) + b.2, x, y⟩
      | _ => none
    | _ => []

/-- Classes, counts and BITS words of an MMA's quadrants (R225, R227). -/
def Run.classify (r : Run) : Run :=
  let c := r.c
  if c.va 0x48 = 0 then r
  else r.descRead r.pos (c.va 0x48) fun r =>
    let d := MaskDesc.ofBytes c.work.head
    Run.maskRows d.q0 c.m r [] fun r rows =>
      let words (k0 n : Nat) : List Nat := rows.zipIdx.map fun x => allowedWord d (d.q0 + x.2) k0 n x.1
      let cls (q : Nat) : Nat :=
        let n := min 32 (c.n - 32 * (q % 2))
        if 32 * (q / 2) < c.m ∧ 32 * (q % 2) < c.n then
          classOf n (((words (d.k0 + 32 * (q % 2)) n).drop (32 * (q / 2))).take 32)
        else 3
      let classes := (List.range 4).map cls
      let s := classes.foldl (fun s x => if x = 3 then s else s.countClass r.k x) (r.s.countCycles r.k 0x13)
      ({ r with s := s }).modWork fun w =>
        { w with classes := classes, cursor := (List.range 3).map fun x => classes.count x
                 bits := if d.bits = 0 then [] else (words d.k0 c.n).flatMap (toBytes 8) }

/-- What the array does at start (R391): the sources' indexes and HEADs, classification, CLEAR. -/
def mmaSetup (r : Run) : Run :=
  let c := r.c
  let a := c.operand false
  let total := if c.dense then 4 * ((c.k + 31) / 32) else 128 * c.k
  let p0 := r.pos / c.panelSize
  let head (o : Operand) : Nat := match r.ringIA o with
    | some x => ((r.s.qcwAt x).head + 2 ^ 32 - p0 % 2 ^ 32) % 2 ^ 32
    | none => 0
  let t := r.s.tile r.k
  let r := r.modWork fun w =>
    { w with total := total, popped := p0, headA := head a, headB := head (c.operand true)
             sched := { lag := t.rowLag.toNat, policy := t.rowqPolicy.toNat, width := bWidth (c.operand true).fmt
                        rows := List.replicate 32 {} } }
  let gather (r : Run) (k : Run → Run) : Run :=
    if a.src = 3 then r.read r.pos a.aux (4 * c.m) fun r bs =>
      let xs := indexes bs
      k (r.modWork fun w => { w with index := xs, skipped := (xs.filter (a.rows ≤ ·)).length })
    else k r
  let r := r.classify
  if r.fault.isSome || r.waits then r
  else gather r fun r =>
      let r := if c.mctl 1 then { r with s := r.s.logDet r.k 2 true c.id } else r
      let r := if c.mctl 0 && !c.resume then r.clearRegion else r
      if !c.dense then r
      else if r.c.someRuns || r.c.ringed.isEmpty || decide (total ≤ 4 * p0) then r.reach (r.c.passOver r.pos)
      else ((r.modWork fun w => { w with total := total + 1 }).reach total)

/-- A dense MMA whose quadrants are all EMPTY has passed over every element, and has only ring slots to pop: its total then counts
one element more than its block steps. -/
def Cmd.onlyPops (c : Cmd) : Bool := c.dense && c.work.total % 4 == 1

/-- The slots of such an MMA are popped in panel order, each once TAIL has passed it (R226, R458). -/
def Run.popEmpty (r : Run) : Run :=
  let w := r.c.work
  if w.total / 4 ≤ w.popped then r.modWork fun w => { w with total := w.total - 1 }
  else if r.panelReady w.popped then r.popPanel
  else { r with waits := true }

/-- Elements of a panel replaced under R101, and its failures, counted once (R101, R207). -/
def Run.notePanel (r : Run) (p : Nat) (cells : List (List Cell_)) : Run :=
  if p < r.c.work.panelsSeen then r
  else
    let nf := (cells.map fun row => row.countP fun x => match x with
      | some (.ok e) => e.nonfinite
      | _ => false).sum
    let r := if nf = 0 then r else r.flags Flag.nonfinite
    r.modWork fun w => { w with panelsSeen := p + 1, nonfinite := w.nonfinite + nf }

/-- The first failure in element order; A before B at one element. -/
def firstFail : List PanelFail → Option PanelFail
  | [] => none
  | x :: xs => match firstFail xs with
    | some y => if y.element < x.element then some y else some x
    | none => some x

/-- META_POLICY acts on a panel's failures (R207). -/
def Run.metaPolicy (r : Run) (p : Nat) (fresh : Bool) (fs : List PanelFail) (k : Run → Run) : Run :=
  match firstFail fs with
  | none => k r
  | some f =>
    let bytes := f.bytes r.c.id
    let first (w : CmdWork) : CmdWork := if w.metaFirst.isEmpty then { w with metaFirst := bytes } else w
    if !r.c.mctl 2 then (r.modWork first).fail { cause := 6, element := 4096 * p, detail := bytes }
    else if fresh then k (r.modWork fun w => { first w with metaSkips := w.metaSkips + fs.length })
    else k r

/-- Slots of the spill buffer. -/
def Cmd.spillSlots (c : Cmd) : Nat := c.num 0x68 4 / 128

/-- Entries that the policy spilled are written to their slots (R201). -/
def Run.writeSpilled (r : Run) (before : Nat) (es : List Entry) : Run :=
  ((r.c.work.sched.spilled.zipIdx).drop before).foldl (fun r x =>
    match es.find? fun y => y.element == x.1 with
    | some y =>
      match r.iaOf (r.c.va 0x40 + BitVec.ofNat 64 (128 * x.2)) 128 true with
      | some a => { r with s := r.s.perform a y.bytes }
      | none => r
    | none => r) r

/-- The slots that are due are popped. -/
def Run.pops (r : Run) : Run := r.popAdded (r.c.work.total / r.c.panelSize + 1)

/-- Products still on their way reach the bank. -/
def Run.arriveAll (r : Run) : Run := if r.c.work.late.isEmpty then r else (r.arrive false 0 []).pops

/-- Every emitted entry completes, spilled ones last (R203, R207, R215, R217). -/
def Run.flush (r : Run) : Run :=
  let r := r.arriveAll
  ((r.c.work.parked.foldl Run.addRounded r).modWork fun w =>
    { w with parked := [], sched := w.sched.finish (!r.c.mctl 1) }).pops

/-- The panel ends: its slots are popped once its last entry has been added; after the last panel the rows drain (R203, R208). -/
def Run.endPanel (r : Run) (next : Nat) : Run :=
  let r := r.reach next
  if next < r.c.work.total then r.pops else r.flush

/-- The entries of a sparse panel from PROGRESS up to `limit` (R196 to R203). -/
def Run.sparsePanel (r : Run) (p limit : Nat) (as bs : List (List Cell_)) : Run :=
  let c := r.c
  let es := (c.entries p as bs).filter fun x => decide (r.pos ≤ x.element)
  let cut := es.takeWhile fun x => decide (x.element < limit)
  let good := cut.takeWhile fun x => x.fault.isNone
  let before := c.work.sched.spilled.length
  let r := r.modWork fun w =>
    { w with sched := w.sched.run (!c.mctl 1) c.spillSlots (16 * (good.length + 200)) (good.map (·.element)) }
  let r := r.writeSpilled before good
  let kept := if c.mctl 1 then r.c.work.sched.spilled.drop before else []
  let aside := good.filter fun x => kept.contains x.element
  let r := r.addProducts true p ((good.filter fun x => !kept.contains x.element).flatMap Entry.products)
  let r := r.park p (aside.flatMap Entry.products)
  match (cut.drop good.length).head?.bind Entry.fault with
  | some f => r.fail f
  | none =>
    match (es.drop cut.length).head? with
    | some x => r.reach x.element
    | none => r.endPanel (min (4096 * (p + 1)) c.work.total)

/-- The block steps of a dense panel from PROGRESS up to `limit` (R195, R226, R458). -/
def Run.densePanelSteps (r : Run) (p limit : Nat) (as bs : List (List Cell_)) : Run :=
  let c := r.c
  let qs := (List.range 4).filter fun q => c.quadrantRuns q && decide (r.pos ≤ 4 * p + q ∧ 4 * p + q < limit)
  let r := qs.foldl (fun r q =>
    if r.fault.isSome then r
    else
      let (qa, qb) := c.quadrantCells as bs q
      match quadrantFault qa qb with
      | some f => r.fail { f with element := 4 * p + q }
      | none => (r.addProducts false p (quadrantProducts q qa qb)).reach (4 * p + q + 1)) r
  if r.fault.isSome then r
  else
    let x := c.passOver r.pos
    if x < 4 * (p + 1) then r.reach x else r.endPanel x

/-- The array's work on the next panel from PROGRESS up to `limit`, once both rings have filled it. -/
def Run.mmaWork (limit : Nat) (r : Run) : Run :=
  let c := r.c
  let p := r.pos / c.panelSize
  if c.onlyPops then r.popEmpty
  else r.stagePanel (c.operand false) p fun r => r.stagePanel (c.operand true) p fun r =>
    if !r.panelReady p then { r with waits := true }
    else r.panel (c.operand false) p fun r as fa => r.panel (c.operand true) p fun r bs fb =>
      let fresh := decide (c.work.panelsSeen ≤ p)
      (r.notePanel p (as ++ bs)).metaPolicy p fresh (fa ++ fb) fun r =>
        if c.dense then r.densePanelSteps p limit as bs else r.sparsePanel p limit as bs

/-- The array performs its next panel; at a fault every emitted entry still completes (R207, R391). While the front end waits, the
products on their way arrive. -/
def Run.mmaPanel (limit : Nat) (r : Run) : Run :=
  let x := r.mmaWork limit
  if x.fault.isSome then x.flush
  else if x.waits && !r.c.work.late.isEmpty then r.arriveAll
  else x

/-- The words of BITS, which go with the end of the command (R227). -/
def mmaFinal (r : Run) : List (Nat × List Byte) :=
  let bits := (MaskDesc.ofBytes r.c.work.head).bits
  if r.c.work.bits.isEmpty then []
  else (List.range r.c.m).filterMap fun i =>
    (r.iaOf (bits + BitVec.ofNat 64 (8 * i)) 8 true).map fun a => (a, (r.c.work.bits.drop (8 * i)).take 8)

/-- The completion record (R216). -/
def mmaRecord (c : Cmd) (status : Nat) : List Byte :=
  let w := c.work
  toBytes 4 c.id.toNat ++ toBytes 1 status ++ toBytes 1 w.skipped ++ toBytes 2 w.flags.toNat ++ toBytes 8 w.count ++
    toBytes 4 w.sched.stalls ++ toBytes 4 w.sched.splits ++ toBytes 4 w.sched.spills ++ toBytes 4 w.nonfinite ++ c.classCounts ++
    toBytes 4 w.metaSkips ++ (w.metaFirst ++ List.replicate 16 0).take 16

/-- The front end stops at an element of the panel in hand, and every emitted entry completes (R217). -/
def mmaStop (limit : Nat) (r : Run) : Run :=
  let r := if r.pos < limit ∧ r.pos < r.c.work.total then Run.mmaPanel limit r else r
  { r with waits := false }.flush.modWork fun w =>
    { w with sched := { w.sched with rows := List.replicate 32 {}, spilled := [] } }

/-- The image's entries go into the same indices of the bank with the same role (R217). -/
def mmaResume (r : Run) : Run :=
  let tid := r.c.task
  let mine := (r.s.task tid).image.filter fun e => e.1 == r.c.rank
  let t := r.s.tile r.k
  let at_ (e : Nat × Bool × Nat × AW) : Nat := t.bankIndex e.2.1 e.2.2.1
  let s := r.s.modTile r.k fun t => { t with banks := mine.foldl (fun b e => bankPut b (at_ e) e.2.2.2) t.banks }
  let s := s.modTask tid fun t =>
    { t with image := t.image.filter (fun e => e.1 != r.c.rank)
             touched := t.touched.filter (fun x => x.1 != r.c.rank) ++ mine.map fun e => (r.c.rank, at_ e) }
  let s := s.tiles.foldl (fun s x => x.2.recs.foldl (fun s q =>
    if q.isSnapshot && q.spilled && q.task == tid && q.rank == r.c.rank then s.dropRecord x.1 q.num else s) s) s
  { r with s := s }

/-- The array. -/
def mmaUnit : Unit_ :=
  { check := mmaCheck, setup := mmaSetup, element := Run.mmaPanel (2 ^ 64), final := mmaFinal, record := mmaRecord
    stop := mmaStop, resume := mmaResume }

/-- R391: classifies, clears and multiplies into WORK entries by exact aw_add. -/
def execMma (c : CmdRef) (s : State) : Outcome := s.commandEvent mmaUnit 4 c

end Sys2Proof.Machine
end

