-- ==== Sys2Proof/Machine/Epilogue.lean ====
section
/-! DEFINITION. EPIL (R213, R214, R319, R362, R363, R367, R368): the epilogue processor's programs and elements. -/

namespace Sys2Proof.Machine

/-- Rows of an EPIL. -/
def Cmd.epM (c : Cmd) : Nat := c.num 0x60 1
/-- Columns. -/
def Cmd.epN (c : Cmd) : Nat := c.num 0x61 1
/-- MODE ARRIVAL. -/
def Cmd.epArrival (c : Cmd) : Bool := bitAt (c.num 0x62 1) 0
/-- ANCHOR. -/
def Cmd.epAnchor (c : Cmd) : Int := sgn 16 (c.num 0x5E 2)

/-- Bits that an operation's fields use, or none for the reserved OP (R319). -/
def epilUses (op : Nat) : Option Nat :=
  match op with
  | 0x0 => none
  | 0x1 => some 0x0C000000
  | 0x7 => some 0x0F000000
  | 0x8 => some 0x0F000000
  | 0xA => some 0x0F300000
  | 0xB => some 0x0C300000
  | 0xD => some 0x0F000000
  | 0xE => some 0x03000000
  | 0xF => some 0
  | _ => some 0x0FC00000

/-- OP of an epilogue word. -/
def epilOp (w : W32) : Nat := w.toNat / 2 ^ 28

/-- ILLEGAL of a refused command (R267). -/
def illegalCmd (sub : Nat) : CmdFault := { cause := 1, sub := sub }

/-- Reads a program's words in order until E.END, each checked (R213, R319). -/
def Run.epilProgram (prog : W64) : Nat → Nat → List W32 → Run → (Run → List W32 → Run) → Run
  | 0, _, _, r, _ => r.fail (illegalCmd 3)
  | n + 1, i, ws, r, k =>
    match r.own (prog + BitVec.ofNat 64 (4 * i)) 4 (if i = 0 then 64 else 4) false with
    | none => r.fail (illegalCmd 3)
    | some _ => r.read 0 (prog + BitVec.ofNat 64 (4 * i)) 4 fun r bs =>
      let w : W32 := BitVec.ofNat 32 (ofBytes bs)
      match epilUses (epilOp w) with
      | none => r.fail (illegalCmd 0)
      | some u =>
        if (w.toNat % 2 ^ 28) &&& (2 ^ 28 - 1 - u) ≠ 0 then r.fail (illegalCmd 3)
        else if epilOp w = 0xF then k r (ws ++ [w])
        else Run.epilProgram prog n (i + 1) (ws ++ [w]) r k

/-- The program names vector v (R362). -/
def namesVec (prog : List W32) (v : Nat) : Bool :=
  prog.any fun w => (epilOp w == 0xA || epilOp w == 0xB) && field w.toNat 21 1 == v

/-- An object that lies in a slice, 8-byte aligned (R367). -/
def Run.inSomeSlice (r : Run) (va : W64) (n : Nat) : Bool :=
  match r.iaOf va n false with
  | some a => va.toNat % 8 == 0 && r.s.regionOf a == some .slice && r.s.regionOf (a + n - 1) == some .slice
  | none => false

/-- The bytes of an element of DST, or of the block that holds it (R363). -/
def Cmd.epUnit (c : Cmd) (fmt i j : Nat) : W64 × Nat :=
  let z := unitBytes fmt
  let x := if (bfpOfCode fmt).isSome then j / 32 else j
  (c.va 0x28 + BitVec.ofNat 64 (i * c.num 0x58 4 + x * z), z)

/-- The pieces of DST (R161, R363): row by row where a row translates whole. -/
def Run.epPieces (r : Run) (fmt : Nat) : List (Nat × Nat) :=
  let c := r.c
  let units := if (bfpOfCode fmt).isSome then (c.epN + 31) / 32 else c.epN
  let step := if (bfpOfCode fmt).isSome then 32 else 1
  (List.range c.epM).flatMap fun i =>
    let row := (c.epUnit fmt i 0).1
    let n := units * unitBytes fmt
    if (r.iaOf row n true).isSome then r.pieces [(row, n)]
    else r.pieces ((List.range units).map fun u => c.epUnit fmt i (u * step))

/-- The start checks (R367). -/
def epilCheck (r : Run) : Run :=
  let c := r.c
  r.crecAt 0x50 64 malformed fun r =>
    r.check (decide (1 ≤ c.epM ∧ c.epM ≤ 64 ∧ 1 ≤ c.epN ∧ c.epN ≤ 64 ∧ c.num 0x5C 2 + 64 * (c.epM - 1) + c.epN - 1 ≤ 4095) &&
        decide (c.num 0x62 1 < 2) && r.zero 0x63 29) malformed fun r =>
      if r.fault.isSome then r
      else Run.epilProgram (c.va 0x20) 32 0 [] r fun r prog =>
        r.check (prog.countP (fun w => epilOp w == 0xE) ≤ 1) (illegalCmd 3) fun r =>
          let r := r.modWork fun w => { w with prog := prog }
          let rest (r : Run) (fmt : Nat) : Run :=
            r.check ((List.range 2).all fun v => !namesVec prog v || r.inSomeSlice (c.va (0x38 + 8 * v)) 256) malformed fun r =>
              r.check (c.va 0x48 == 0 || r.inSomeSlice (c.va 0x48) (8 * c.epM)) malformed fun r =>
                r.extent (r.epPieces fmt) id
          r.check ((c.va 0x30).toNat % 16 == 0) malformed fun r =>
            match r.iaOf (c.va 0x30) 16 false with
            | none => rest r 0x0C
            | some a =>
              if (r.s.uncorrectable a 16).isSome then rest r 0x0C
              else r.read 0 (c.va 0x30) 16 fun r bs =>
              match Tpr.parse bs with
              | none => r.fail malformed
              | some p =>
                let r := r.modWork fun w => { w with head := bs }
                let wide := p.fmt == 2 || p.fmt == 3 || (bfpOfCode p.fmt).isSome
                r.check (!wide || !prog.any fun w => epilOp w == 8 || epilOp w == 0xD) (illegalCmd 3) fun r => rest r p.fmt

/-- What is read once at start: TPR and the vectors that the program names (R362). -/
def epilSetup (r : Run) : Run :=
  let c := r.c
  let vec (v : Nat) (r : Run) (k : Run → List Byte → Run) : Run :=
    if namesVec r.c.work.prog v then r.read r.pos (c.va (0x38 + 8 * v)) 256 k else k r (List.replicate 256 0)
  let r := r.modWork fun w => { w with total := c.epM * c.epN }
  r.read r.pos (c.va 0x30) 16 fun r bs =>
    let r := r.modWork fun w => { w with head := bs }
    vec 0 r fun r v0 => vec 1 r fun r v1 => r.modWork fun w => { w with vecs := v0 ++ v1 }

/-- E.SCALE (R362). -/
def epilScale (arrival : Bool) (w : AW) (anchor : Int) (sc : Nat) : Nat × FlagSet :=
  let f := Fp.fp32
  if arrival then fpMul f (field w.toNat 0 32) sc
  else if awOut w then (f.canon, Flag.overflow)
  else
    let st := raiseIf (w.getLsbD 112) Flag.sticky
    match readFp f sc with
    | .nan sig => (f.canon, raiseIf sig Flag.invalid ||| st)
    | .inf neg =>
      if awSum w = 0 then (f.canon, Flag.invalid ||| st) else (f.infBits (neg != decide (awSum w < 0)), st)
    | .fin n m e =>
      let (x, fl) := cvt (numMul (awValue w anchor).1 (.fin n m e)).1 (.fp f) pFp32 0
      (x, fl ||| st)

/-- A converted value held as FP32 (R362). -/
def heldFp32 (f : Fmt) (x : Nat) : Nat := (ieeeRound Fp.fp32 (readFmt f x)).1

/-- What one element's operations read: its entry, its indexes, its mask bit, and the vectors. -/
structure EpCtx where
  w : AW
  anchor : Int
  arrival : Bool
  i : Nat
  j : Nat
  bit : Bool
  vecs : List Byte
  tpr : Tpr
  draw : Nat

/-- One operation on x0 to x3 (R362): the result, and its flags. -/
def EpCtx.op (x : EpCtx) (w : W32) (xs : List Nat) : Nat × FlagSet :=
  let f := Fp.fp32
  let d := xs.getD (field w.toNat 26 2) 0
  let a := xs.getD (field w.toNat 24 2) 0
  let b := xs.getD (field w.toNat 22 2) 0
  let v := fieldAt x.vecs (256 * field w.toNat 21 1 + 4 * (if w.getLsbD 20 then x.i else x.j)) 4
  match epilOp w with
  | 0x1 => if x.arrival then (field x.w.toNat 0 32, 0) else awRead x.w x.anchor (.fp f) pFp32 0
  | 0x2 => fpAdd f a b
  | 0x3 => fpMul f a b
  | 0x4 => fpFma f (readFp f a) (readFp f b) (readFp f d)
  | 0x5 => fpMinMax f true a b
  | 0x6 => fpMinMax f false a b
  | 0x7 => fnExp2 f a
  | 0x8 => match Fmt.ofCode x.tpr.fmt with
    | some g => let (y, fl) := cvt (readFp f a) g x.tpr x.draw; (heldFp32 g y, fl)
    | none => (a, 0)
  | 0x9 =>
    let (y, fl) := fpMinMax f true d a
    let (z, fl') := fpMinMax f false y b
    (z, fl ||| fl')
  | 0xA => fpAdd f a v
  | 0xB => epilScale x.arrival x.w x.anchor v
  | 0xC => (if x.bit then a else b, 0)
  | 0xD => match Fmt.ofCode x.tpr.fmt with
    | some g => let (y, fl) := cvt (readFp f a) g { x.tpr with stoch := true } x.draw; (heldFp32 g y, fl)
    | none => (a, 0)
  | _ => (d, 0)

/-- Runs a program: what E.STR stored, if it was reached, and the flags. -/
def EpCtx.run (x : EpCtx) : List W32 → List Nat → Option Nat → FlagSet → Option Nat × FlagSet
  | [], _, out, fl => (out, fl)
  | w :: ws, xs, out, fl =>
    match epilOp w with
    | 0xF => (out, fl)
    | 0xE => x.run ws xs (some (xs.getD (field w.toNat 24 2) 0)) fl
    | _ =>
      let (y, g) := x.op w xs
      x.run ws (xs.set (field w.toNat 26 2) y) out (fl ||| g)

/-- The MASKBITS word of a row, read once (R362). -/
def Run.maskWord (r : Run) (i : Nat) (k : Run → Nat → Run) : Run :=
  if r.c.va 0x48 = 0 then k r (2 ^ 64 - 1)
  else match Tab.find r.c.work.tables i with
  | some w => k r w
  | none => r.read r.pos (r.c.va 0x48 + BitVec.ofNat 64 (8 * i)) 8 fun r bs =>
      k (r.modWork fun w => { w with tables := Tab.put w.tables i (ofBytes bs) }) (ofBytes bs)

/-- E.STR's write of element (i, j) under TPR (R363). -/
def Run.epStore (r : Run) (p : Tpr) (i j : Nat) (v : Option Nat) (k : Run → Run) : Run :=
  let c := r.c
  let (va, _) := c.epUnit p.fmt i j
  match bfpOfCode p.fmt with
  | none => match v, Fmt.ofCode p.fmt with
    | some x, some g =>
      let (y, fl) := cvt (readFp Fp.fp32 x) g p (r.draw p (i * c.epN + j))
      r.write r.pos va (toBytes g.bytes y) fun r => k (r.flags fl)
    | _, _ => k r
  | some b =>
    let vals := c.work.block ++ [v]
    if j + 1 < c.epN ∧ j % 32 ≠ 31 then k (r.modWork fun w => { w with block := vals })
    else
      let n0 := i * c.epN + 32 * (j / 32)
      let xs := (List.range 32).map fun e => readFp Fp.fp32 ((vals.getD e none).getD 0)
      let (e, ms, fl) := bfpBlock b p xs ((List.range 32).map fun e => r.draw p (n0 + e))
      r.write r.pos va (packBlock b e ms) fun r => k ((r.flags fl).modWork fun w => { w with block := [] })

/-- One element of the region (R214, R362). -/
def epilElement (r : Run) : Run :=
  let c := r.c
  let i := r.pos / c.epN
  let j := r.pos % c.epN
  match Tpr.parse c.work.head with
  | none => r.fail malformed
  | some p =>
    r.maskWord i fun r bits =>
      let x : EpCtx :=
        { w := r.s.visEntry r.k (c.num 0x5C 2 + 64 * i + j), anchor := c.epAnchor, arrival := c.epArrival, i := i, j := j
          bit := bitAt bits j, vecs := c.work.vecs, tpr := p, draw := r.draw p (i * c.epN + j) }
      let (out, fl) := x.run c.work.prog [0, 0, 0, 0] none 0
      (r.flags fl).epStore p i j out fun r => (r.modWork fun w => { w with count := w.count + 1 }).reach (r.pos + 1)

/-- The completion record (R216, R368). -/
def epilRecord (c : Cmd) (status : Nat) : List Byte :=
  toBytes 4 c.id.toNat ++ toBytes 1 status ++ toBytes 1 0 ++ toBytes 2 c.work.flags.toNat ++ toBytes 8 c.work.count ++
    List.replicate 48 0

/-- The epilogue processor stops where no block is half gathered. -/
def epilStop : Nat → Run → Run
  | 0, r => r
  | n + 1, r => if r.c.work.block.isEmpty || r.fault.isSome then r else epilStop n (epilElement r)

/-- The epilogue processor. Restarted, it takes its entries from the image (R368). -/
def epilUnit : Unit_ :=
  { check := epilCheck, setup := epilSetup, element := epilElement, stop := fun _ => epilStop 32, resume := mmaResume
    record := epilRecord }

/-- R367: drains VIS entries through an epilogue program into DST. -/
def execEpil (c : CmdRef) (s : State) : Outcome := s.commandEvent epilUnit 8 c

end Sys2Proof.Machine
end

