-- ==== Sys2Proof/WellFormed.lean ====
section
/-! DEFINITION. Which instructions are well formed: the limits of the opcode maps (R307 to R315), and units that a full package
has (R6). A word outside the limits still runs: it takes the trap of R310. -/

namespace Sys2Proof

/-- An order field that its word may take (R308). -/
def orderFits (ord scope : BitVec 2) (allowed : List Nat) : Bool := allowed.contains ord.toNat && (ord != 0 || scope == 0)

/-- A type code from `lowest` on (R309). -/
def typeFits (t : BitVec 3) (lowest : Nat) : Bool := decide (lowest ≤ t.toNat ∧ t.toNat < 6)

/-- The tile of a command exists in a full package (R6). -/
def CmdRef.onPackage (c : CmdRef) : Bool := decide (c.tile < 512)

/-- The instruction keeps the limits of its row. -/
def Instr.wellFormed : Instr → Bool
  | .add _ => true
  | .sub _ => true
  | .andW _ => true
  | .orW _ => true
  | .xorW _ => true
  | .shl _ => true
  | .shrl _ => true
  | .shra _ => true
  | .mul _ => true
  | .mulh _ => true
  | .mulhu _ => true
  | .minW _ => true
  | .minu _ => true
  | .maxW _ => true
  | .maxu _ => true
  | .div _ => true
  | .divu _ => true
  | .rem _ => true
  | .remu _ => true
  | .clz _ => true
  | .popc _ => true
  | .cmp o => decide (o.cc.toNat < 6)
  | .sel _ => true
  | .addi _ => true
  | .andi _ => true
  | .ori _ => true
  | .xori _ => true
  | .shli o => decide (o.imm.toNat < 64)
  | .movi _ _ _ => true
  | .movhi _ => true
  | .lea _ _ _ _ _ => true
  | .bfx o => decide (o.pos.toNat + o.len1.toNat < 64)
  | .bfi o => decide (o.pos.toNat + o.len1.toNat < 64)
  | .pbr _ _ _ => true
  | .pbrxImm _ _ _ => true
  | .pbrxReg _ _ _ _ _ => true
  | .br _ _ _ _ _ => true
  | .call _ _ _ => true
  | .ret _ _ => true
  | .loopW _ _ _ _ len => len != 0
  | .endW _ => true
  | .yield _ => true
  | .idem _ => true
  | .live _ _ _ => true
  | .trapW _ imm => decide (imm.toNat < 256)
  | .bkpt _ => true
  | .rte _ => true
  | .spawn _ => true
  | .tdec _ => true
  | .amsg _ => true
  | .ecmd _ eng _ _ _ => decide (eng.toNat < 7)
  | .xpf _ => true
  | .bar _ => true
  | .qwait _ _ => true
  | .accswap _ => true
  | .getc _ _ _ => true
  | .setc _ _ _ _ => true
  | .rdcyc _ _ => true
  | .rdfrm _ _ => true
  | .trmark _ _ _ _ => true
  | .perfrd _ _ _ => true
  | .skip _ _ _ => true
  | .ld _ => true
  | .ldv _ => true
  | .ldvs _ => true
  | .ldvx o => decide (o.fn.toNat < 3)
  | .gld _ => true
  | .gldv _ => true
  | .getf _ => true
  | .flrd _ => true
  | .rngwait _ => true
  | .fenceL _ ord scope => orderFits ord scope [1, 2, 3]
  | .markL _ => true
  | .st _ => true
  | .stv _ => true
  | .stvs _ => true
  | .stvx o => decide (o.fn.toNat < 3)
  | .gst _ => true
  | .gstv _ => true
  | .putf _ => true
  | .fladd o => orderFits o.ord o.scope [0, 2]
  | .flwait o _ => orderFits o.ord o.scope [0, 1]
  | .rngrel _ => true
  | .pub _ => true
  | .fenceW _ ord scope => orderFits ord scope [1, 2, 3]
  | .markW _ => true
  | .amoAdd _ => true
  | .amoAnd _ => true
  | .amoOr _ => true
  | .amoXor _ => true
  | .amoMin _ => true
  | .amoMax _ => true
  | .amoMinu _ => true
  | .amoMaxu _ => true
  | .amoSwap _ => true
  | .amoCas _ => true
  | .amoFmin _ => true
  | .amoFmax _ => true
  | .amoFadd _ => true
  | .amoAddNr _ => true
  | .amoAndNr _ => true
  | .amoOrNr _ => true
  | .amoXorNr _ => true
  | .amoMinNr _ => true
  | .amoMaxNr _ => true
  | .amoMinuNr _ => true
  | .amoMaxuNr _ => true
  | .amoSwapNr _ => true
  | .amoFminNr _ => true
  | .amoFmaxNr _ => true
  | .amoFaddNr _ => true
  | .amoXadd o => decide (o.fn.toNat < 5)
  | .vadd o => typeFits o.fn 0
  | .vsub o => typeFits o.fn 0
  | .vmul o => typeFits o.fn 0
  | .vfma o => typeFits o.fn 0
  | .vfms o => typeFits o.fn 0
  | .vmin o => typeFits o.fn 0
  | .vmax o => typeFits o.fn 0
  | .vabs o => typeFits o.t 0
  | .vneg o => typeFits o.t 0
  | .vand _ => true
  | .vor _ => true
  | .vxor _ => true
  | .vshl _ => true
  | .vshrL _ => true
  | .vshrA _ => true
  | .vcmp o => typeFits o.t 0 && decide (o.cc.toNat < 6 ∧ (o.cc.toNat < 4 ∨ o.t.toNat < 3))
  | .vsel _ => true
  | .vmov _ => true
  | .vbcast o => typeFits o.t 0
  | .vext o => decide (o.imm.toNat < 64)
  | .viota _ => true
  | .vperm _ => true
  | .vrot o => decide (o.imm.toNat < 64)
  | .vpopc _ _ _ => true
  | .vred o => typeFits o.t 0 && decide (o.op.toNat < 7 ∧ (o.op.toNat < 3 ∨ o.op.toNat = 6 ∨ o.t.toNat < 3) ∧ (o.op.toNat = 6 → 2 ≤ o.t.toNat))
  | .vscan o => typeFits o.t 0 && decide (o.op.toNat < 3)
  | .vcvt o => typeFits o.fn 0
  | .vrnd o => typeFits o.t 3 && decide (o.op.toNat < 4)
  | .vfexp o => typeFits o.t 3
  | .vscale o => typeFits o.fn 3
  | .vgetexp o => typeFits o.t 3
  | .vrcp o => typeFits o.t 3
  | .vrsq o => typeFits o.t 3
  | .vflog o => typeFits o.t 3
  | .vrand _ => true
  | .vsrnd o => typeFits o.t 0
  | .vquant o => typeFits o.t 0
  | .vdeq o => decide (o.fn.toNat < 7)
  | .vxacc _ => true
  | .accrd _ => true
  | .accclr _ => true
  | .xclr _ => true
  | .xaddv o => typeFits o.fn 2
  | .xrd o => typeFits o.t 3
  | .cpy c => c.onPackage
  | .cpyg c => c.onPackage
  | .cpys c => c.onPackage
  | .mma c => c.onPackage
  | .epil c => c.onPackage
  | .mrg c => c.onPackage
  | .sisect c => c.onPackage
  | .mskev c => c.onPackage
  | .coll c => c.onPackage
  | .qctlSpill c => c.onPackage
  | .commandCompletion c => c.onPackage
  | .stampEdge c => c.onPackage
  | .copyAgePromotion c => c.onPackage
  | .ecmdQueueTimeout n => decide (n < 4096)
  | .envelopeModeWrite _ => true
  | .envelopeTransitionDone => true
  | .windowWrite n _ => decide (n < 4096)
  | .seedWrite _ _ => true
  | .trapFramesWrite n _ => decide (n < 4096)
  | .stopAtWrite tile _ => decide (tile < 512)
  | .detcauseClear tile num => decide (tile < 512 ∧ 0x140 ≤ num.toNat ∧ num.toNat ≤ 0x150)
  | .rangeRegisterWrite n num _ => decide (n < 4096 ∧ 0x100 ≤ num.toNat ∧ num.toNat < 0x130)
  | .arithFlagsWrite tile _ => decide (tile < 512)
  | .qcwWrite _ _ => true
  | .packageReset => true
  | .boot flash => flash.images.length == 5 && flash.root.length == 4096
  | .thermalTrip _ => true
  | .thermalModeRequest _ => true
  | .powerGating _ _ => true
  | .ageingMonitorUpdate monitor _ _ _ => decide (monitor < 604)
  | .tileFailure tile => decide (tile < 512)
  | .tileService tile => decide (tile < 512)
  | .hbmChannelService _ channel => decide (channel < 384)
  | .lpddrChannelService _ channel => decide (channel < 16)
  | .cxlPortService _ port => decide (port < 4)
  | .fabricPortService port _ => decide (port < 96)
  | .drainComplete unit => (match unit with
    | .hbmChannel c => decide (c < 384)
    | .lpddrChannel c => decide (c < 16)
    | .cxlPort p _ => decide (p < 4))
  | .firmwareReplacement _ => true
  | .svnMinimumRaise _ _ => true
  | .attestationRequest nonce => decide (nonce < 2 ^ 256)
  | .keyLoad index => decide (1 ≤ index ∧ index < 512)
  | .pageFaultMessage _ _ => true
  | .pageMigration _ _ => true
  | .migrationComplete _ => true
  | .scrubberError _ => true
  | .expertHintApply => true
  | .submissionTailWrite queue _ => decide (queue < 16)
  | .launchTask queue => decide (queue < 16)
  | .launchGraph queue => decide (queue < 16)
  | .trackReset src => (match src with
    | .queue n => decide (n < 16)
    | .forwarded n => decide (n < 64))
  | .endJob src => (match src with
    | .queue n => decide (n < 16)
    | .forwarded n => decide (n < 0xFFFF))
  | .hostRdmaRead _ _ _ => true
  | .hostRdmaWrite _ _ _ => true
  | .hostPortDown port => decide (port < 2)
  | .linkFlitLoss port => decide (port < 96)
  | .portDown port _ => decide (port < 96)
  | .amsgArrival _ => true
  | .taskDecrement _ _ _ => true
  | .stagingComplete _ => true
  | .dispatch cluster => decide (cluster < 32)
  | .relaunch n => decide (n < 4096)
  | .priorityAgeing _ => true
  | .agePreemption _ => true
  | .preemption _ _ => true
  | .preemptionComplete _ => true
  | .clusterSteal cluster => decide (cluster < 32)
  | .loadReport chip _ => decide (chip < 512)
  | .packageStealRequest chip => decide (chip < 512)
  | .stolenTaskArrival _ _ => true
  | .departureCommit n => decide (n < 4096)
  | .replyArrival _ => true
  | .remoteLoadRequest _ => true
  | .remoteStoreArrival _ => true
  | .remoteAmoArrival _ => true
  | .remoteFladdArrival _ => true
  | .remotePutfArrival _ => true
  | .remoteWaitRequest _ => true
  | .watchAnswer _ => true
  | .postedFailureReport _ => true
  | .backoffExpiry tile _ => decide (tile < 512)
  | .accswapAtQuiescence tile => decide (tile < 512)
  | .taskRetirement _ => true
  | .wavePass => true
  | .waveSnapshot _ _ => true
  | .quietBroadcast slot _ => decide (slot < 64)
  | .ringDeadlockDetect n => decide (n < 4096)
  | .heldErrorRecordPost _ => true
  | .stopAtExpiry tile => decide (tile < 512)
  | .heltisStopRequest tiles _ => tiles.all fun k => decide (k < 512)
  | .heltisResume tile => decide (tile < 512)
  | .heltisAccess tile _ => decide (tile < 512)
  | .heltisDumpRequest _ => true
  | .traceSample tile => decide (tile < 512)
  | .linkRetraining port lanes _ => decide (port < 96 ∧ lanes.toNat < 3)
  | .hostPortUp port => decide (port < 2)
  | .dynamicCapacityExtent _ => true
  | .pageUnmap _ => true

end Sys2Proof
end

