-- ==== Sys2Proof/Machine/Walk.lean ====
section
/-! DEFINITION. One turn of an engine (R63 to R77, R310, R311): fetch, decode, the holds, stepping over other engines'
words, and the run-on of a departure (R48). The word itself is performed by `exec`, which is handed in. -/

namespace Sys2Proof.Machine

/-- Tags of a word and of its engine. -/
def wordEngine (w : W32) : Engine := engineOfTag (w.extractLsb' 26 2)

/-- What an engine finds at its PC. -/
inductive Found where
  /-- A word of another engine, of `len` words. -/
  | other (len : Nat)
  /-- A branch word of S seen by another engine (R69). -/
  | branch (len : Nat)
  /-- A meeting word seen by another engine (R311): it holds until S has performed it, and steps over an IDEM then (R383). -/
  | meeting
  /-- FLWAIT.acq seen by L, which holds until W has performed it (R376). -/
  | acquire
  /-- An atomic seen by L (R154). -/
  | atomic (len : Nat)
  | own (i : Instr)
  | trap (r : TrapReq)
  deriving DecidableEq, Repr

/-- Decodes the word that stands at an engine's PC: its instruction, or the trap of R310. -/
def decodeAt (super : Bool) (w : W32) (ext : Option W32) : Except TrapReq Instr :=
  match decodeWords w ext with
  | .ok (i, _) => .ok i
  | .error .reservedOp => .error illegalOp
  | .error .dqExt => .error { cause := 1, sub := 1 }
  | .error .operandSup => .error (if super then illegalOperand else illegalPriv)
  | .error .operand => .error illegalOperand
  | .error .truncated => .error illegalOperand

/-- The extension word at an engine's PC, for a head of a two-word instruction; a fetch that fails traps on the first engine that
reaches it, whichever word of the instruction it is (R63, R65; DEDUCED, log 71). -/
def State.fetchExt (s : State) (e : Engine) (w : W32) : Except TrapReq (Option W32) :=
  if isTwoWordHead w then (s.fetchWord e (s.cur.pc e + 1)).map some else .ok none

/-- The word keeps what R310 checks where it is reached, whatever the registers hold: reserved fn values, privilege, and the limits of
its fields. -/
def stands (super : Bool) (i : Instr) : Bool :=
  i.wellFormed && match i with
    | .rte _ => super
    | .getc _ _ imm => ctlAssigned imm.toNat
    | .setc _ _ _ imm => ctlAssigned imm.toNat && (super || !ctlSuper imm.toNat)
    | _ => true

/-- What an engine finds at a word of another engine (R63, R69, R154, R311, R376); it steps over an illegal word (R310). -/
def foundOther (super : Bool) (e : Engine) (w : W32) (ext : Option W32) : Found :=
  let len := if isTwoWordHead w then 2 else 1
  match decodeWords w ext with
  | .ok (i, _) =>
    let v := view i
    if !stands super i then .other len
    else if v.branch then .branch len
    else if v.meeting then .meeting
    else if e = .l ∧ v.atomic then .atomic len
    else match i with
      | .flwait o _ => if e = .l ∧ o.ord = 1#2 then .acquire else .other len
      | _ => .other len
  | .error _ => .other len

/-- The IA of the first word of an instruction at an engine's PC that its fetch has to wait for: on a page that faults or moves, or
in the slice of a stopped tile (R65, R135, R136, R280). -/
def State.fetchWaits (s : State) (e : Engine) : Option Nat :=
  [0, 4].findSome? fun i =>
    match s.iaOf e (s.textBase + BitVec.ofNat 64 (4 * (s.cur.pc e).toNat + i)) 4 false with
    | some ia =>
      let head : Bool := match s.fetchWord e (s.cur.pc e) with
        | .ok w => isTwoWordHead w
        | .error _ => false
      if (i = 0 ∨ head) ∧ (s.pageWaits ia 4 false ∨ s.stoppedSlice ia) then some ia else none
    | none => none

/-- What engine e of the strand in focus finds at its PC (R63, R65, R306, R310). -/
def State.find (s : State) (e : Engine) : Found :=
  match s.fetchWord e (s.cur.pc e) with
  | .error r => .trap r
  | .ok w => match s.fetchExt e w with
    | .error r => .trap r
    | .ok ext =>
      if wordEngine w = e then
        match decodeAt s.cur.super w ext with
        | .ok i => .own i
        | .error r => .trap r
      else foundOther s.cur.super e w ext

/-- The IA of a scalar-addressed word lies outside the own slice, where it translates (R47). -/
def State.isRemote (s : State) (e : Engine) (va : W64) (n : Nat) (write : Bool) : Bool :=
  match s.iaOf e va n write with
  | some a => !s.inSlice s.here a
  | none => false

/-- The word at a departing engine's run-on would depart if it were performed now (R47, R48). -/
def State.wouldDepart (s : State) (i : Instr) : Bool :=
  let t := s.cur
  match i with
  | .gld _ => true
  | .gldv o => t.preg o.fn != 0
  | .bar _ => true
  | .qwait _ _ => true
  | .yield _ => true
  | .flrd o => s.isRemote .l (t.sreg o.a) 8 false
  | .getf o =>
    s.isRemote .l (t.sreg o.a) 16 false ||
      (match s.iaOf .l (t.sreg o.a) 16 false with
       | some a => s.readNum (a + 8) 8 == 0
       | none => false)
  | .flwait o sub =>
    s.isRemote .w (t.sreg o.a) 8 sub ||
      (match s.iaOf .w (t.sreg o.a) 8 sub with
       | some a => decide (BitVec.ofNat 64 (s.readNum a 8) < t.sreg o.b)
       | none => false)
  | .rngwait o =>
    (match s.iaOf .l (t.sreg o.a) 32 false with
     | some a => let q := s.qcwAt a; decide (q.occupancy ≤ ((t.sreg o.b).toNat + 2 ^ 32 - q.head) % 2 ^ 32)
     | none => false)
  | .fenceW _ _ sc => sc != 0#2 && s.outstanding s.curTaskNum t.rank && !decide (t.halves[2] < t.halves[3] + 1)
  | .accswap _ => !s.quiescent s.here s.curTaskNum t.rank
  | .amoAdd o => s.isRemote .w (t.sreg o.a) (sizeBytes o.size) true
  | .amoAnd o => s.isRemote .w (t.sreg o.a) (sizeBytes o.size) true
  | .amoOr o => s.isRemote .w (t.sreg o.a) (sizeBytes o.size) true
  | .amoXor o => s.isRemote .w (t.sreg o.a) (sizeBytes o.size) true
  | .amoMin o => s.isRemote .w (t.sreg o.a) (sizeBytes o.size) true
  | .amoMax o => s.isRemote .w (t.sreg o.a) (sizeBytes o.size) true
  | .amoMinu o => s.isRemote .w (t.sreg o.a) (sizeBytes o.size) true
  | .amoMaxu o => s.isRemote .w (t.sreg o.a) (sizeBytes o.size) true
  | .amoSwap o => s.isRemote .w (t.sreg o.a) (sizeBytes o.size) true
  | .amoCas o => s.isRemote .w (t.sreg o.a) (sizeBytes o.size) true
  | .amoFmin o => s.isRemote .w (t.sreg o.a) 4 true
  | .amoFmax o => s.isRemote .w (t.sreg o.a) 4 true
  | .amoFadd o => s.isRemote .w (t.sreg o.a) 4 true
  | _ => false

/-- Some accesses of the engine's word are performed, and others not yet (R151). -/
def Strand.inPart (t : Strand) (e : Engine) : Bool :=
  match e with
  | .l => !t.partL.isEmpty
  | .w => t.partW != 0
  | _ => false

/-- The word of L or W of which some accesses are performed. -/
def Strand.begun (t : Strand) (e : Engine) : Option Instr :=
  match e with
  | .l => t.begunL
  | .w => t.begunW
  | _ => none

/-- The engine may not move: another departs, and this one leads it or has reached its word (R48). A word that it has begun is
completed. -/
def Strand.stoppedByDeparture (t : Strand) (e : Engine) : Bool :=
  match t.departing with
  | some d => decide (d.engine = e ∨ d.walk ≤ t.walk e) && !t.inPart e
  | none => false

/-- A word holds for another engine of its strand: a load for the atomic that L stepped over (R154), and an atomic, a release of a
ring's slot and a publication for the earlier loads (R154, R165); for a release form they are waited for in the outbound order (R373,
R401). -/
def State.strandOrder (s : State) (i : Instr) : Bool :=
  let t := s.cur
  let v := view i
  let load := v.load && (match t.atomMark with
    | some k => decide (t.walk .w ≤ k)
    | none => false)
  let release := match i with
    | .rngrel _ => true
    | .pub _ => true
    | .putf _ => false
    | .fladd o => o.ord != 2#2
    | _ => v.atomic
  load || (release && t.loadsTrail)

/-- The register that holds the address of an atomic (R314). -/
def addrReg (i : Instr) : BitVec 5 :=
  match (view i).srcs with
  | (.s a, _) :: _ => a
  | _ => 0

/-- A W word of the strand in focus that writes to its own slice when it is performed (R64). -/
def State.writesOwn (s : State) (i : Instr) : Bool :=
  let t := s.cur
  match i with
  | .st _ => true
  | .stv _ => true
  | .stvs _ => true
  | .stvx _ => true
  | .gst o => !s.isRemote .w (t.sreg o.a + offset5 o.d (sizeBytes o.size)) (sizeBytes o.size) true
  | .gstv o => (activeLanes (t.preg o.fn)).any fun l => !s.isRemote .w (indexAddr (t.sreg o.a) (t.vreg o.d) 4 l) 4 true
  | .fladd o => o.ord != 2#2 && !s.isRemote .w (t.sreg o.a) 8 true
  | .putf _ => false
  | _ => (view i).atomic && !s.isRemote .w (t.sreg (addrReg i)) 1 true

/-- The pips that the test of an own-tile FLWAIT comes after are taken by commands that can start now: step 3 of R88 comes before
step 4. -/
def State.startsBefore (s : State) (i : Instr) : Bool :=
  match i with
  | .flwait o sub => (match s.iaOf .w (s.cur.sreg o.a) 8 sub with
    | some a => s.inSlice s.here a && s.startDue s.here
    | none => false)
  | _ => false

/-- The word reads or writes memory: words of L and W, and those of S and A that name an object in memory. -/
def touchesMemory (i : Instr) : Bool :=
  match i with
  | .spawn _ => true
  | .tdec _ => true
  | .amsg _ => true
  | .ecmd _ _ _ _ _ => true
  | .xpf _ => true
  | .vcvt _ => true
  | .vsrnd _ => true
  | .vquant _ => true
  | .vxacc _ => true
  | .xclr _ => true
  | .xaddv _ => true
  | .xrd _ => true
  | .vred o => o.op == 6#5
  | _ => (view i).engine == .l || (view i).engine == .w

/-- A word holds for a message of its strand or task that is not performed. A load comes after the atomics that L stepped over
(R154); an own-slice write comes after a release that is held (R373, R401), as do FLWAIT and a returning atomic; RNGREL and PUB
come after every write (R165); a command after the own-slice writes (R160); and every access after what BAR orders before it
(R34). -/
def State.messageOrder (s : State) (i : Instr) : Bool :=
  let t := s.cur
  let v := view i
  let tid := s.curTaskNum
  let release := s.releaseHeld tid t.rank
  let held := match i with
    | .flwait _ _ => release
    | .rngrel _ => s.outstanding tid t.rank
    | .pub _ => s.outstanding tid t.rank
    | .ecmd _ _ _ _ _ => s.ownHeld tid t.rank s.here
    | _ => v.atomic && v.dest.isSome && release
  let load := v.load && t.atomMark.isSome && s.sentBy tid t.rank fun b => b.posted && !(match b with
    | .store _ _ => true
    | .storeRest _ _ => true
    | _ => false)
  held || load || (v.engine == .w && release && s.writesOwn i) || (touchesMemory i && s.barHolds tid)

/-- A write of a control register takes effect when S retires it, after the older words of S (R64, R410). -/
def Strand.olderFirst (t : Strand) (i : Instr) : Bool :=
  match i with
  | .setc _ _ _ _ => t.flights.any fun f => f.engine == .s
  | _ => false

/-- The orders of a strand's own words and accesses hold a word (R64, R88, R152 to R165). -/
def State.orderHolds (s : State) (i : Instr) : Bool := s.strandOrder i || s.messageOrder i || s.startsBefore i || s.cur.olderFirst i

/-- A MARK or FENCE half that has been counted and still holds for its partner (R155, R372): the halves of MARK of L, MARK of W,
FENCE of L, FENCE of W. -/
def Strand.halfHeld (t : Strand) (i : Instr) : Bool :=
  match i with
  | .markL _ => t.halfAt[0] == t.walk .l + 1 && decide (t.halves[1] < t.halves[0])
  | .markW _ => t.halfAt[1] == t.walk .w + 1 && decide (t.halves[0] < t.halves[1])
  | .fenceL _ ord _ => ord == 3#2 && t.halfAt[2] == t.walk .l + 1 && decide (t.halves[3] < t.halves[2])
  | .fenceW _ _ _ => decide (t.halves[2] < t.halves[3] + 1)
  | _ => false

/-- The registers that a word waits for: an empty may-wait source, or a destination still in flight. -/
def Strand.waitsFor (t : Strand) (v : View) : Bool :=
  v.srcs.any (fun r => r.2 && !t.isFull r.1) ||
    (match v.dest with
     | some r => !t.isFull r
     | none => false)

/-- An assumed-ready source found empty (R77). -/
def Strand.violates (t : Strand) (v : View) : Bool := v.srcs.any fun r => !r.2 && !t.isFull r.1

/-- A schedule violation under CHK = 0 is counted once for each word that meets it (R77). -/
def State.countViolation (s : State) (e : Engine) : State :=
  let t := s.cur
  if t.violAt[engineIdx e] = t.walk e + 1 then s.countCycles s.here 9
  else
    let s := s.modCur fun t => { t with violAt := t.violAt.set (engineIdx e) (t.walk e + 1) }
    (s.modTile s.here fun k =>
      { k with viol := if k.viol = 0xFFFF then k.viol else k.viol + 1, violPc := t.pc e }).countCycles s.here 9

/-- Notes that engine e reads the word or words at its PC, as it moves past them (R162). -/
def State.noteFetch (s : State) (e : Engine) (len : Nat) : State :=
  let va := s.textBase + BitVec.ofNat 64 (4 * (s.cur.pc e).toNat)
  match s.iaOf e va 4 false with
  | some ia => s.noteRead s.here false (s.cur.pc e) ia (4 * len)
  | none => s

/-- The turn of engine e of strand n when it stands alone (R63, R64). `run` performs a word; a turn that holds changes nothing but
counters, and a fetch from a page that has to be waited for raises its fault (R135). -/
def State.engineTurn (run : Instr → State → Outcome) (s : State) (n : Nat) (e : Engine) : Outcome :=
  let s := { s with focus := n }
  let t := s.cur
  if !t.live || s.halted (n / 8) || s.pkg.packageError || s.pkg.power != .on || t.stoppedByDeparture e || t.overflowRisk e || t.idles e then .next s
  else if t.inPart e then (match t.begun e with
    | some i => run i s
    | none => .next s)
  else match t.closing[engineIdx e], s.fetchWaits e with
  | some tag, _ => match t.resolve e tag with
    | some t => .next (s.modCur fun _ => t)
    | none => .next s
  | none, some ia => .next (if s.stoppedSlice ia || s.placed (localOf ia) 4 false then s else s.raiseFault (localOf ia) false s.curTask.job (.fetch n e))
  | none, none =>
    match s.find e with
    | .trap r => s.trapWord e r
    | .meeting => if t.walk .s ≤ t.walk e then .next s
        else if t.windowHolds e 1 then .next (s.countCycles (n / 8) 0xB) else .next ((s.noteFetch e 1).modCur fun t => t.pass e 1 none)
    | .acquire => if t.walk .w ≤ t.walk .l then .next s
        else if t.windowHolds e 1 then .next (s.countCycles (n / 8) 0xB) else .next ((s.noteFetch e 1).modCur fun t => t.pass e 1 none)
    | .branch len =>
      if (t.popFor e (t.walk e)).2 then
        if t.windowHolds e len then .next (s.countCycles (n / 8) 0xB) else .next ((s.noteFetch e len).modCur fun t => t.pass e len none)
      else .next s
    | .other len =>
      if t.windowHolds e len then .next (s.countCycles (n / 8) 0xB) else .next ((s.noteFetch e len).modCur fun t => t.pass e len none)
    | .atomic len =>
      if t.windowHolds e len then .next (s.countCycles (n / 8) 0xB)
      else .next ((s.noteFetch e len).modCur fun t => { t.pass e len none with atomMark := some (t.walk e) })
    | .own i =>
      let v := view i
      let others := decide (t.walk .l = t.walk .s ∧ t.walk .a = t.walk .s ∧ t.walk .w = t.walk .s) &&
        t.closing[1].isNone && t.closing[2].isNone && t.closing[3].isNone && t.flights.isEmpty
      if !stands t.super i then run i (s.noteFetch e v.len)
      else if v.meeting && !others then .next s
      else if t.windowHolds e v.len then .next (s.countCycles (n / 8) 0xB)
      else if v.len = 2 ∧ t.headCloses then s.trapWord e illegalOperand
      else if e == .s && t.closeHolds v.len then .next s
      else if !t.tokensReady e v.q then .next (s.countCycles (n / 8) 0xA)
      else if t.violates v then
        if (s.tile (n / 8)).chk then s.trapWord e { cause := 2, sub := 0 } else .next (s.countViolation e)
      else if t.waitsFor v || s.orderHolds i then .next s
      else if t.departing.isSome && s.wouldDepart i then .next s
      else run i (s.noteFetch e v.len)

/-- The turn took a trap: each raises the counter TRAPS of its tile (R286). -/
def trapped (s : State) (k : Nat) : Outcome → Bool
  | .next t => Tab.get 0 (t.tile k).perf 0x17 != Tab.get 0 (s.tile k).perf 0x17
  | _ => false

/-- Engine e of strand n would take a trap now. -/
def State.wouldTrap (run : Instr → State → Outcome) (s : State) (n : Nat) (e : Engine) : Bool := trapped s (n / 8) (s.engineTurn run n e)

/-- A word that is performed in part, of another engine than `but`, is there in `s` and dropped in `t`. A trap, or an end of its task,
that drops it has to wait for it (R268 step 2, R273), unless it traps itself; a stopped tile completes nothing. -/
def State.dropsBegun (run : Instr → State → Outcome) (s t : State) (but : Nat × Engine) : Bool :=
  s.strands.any fun x => [Engine.l, .w].any fun e =>
    (x.1, e) != but && x.2.inPart e && !s.halted (x.1 / 8) && !(t.strand x.1).inPart e && !s.wouldTrap run x.1 e

/-- A turn's outcome drops a word that is performed in part. -/
def State.cuts (run : Instr → State → Outcome) (s : State) (but : Nat × Engine) : Outcome → Bool
  | .next t => s.dropsBegun run t but
  | _ => false

/-- A trap of engine e of strand n waits: an engine with a smaller walk count stands at a trapping word too (R268). -/
def State.trapWaits (run : Instr → State → Outcome) (s : State) (n : Nat) (e : Engine) : Bool :=
  let t := s.strand n
  [Engine.s, .l, .a, .w].any fun x => x != e && decide (t.walk x < t.walk e) && s.wouldTrap run n x

/-- The turn of engine e of strand n (R63, R64, R268): a trap may have to wait. -/
def State.wordTurn (run : Instr → State → Outcome) (s : State) (n : Nat) (e : Engine) : Outcome :=
  let o := s.engineTurn run n e
  if (trapped s (n / 8) o && s.trapWaits run n e) || s.cuts run (n, e) o then .next { s with focus := n } else o

/-- Some engine of strand n stands at a word that traps now: its trap comes before a pre-emption and before the commit of a
departure (R269). -/
def State.trapDue (run : Instr → State → Outcome) (s : State) (n : Nat) : Bool :=
  [Engine.s, .l, .a, .w].any fun e => s.wouldTrap run n e

/-- A turn that has to wait for a trap of a strand of its task (R269): a pre-emption, while some member of the task stands at a word
that traps. -/
def State.trapFirst (run : Instr → State → Outcome) (s : State) (i : Instr) : Bool :=
  match i with
  | .preemption tid _ => (s.task tid).members.any fun m => m.slot.elim false fun n => (s.strand n).task == some tid && s.trapDue run n
  | _ => false

/-- Events that end words where they stand: the package, the tile or its power is gone. -/
def abrupt : Instr → Bool
  | .packageReset => true
  | .boot _ => true
  | .thermalTrip _ => true
  | .tileFailure _ => true
  | _ => false

/-- No engine: what an event drops is compared with every word that is performed in part. -/
def noEngine : Nat × Engine := (4096, .s)

/-- The fault processor that serves the page of an address (R135, R297). -/
def fpOf (a : Nat) : Nat := Config.faultProcessor (a / 0x10000) % 32

/-- What an event asks of a unit with firmware, if anything (R292, R297, R298): the unit, its instance, and whether it is a request from
outside, which has to be held; the others are the unit's own moves, or their requests wait in queues of the state. -/
def State.firmwareOf (s : State) (i : Instr) : Option (Nat × Nat × Bool) :=
  let fp (a : Nat) : Option (Nat × Nat × Bool) := some (2, fpOf a, true)
  match i with
  | .dispatch _ => some (1, 0, false)
  | .stagingComplete _ => some (1, 0, false)
  | .priorityAgeing _ => some (1, 0, false)
  | .agePreemption _ => some (1, 0, false)
  | .preemption _ _ => some (1, 0, false)
  | .preemptionComplete _ => some (1, 0, false)
  | .taskRetirement _ => some (1, 0, false)
  | .clusterSteal _ => some (1, 0, false)
  | .launchTask _ => some (1, 0, false)
  | .launchGraph _ => some (1, 0, false)
  | .seedWrite _ _ => some (1, 0, false)
  | .trackReset (.queue _) => some (1, 0, false)
  | .trackReset (.forwarded _) => some (1, 0, true)
  | .endJob (.queue _) => some (1, 0, false)
  | .endJob (.forwarded _) => some (1, 0, true)
  | .amsgArrival m => some (1, 0, !s.toDispatch.contains (.amsg m))
  | .taskDecrement copy job counted => some (1, 0, counted || !s.toDispatch.contains (.decrement copy job))
  | .loadReport chip _ => some (1, 0, chip != s.chip)
  | .packageStealRequest _ => some (1, 0, true)
  | .stolenTaskArrival _ _ => some (1, 0, true)
  | .pageFaultMessage f _ => (s.pkg.pageFaults.find? fun x => x.num == f).bind fun x => fp x.ia
  | .pageMigration page _ => fp page
  | .pageUnmap page => fp page
  | .linkRetraining _ _ _ => some (3, 0, true)
  | .attestationRequest _ => some (5, 0, true)
  | .svnMinimumRaise _ _ => some (5, 0, true)
  | .envelopeModeWrite _ => some (5, 0, true)
  | .thermalModeRequest temp => if temp < 115 then some (5, 0, true) else none
  | .firmwareReplacement (.request _ _) => some (5, 0, true)
  | .tileService k => if (s.tile k).draining then none else some (5, 0, true)
  | .hbmChannelService _ _ => some (5, 0, true)
  | .lpddrChannelService _ _ => some (5, 0, true)
  | .cxlPortService _ _ => some (5, 0, true)
  | .fabricPortService _ .drain => some (5, 0, true)
  | _ => none

/-- The unit that an event asks is being replaced (R297). -/
def State.suspended (s : State) (i : Instr) : Bool :=
  (s.firmwareOf i).any fun x => (Tab.find s.pkg.replacing x.1).any fun w => w.number == x.2.1

/-- A request to a unit that is being replaced is held in arrival order; the unit's own moves wait (R297). -/
def State.holdRequest (s : State) (i : Instr) : State :=
  if (s.firmwareOf i).any (·.2.2) then { s with fwHeld := s.fwHeld ++ [i] } else s

/-- Requests whose unit has resumed are the next to be served, in arrival order (R297). -/
def State.serveHeld (s : State) : State :=
  { s with agenda := (s.fwHeld.filter fun i => !s.suspended i).map Turn.event ++ s.agenda, fwHeld := s.fwHeld.filter s.suspended }

/-- An event happens, unless it has to wait for its unit (R297), for a trap (R269) or for words that are performed in part (R268, R273). -/
def State.eventTurn (run : Instr → State → Outcome) (s : State) (i : Instr) : Outcome :=
  if s.suspended i then .next (s.holdRequest i)
  else if s.trapFirst run i then .next s
  else if !abrupt i && s.cuts run noEngine (run i s) then .next s else run i s

/-- The oldest result of engine e of strand n lands, unless its trap has to wait for words that are performed in part (R268). -/
def State.landTurn (run : Instr → State → Outcome) (s : State) (n : Nat) (e : Engine) : Outcome :=
  let s := { s with focus := n }
  if s.cuts run noEngine (s.land e) then .next s else s.land e

/-- The engine cannot move while nothing of the strand is in flight: it is stopped, or its turn would hold (R48, R73). -/
def State.engineHeld (s : State) (e : Engine) : Bool :=
  let t := s.cur
  if t.stoppedByDeparture e then true
  else if t.overflowRisk e || t.inPart e then false
  else match t.closing[engineIdx e], s.fetchWaits e with
  | some tag, _ => (t.resolve e tag).isNone
  | none, some _ => false
  | none, none =>
    match s.find e with
    | .trap _ => false
    | .meeting => decide (t.walk .s ≤ t.walk e) || t.windowHolds e 1
    | .acquire => decide (t.walk .w ≤ t.walk .l) || t.windowHolds e 1
    | .branch len => !(t.popFor e (t.walk e)).2 || t.windowHolds e len
    | .other len => t.windowHolds e len
    | .atomic len => t.windowHolds e len
    | .own i =>
      let v := view i
      (v.meeting && !decide (t.walk .l = t.walk .s ∧ t.walk .a = t.walk .s ∧ t.walk .w = t.walk .s)) ||
      t.windowHolds e v.len || !t.tokensReady e v.q || (t.departing.isSome && s.wouldDepart i) || s.strandOrder i ||
      t.halfHeld i || t.waitsFor v

/-- The departure of the strand in focus can commit: nothing in flight, and no engine can move (R48). -/
def State.departureSettled (s : State) : Bool :=
  s.cur.flights.isEmpty && s.engineHeld .s && s.engineHeld .l && s.engineHeld .a && s.engineHeld .w

end Sys2Proof.Machine
end

