-- ==== Sys2Proof/Machine/CommandEvents.lean ====
section
/-! DEFINITION. Events of commands: completion (R89), the stamp edge (R92), age promotion (R184), and the timeout of an ECMD
at a full queue (R83). -/

namespace Sys2Proof.Machine

/-- What each kind of command does (R86). -/
def unitOf (kind : Nat) : Unit_ :=
  match kind with
  | 1 => cpyUnit
  | 2 => rowUnit
  | 3 => rowUnit
  | 4 => mmaUnit
  | 5 => mrgUnit
  | 6 => sisectUnit
  | 7 => mskevUnit
  | 8 => epilUnit
  | 9 => collUnit
  | _ => qctlUnit

/-- R89: a running command performs what is left of it and completes; a collective does so on every member at once. One whose publish
was held goes on with it. -/
def execCommandCompletion (ref : CmdRef) (s : State) : Outcome :=
  match s.findCmd ref with
  | none => .next s
  | some c =>
    if c.state = .publishing then .next (s.concludeCommand ref.tile c)
    else if c.state ≠ .running ∨ c.unset ∨ !s.enginesRun ref.tile ∨ laterInOrder (s.tile ref.tile).cmds c then .next s
    else if c.kind = 9 then .next (s.finishColl c)
    else .next (s.completeCommand (unitOf c.kind) ref.tile c)

/-- A queued command ends by a fault without having started (R164): what its checks tell of its completion record stands. -/
def State.refuseCommand (s : State) (k : Nat) (c : Cmd) (f : CmdFault) : State :=
  let r := (unitOf c.kind).check { s := s, k := k, c := c }
  let next := (s.tile k).startNext
  let s := (s.popQueue k c).modTile k fun t => { t with startNext := t.startNext + 1 }
  s.endCommand k { r.c with shadow := [], extent := [], started := next } (some f) false ((unitOf c.kind).record c)

/-- The schedule-miss fault (R92, R473): the command never starts. -/
def State.missStamp (s : State) (k : Nat) (c : Cmd) : State :=
  (s.logDet k 5 true c.id).refuseCommand k c { cause := 3, detail := toBytes 4 c.stamp }

/-- A command ends by a fault that its memory tells (R89, R147): one that has not started is refused, and a collective ends on every
member (R357). -/
def State.failCommand (s : State) (k : Nat) (c : Cmd) (f : CmdFault) : State :=
  match c.state with
  | .queued => s.refuseCommand k c f
  | .publishing => s
  | _ => if c.kind = 9 then s.failColl c f else (Run.fail { s := s, k := k, c := c } f).settleEnd (unitOf c.kind)

/-- A stamped start; one that would have to wait, for a page or for the other members of its collective, misses (R92). -/
def State.startStamped (s : State) (k : Nat) (c : Cmd) : State :=
  let t := (s.modTile k fun t => { t with stampStarts := Tab.put t.stampStarts c.engine s.frame }).beginCommand (unitOf c.kind) k c
  if (t.tile k).cmds.any fun x => x.seq == c.seq && x.state == .queued then s.missStamp k c else t

/-- R92: at its stamp edge a stamped command starts, or takes a schedule-miss fault. The engines of a stopped tile do nothing (R280). -/
def execStampEdge (ref : CmdRef) (s : State) : Outcome :=
  match s.findCmd ref with
  | none => .next s
  | some c =>
    let k := ref.tile
    if c.stamp = 0 ∨ c.state ≠ .queued ∨ !s.enginesRun k then .next s
    else if !c.missed && decide (2 ^ 31 ≤ s.stampLate c) then .next s
    else if s.stampStarts k c && s.stampFirst k c then
      if s.startTurn k c then
        .next (s.startStamped k c)
      else .next s
    else .next (s.missStamp k c)

/-- R184: a copy command that has been eligible for 65,536 FRAME cycles without starting has SLACK 0 from then on. -/
def execCopyAgePromotion (ref : CmdRef) (s : State) : Outcome :=
  match s.findCmd ref with
  | none => .next s
  | some c =>
    match c.eligibleAt with
    | some since =>
      if c.engine = 0 ∧ c.state = .queued ∧ 65536 ≤ (s.frame - since).toNat then .next (s.setCmd ref.tile { c with slackZero := true })
      else .next s
    | none => .next s

/-- S of the strand in focus stands at an ECMD whose queue is full (R83). -/
def State.ecmdFull (s : State) : Bool :=
  match s.find .s with
  | .own (.ecmd _ eng _ _ queue) =>
    let q := s.tileQcw s.here (4 * eng.toNat + queue.toNat)
    q.valid && q.occupancy == q.depth
  | _ => false

/-- R83: S has been held for 4,096 tile cycles at an ECMD whose queue is still full. -/
def execEcmdQueueTimeout (n : Nat) (s : State) : Outcome :=
  let s' := { s with focus := n }
  match s'.cur.ecmdSince with
  | some since =>
    if s'.cur.live ∧ ¬ s'.halted (n / 8) ∧ s'.ecmdFull ∧ 4096 ≤ (s'.tileCycles (n / 8) - since).toNat then
      .next (s'.takeTrap .s { cause := 2, sub := 3 })
    else .next s
  | none => .next s

end Sys2Proof.Machine
end

