-- ==== Sys2Proof/Machine/Staging.lean ====
section
/-! DEFINITION. Where tasks go (R33, R129, R247, R248) and how their leases are made good (R42, R43, R120, R140). -/

namespace Sys2Proof.Machine

/-- Tiles of a cluster. -/
def clusterTiles (c : Nat) : List Nat := (List.range 16).map (16 * c + ·)

/-- Physical number of a cluster (R28). -/
def State.physOf (s : State) (c : Nat) : Nat := s.pkg.clusters.getD c 0

/-- The clusters from which a task's slots are drawn (R248). -/
def State.blockOf (s : State) (t : Task) : List Nat :=
  if t.gang ≤ 16 then [t.cluster]
  else
    let p := s.physOf t.cluster
    (List.range s.pkg.clusters.length).filter fun c => s.physOf c % 4 / 2 == p % 4 / 2 && s.physOf c / 8 == p / 8

/-- The scheduler dispatches to the tile: it is not in service, and no tile of its cluster is offline (R29, R30). -/
def State.dispatchable (s : State) (k : Nat) : Bool :=
  !(s.tile k).draining && !(clusterTiles (k / 16)).any fun i => (s.tile i).offline

/-- Tile k has a valid BARRIER queue (R129). -/
def State.hasBarrier (s : State) (k : Nat) : Bool := let q := s.tileQcw k 29; q.valid && q.kind == 5

/-- READY tasks of a cluster's queue. -/
def State.readyTasks (s : State) (c : Nat) : List (Nat × Task) := s.tasks.filter fun t => t.2.state == .ready && t.2.cluster == c

/-- Level of the oldest new task that waits in a cluster (R54): the one that entered its level first (log 27). -/
def State.oldestLevel (s : State) (c : Nat) : Option Nat :=
  ((s.readyTasks c).foldl (fun b x => match b with
    | none => some x.2
    | some t => if x.2.order < t.order then some x.2 else b) (none : Option Task)).map (·.level)

/-- A ready record that any free slot of its tile may take (R54, R459). -/
def State.claims (s : State) (r : ContRec) : Bool :=
  r.readyAt.isSome && !r.gone && !r.isSnapshot && r.reason != 0x10#8 && (s.task r.task).state == .running &&
    !(decide (1 < (s.task r.task).gang) || r.super)

/-- Records of tile k that come before a new task of its cluster (R54). -/
def State.claimsBefore (s : State) (k : Nat) : List ContRec :=
  (s.tile k).recs.filter fun r => s.claims r && match s.oldestLevel (k / 16) with
    | some l => decide ((s.task r.task).level ≤ l)
    | none => true

/-- Free slots of tile k that a task may take: those reserved to it, and the others beyond what ready records take. -/
def State.usable (s : State) (tid k : Nat) : List Nat :=
  if !s.dispatchable k then []
  else
    let free := ((List.range 8).map (8 * k + ·)).filter fun n => !(s.strand n).live && (s.strand n).task.isNone
    let left := free.drop (s.claimsBefore k).length
    ((List.range 8).map (8 * k + ·)).filter fun n =>
      left.contains n || (!(s.strand n).live && (s.strand n).task == some tid)

/-- The entry with the most slots; the first among equals. -/
def bestTile (xs : List (Nat × List Nat)) : Option (Nat × List Nat) :=
  xs.foldl (fun b x => match b with
    | none => if x.2.isEmpty then none else some x
    | some y => if y.2.length < x.2.length then some x else b) none

/-- Takes the first slot of tile k. -/
def takeSlot (k : Nat) (xs : List (Nat × List Nat)) : List (Nat × List Nat) :=
  xs.map fun x => if x.1 = k then (k, x.2.drop 1) else x

/-- Members one after another on the tile with the most free slots, ties to the lower tile, then the lower slot (R247). -/
def spread : Nat → List (Nat × List Nat) → Option (List Nat)
  | 0, _ => some []
  | n + 1, xs =>
    (bestTile xs).bind fun x => (spread n (takeSlot x.1 xs)).map ((x.2.headD 0) :: ·)

/-- Puts a slot into its place by number. -/
def insertSlot (n : Nat) : List Nat → List Nat
  | [] => [n]
  | m :: ms => if n ≤ m then n :: m :: ms else m :: insertSlot n ms

/-- Slots for n members, the first being rank 0 of a gang when asked: on the lowest tile with a valid BARRIER queue and a
slot, and the others there or above (R129, R247). -/
def State.spreadGang (s : State) (rank0 : Bool) (n : Nat) (xs : List (Nat × List Nat)) : Option (List Nat) :=
  if !rank0 then spread n xs
  else (xs.find? fun x => s.hasBarrier x.1 && !x.2.isEmpty).bind fun b =>
    (spread (n - 1) (takeSlot b.1 (xs.filter fun x => decide (b.1 ≤ x.1)))).map ((b.2.headD 0) :: ·)

/-- Slots that a task may take on each tile of its block. -/
def State.slotsFor (s : State) (tid : Nat) : List (Nat × List Nat) :=
  ((s.blockOf (s.task tid)).flatMap clusterTiles).map fun k => (k, s.usable tid k)

/-- Slots of a new task by rank (R33, R247). -/
def State.placeNew (s : State) (tid : Nat) : Option (List Nat) :=
  let t := s.task tid
  let slots := if t.bound.isEmpty then s.spreadGang (decide (1 < t.gang)) t.gang (s.slotsFor tid)
    else (t.bound.foldl (fun (acc : Option (List Nat)) k => acc.bind fun ns =>
      ((s.usable tid k).find? fun n => !ns.contains n).map fun n => ns ++ [n]) (some []))
  slots.bind fun ns =>
    let ns := ns.foldr insertSlot []
    if t.gang ≤ 1 || s.hasBarrier (ns.headD 0 / 8) then some ns else none

/-- A tile to which members can be bound: its slots that are free now, less the members bound to it, and how many it can take yet. -/
structure BindRoom where
  tile : Nat
  free : Int
  room : Nat
  deriving DecidableEq, Repr, Inhabited

/-- One more member goes to a tile. -/
def BindRoom.take (k : Nat) (xs : List BindRoom) : List BindRoom :=
  xs.map fun x => if x.tile = k then { x with free := x.free - 1, room := x.room - 1 } else x

/-- Members one after another to the tile with the most free slots that can take one of them yet, the lower tile first (R247). -/
def bindSpread : Nat → List BindRoom → Option (List Nat)
  | 0, _ => some []
  | n + 1, xs =>
    let best := (xs.filter fun x => x.room != 0).foldl (fun (b : Option BindRoom) x => match b with
      | none => some x
      | some y => if y.free < x.free then some x else b) none
    best.bind fun x => (bindSpread n (BindRoom.take x.tile xs)).map (x.tile :: ·)

/-- Tiles by rank to which staging binds a task with COPY_IN leases (R42, R247): the tiles with the most free slots, also
beyond the slots free now, up to the eight slots of each. -/
def State.bindTiles (s : State) (tid : Nat) : Option (List Nat) :=
  let t := s.task tid
  let tiles := (s.slotsFor tid).filter fun x => s.dispatchable x.1
  let rooms := tiles.map fun x => (⟨x.1, x.2.length, 8⟩ : BindRoom)
  let picks := if t.gang ≤ 1 then bindSpread 1 rooms
    else
      match (tiles.find? fun x => s.hasBarrier x.1 && !x.2.isEmpty) <|> (tiles.find? fun x => s.hasBarrier x.1) with
      | none => none
      | some b => (bindSpread (t.gang - 1) (BindRoom.take b.1 (rooms.filter fun x => decide (b.1 ≤ x.tile)))).map (b.1 :: ·)
  picks.map fun ks => ks.foldr insertSlot []

/-- The tiles to which staging has bound the task, while they can take it; else it binds it now (R42, R247). -/
def State.bindOnce (s : State) (tid : Nat) : Option (List Nat) :=
  let b := (s.task tid).bound
  if b.isEmpty || b.any fun k => !s.dispatchable k then s.bindTiles tid else some b

/-- The next VA after `lo` at which some valid range begins or ends. -/
def rangeEnd (rs : Vector RangeReg 16) (lo : Nat) : Nat :=
  rs.toList.foldl (fun e r =>
    let b := 0x10000 * wfield r.base 16 41
    let l := 0x10000 * wfield r.limit 16 41 + 0x10000
    if !r.base.getLsbD 0 then e else if lo < b then min e b else if lo < l then min e l else e) (2 ^ 57)

/-- The next IA after `ia` at which the region changes (R121). -/
def State.regionEnd (s : State) (ia : Nat) : Nat :=
  let cuts := [0x100000 * s.tileCount, 0x20000000, 0x100000000, 0x200000000, 0x10000000000, 0x1C000000000, 0x100000000000,
    0x180000000000, 0x200000000000, 0x300000000000]
  2 ^ 47 * (ia / 2 ^ 47) + (cuts.filter fun c => decide (ia % 2 ^ 47 < c)).foldl min (2 ^ 47)

/-- The pieces of a lease: VA, first and last IA; or the first VA that fails (R43). -/
def State.leasePieces (s : State) (rs : Vector RangeReg 16) (write : Bool) : Nat → Nat → Nat → Except Nat (List (Nat × Nat × Nat))
  | 0, lo, _ => .error lo
  | n + 1, lo, hi =>
    if hi ≤ lo then .ok []
    else match s.userByte rs lo write with
      | none => .error lo
      | some a =>
        let len := min (min hi (rangeEnd rs lo) - lo) (s.regionEnd a - a)
        (s.leasePieces rs write n (lo + len) hi).map ((lo, a, a + len - 1) :: ·)

/-- The first address of this package's memory from `a` to `hi` whose page does not fit: no entry that permits the access, or
as `bad` says. -/
def State.firstPage (s : State) (bad : Option Leaf → Bool) : Nat → Nat → Nat → Option Nat
  | 0, _, _ => none
  | n + 1, a, hi =>
    if hi < a then none
    else if bad (s.walk a) then some a
    else match s.walk a with
      | some l => s.firstPage bad n (a / l.size * l.size + l.size) hi
      | none => s.firstPage bad n (a / 0x10000 * 0x10000 + 0x10000) hi

/-- The same over a piece, where it is memory of this package. -/
def State.pagesOf (s : State) (bad : Option Leaf → Bool) (p : Nat × Nat × Nat) : Option Nat :=
  if chipOf p.2.1 = s.chip ∧ s.regionOf p.2.1 = some .memory then
    s.firstPage bad ((p.2.2 - p.2.1) / 0x10000 + 2) (localOf p.2.1) (localOf p.2.2)
  else none

/-- No entry, or one that does not permit a write that the access needs (R135). -/
def pageFaults (write : Bool) (l : Option Leaf) : Bool :=
  match l with
  | some l => write && !l.write
  | none => true

/-- A key entry that staging refuses for a job (R140). -/
def State.keyRefuses (s : State) (job : W16) (l : Option Leaf) : Bool :=
  match l with
  | some l =>
    let e := s.readNum (0x180000800 + 8 * l.key) 8
    l.key != 0 && (!bitAt e 16 || (field e 0 16 != 0xFFFF && field e 0 16 != job.toNat))
  | none => false

/-- A task ends before launch, with its record (R42, R43, R241). -/
def State.endStaging (s : State) (tid result : Nat) (r : FaultRec) : State :=
  let t := s.task tid
  (s.endTask tid result).postRecord { r with source := 0x20, flags := r.flags ||| 1, task := t.id, job := t.job }

/-- No reserved field is set, and no valid range ends before it begins (R118, R120). -/
def rangeBlockOk (rs : Vector RangeReg 16) : Bool :=
  rs.toList.all fun r => rangeOk 0x100 r.base && rangeOk 0x110 r.limit && rangeOk 0x120 r.offset &&
    !(r.base.getLsbD 0 && decide (wfield r.limit 16 41 < wfield r.base 16 41))

/-- COPY_IN leases of a task. -/
def Task.fills (t : Task) : List Lease := t.leases.filter fun l => l.mode == 1#2

/-- COPY_IN destinations that other tasks hold on tile k: slice offset and length (R42). -/
def State.heldOn (s : State) (tid k : Nat) : List (Nat × Nat) :=
  s.tasks.flatMap fun t =>
    if t.1 ≠ tid ∧ t.2.bound.contains k ∧ t.2.state != .done ∧ t.2.state != .retiring ∧ t.2.state != .staging then
      t.2.fills.map fun l => (l.sliceOff * 64, l.length)
    else []

/-- The task takes a lease reference and becomes READY (R42); one that was restaged after a steal keeps its place (R250). -/
def State.makeReady (s : State) (tid : Nat) (extents : List (Nat × Nat × Bool)) (bound : List Nat) : State :=
  let t := s.task tid
  let s := s.modTask tid fun t =>
    { t with extents := extents, bound := bound, leaseRef := Config.leaseRefAt s.steps, stolen := false }
  (if t.stolen then s else s.enterLevel tid t.level).setStatus tid .ready 0

/-- A COPY_IN lease is copied into the slice of tile k (R42). -/
def State.fillSlice (s : State) (k : Nat) (l : Lease) (ps : List (Nat × Nat × Nat)) : State :=
  s.perform (s.sliceBase k + l.sliceOff * 64) (ps.flatMap fun p => s.readIA p.2.1 (p.2.2 - p.2.1 + 1))

/-- Staging of the COPY_IN leases: the binding, the checks on each tile, the copies (R42, R147), for which a stopped tile's port waits
(R280). -/
def State.stageCopies (s : State) (tid : Nat) (extents : List (Nat × Nat × Bool)) (fills : List (Lease × List (Nat × Nat × Nat))) : State :=
  if fills.isEmpty then s.makeReady tid extents []
  else match s.bindOnce tid with
    | none => s
    | some bound =>
      let s := s.modTask tid fun t => { t with bound := bound }
      let tiles := bound.eraseDups
      let clash := fills.find? fun f => tiles.any fun k => s.tileProtected k (0x100000 * k + f.1.sliceOff * 64) f.1.length
      let bad := fills.findSome? fun f => f.2.findSome? fun p =>
        (s.uncorrectable p.2.1 (p.2.2 - p.2.1 + 1)).map fun u => (f.1.va, u)
      match clash, bad with
      | some f, _ => s.endStaging tid 5 { cause := 9, sub := 1, source := 0x20, addr := f.1.va }
      | none, some (va, u) =>
        s.endStaging tid 5 { cause := 0xA, source := 0x20, addr := va, detail := unitDetail u }
      | none, none =>
        if (tiles.any s.halted) || fills.any fun f => tiles.any fun k => touches (s.heldOn tid k) (f.1.sliceOff * 64) f.1.length then s
        else (tiles.foldl (fun s k => fills.foldl (fun s f => s.fillSlice k f.1 f.2) s) s).makeReady tid extents bound

/-- Every lease translated, or the first VA that fails (R43). -/
def State.translateLeases (s : State) (rs : Vector RangeReg 16) : List Lease → Except Nat (List (Lease × List (Nat × Nat × Nat)))
  | [] => .ok []
  | l :: ls => do
    let ps ← s.leasePieces rs (l.mode == 3) 512 l.va.toNat (l.va.toNat + l.length)
    (s.translateLeases rs ls).map ((l, ps) :: ·)

/-- Staging (R42, R43, R120, R135, R140): the range block, the translation, the pages, the keys, the copies. A page fault is
raised and the task stays; so it does while a tile or a slice range that it needs is taken. -/
def State.stage (s : State) (tid : Nat) : State :=
  let t := s.task tid
  if s.pageWaits t.rangePtr 384 false then s.awaitPage t.rangePtr 384 false t.job (.staging tid)
  else
    let rs := rangeBlock (s.readIA t.rangePtr 384)
    if !rangeBlockOk rs then s.endStaging tid 1 (recordFault 5 t.rangePtr t.job t.id true)
    else match s.translateLeases rs t.leases with
      | .error va => s.endStaging tid 5 { cause := 4, source := 0x20, addr := BitVec.ofNat 64 va }
      | .ok ls =>
        let fault := ls.findSome? fun l => l.2.findSome? fun p =>
          (s.pagesOf (pageFaults (l.1.mode == 3)) p).map fun a => (a, l.1.mode == 3#2)
        match fault with
        | some (a, w) => s.raiseFault a w t.job (.staging tid)
        | none =>
          let pins := ls.filter fun l => l.1.mode != 1#2
          match pins.findSome? fun l => l.2.findSome? fun p =>
              (s.pagesOf (s.keyRefuses t.job) p).map fun a => p.1 + (a - localOf p.2.1) with
          | some va => s.endStaging tid 2 { cause := 4, source := 0x20, addr := BitVec.ofNat 64 va }
          | none =>
            let extents := pins.flatMap fun l => l.2.map fun p => (p.2.1, p.2.2, l.1.mode == 3#2)
            s.stageCopies tid extents (ls.filter fun l => l.1.mode == 1#2)

/-- R42: every lease is made good; the task takes a lease reference and becomes READY. -/
def execStagingComplete (task : Nat) (s : State) : Outcome :=
  .next (if (s.task task).state = .staging then s.stage task else s)

end Sys2Proof.Machine
end

