-- ==== Sys2Proof/Machine/Preempt.lean ====
section
/-! DEFINITION. Pre-emption of a task under SAVE or DISCARD (R164, R217, R218, R252, R459). -/

namespace Sys2Proof.Machine

/-- The commands of a task, with their tiles. -/
def State.commandsOf (s : State) (tid : Nat) : List (Nat × Cmd) :=
  s.tiles.flatMap fun x => (x.2.cmds.filter fun c => c.task == tid).map fun c => (x.1, c)

/-- Commands of a member that a pre-emption has stopped, in the order of its progress entries. -/
def State.stoppedOf (s : State) (tid rank : Nat) : List Cmd :=
  ((s.commandsOf tid).filter fun x => x.2.rank == rank && x.2.state == .stopped).map (·.2)

/-- A member stands in an idempotent region of a task under DISCARD, at user level (R252). -/
def State.inRegion (s : State) (t : Task) (m : Member) : Bool :=
  t.discards && match m.slot with
    | some n => (s.strand n).live && (s.strand n).snapshot.isSome && !(s.strand n).super
    | none => false

/-- The key of a command in the list that a pre-emption carries: its tile and number. -/
def cmdKey (k : Nat) (c : Cmd) : Nat := 2 ^ 32 * k + c.seq

/-- A running command stops at an element boundary and publishes what it has written (R164). -/
def State.stopCommand (s : State) (progress : List (Nat × Nat)) (k : Nat) (c : Cmd) : State :=
  let u := unitOf c.kind
  let limit := (progress.find? fun p => p.1 == cmdKey k c).elim 0 (·.2)
  let r := u.stop limit { s := s, k := k, c := c }
  let r := match r.s.blockedWrite r.c.shadow with
    | some b => r.fail (r.c.publishFault 0xA b.1 (unitDetail b))
    | none => r
  match r.fault with
  | some _ => r.settleEnd u
  | none =>
    let c := r.c
    let own := c.shadow.filter fun w => chipOf w.1 == r.s.chip
    let acks := (List.range (r.s.awayChips c.shadow).length).map (r.s.msgNext + ·)
    (r.s.publish k c c.shadow).setCmd k
      { c with state := .stopped, shadow := [], acks := c.acks ++ acks
               before := c.before ++ own.map fun w => (w.1, r.s.readIA w.1 w.2.length) }

/-- The tile of a member. -/
def Member.tile (m : Member) : Option Nat :=
  match m.record, m.slot with
  | some (k, _), _ => some k
  | none, some n => some (n / 8)
  | none, none => none

/-- The entries that a stopped EPIL drains. -/
def Cmd.visRegion (t : Tile) (c : Cmd) : List Nat :=
  if c.kind ≠ 8 then []
  else (List.range c.epM).flatMap fun i => (List.range c.epN).map fun j => t.bankIndex true (c.num 0x5C 2 + 64 * i + j)

/-- The image of a stopped MMA or EPIL of tile k goes to the tile's SPILL queue (R217, R368); `none` when it has no room there. -/
def State.saveImage (s : State) (tid k : Nat) (c : Cmd) : Option State :=
  let t := s.task tid
  let tile := s.tile k
  let here (rank : Nat) : Bool := match (t.members.getD rank {}).tile with
    | some k' => k' == k
    | none => true
  let xs := ((t.touched.filter fun x => here x.1).map (·.2) ++ c.visRegion tile).eraseDups
  let entry (x : Nat) : Nat × Bool × Nat × AW := (c.rank, decide (x < 4096) != tile.visBank, x % 4096, Tab.get 0 tile.banks x)
  let q := s.tileQcw k 30
  let g := Config.imageGranules xs.length
  if !q.valid || decide (q.depth < q.occupancy + g) then none
  else
    let r : ContRec :=
      { num := s.freshRecord k, granule := q.tail, granules := g, spilled := true, gone := false, task := tid, rank := c.rank
        slot := c.slot, engine := .s, reason := 0, key := 0, dest := none, dep := 0, readyAt := none, backoffAt := none, super := false
        stamp := s.frame, block := (default : WalkBlock), livemask := 0, error := none, backoff := 0, polled := false, trapSave := none
        q := 0, len := 1, pcAt := 0, vas := [], past := true, passed := false, isSnapshot := true, progress := [], flagWaitSince := none, unpassed := none }
    let s := s.modTask tid fun t => { t with image := t.image ++ xs.map entry }
    let s := s.modTile k fun t => { t with recs := t.recs ++ [r], recNext := t.recNext + 1 }
    some (s.poke (qcwTable k 30 + 20) (toBytes 4 ((q.tail + g) % 2 ^ 32)))

/-- The record of a departed member takes the progress entries of its stopped commands: it is written again at the tail of the
continuation queue (R459); `none` when the queue lacks the granules. -/
def State.rewriteRecord (s : State) (k num : Nat) (cmds : List Cmd) : Option State :=
  match (s.tile k).recs.find? fun r => r.num == num with
  | none => some s
  | some r =>
    if cmds.isEmpty then some s
    else
      let bs := s.recBytes k r
      let live := liveOf bs
      let len := 64 + 8 * popCount 32 (wfield live 0 32) + 256 * popCount 32 (wfield live 32 32) + 128
      let body := patch (bs.take len) 0x1D (toBytes 1 (fieldAt bs 0x1D 1 / 2 * 2 + 1))
      let new := padTo64 (body ++ (cmds.flatMap progressEntry ++ List.replicate 128 0).take 128)
      if s.contFree k < new.length / 64 + r.block.granules then none
      else
        let waits := (s.tile (num % 1024)).waitTable
        let swaps := (s.tile k).swaps
        let s := s.dropRecord k num
        let s := s.pushRecord k new { r with num := num, granules := r.block.granules, spilled := false, progress := cmds.map (·.seq) }
        let s := s.modTile (num % 1024) fun t => { t with waitTable := waits }
        some (s.modTile k fun t => { t with swaps := swaps })

/-- Records of departed members that have no entry yet for their stopped commands. A departed handler's record stays as it is: the
handler goes on (R269). -/
def State.rewriteMembers (s : State) (tid : Nat) : Option State :=
  (s.task tid).members.zipIdx.foldl (fun acc m => acc.bind fun s =>
    match m.1.record with
    | none => some s
    | some (k, num) =>
      let cmds := s.stoppedOf tid m.2
      match (s.tile k).recs.find? fun r => r.num == num with
      | some r => if r.super ∨ r.progress.length = cmds.length then some s else s.rewriteRecord k num cmds
      | none => some s) (some s)

/-- A strand in an idempotent region is dropped: its snapshot becomes its record (R252, R383). -/
def State.dropToSnapshot (s : State) (n : Nat) : State :=
  let s := { s with focus := n }
  match s.cur.snapshot with
  | none => s
  | some (snap, num) =>
    let k := n / 8
    let old := s.cur
    let s := s.modCur fun t =>
      ({ t with regs := snap.regs, pcs := snap.pcs, tokens := snap.tokens, livemask := snap.livemask, flights := [], departing := none }).withBlock
        snap.block
    let bs := s.contBytes 0x10 0 snap.livemask 0 []
    let rank := old.rank
    let tid := s.curTaskNum
    let s := s.discardCommands fun c => c.task == tid && c.rank == rank
    match (s.tile k).recs.find? fun r => r.num == num with
    | none => s
    | some r =>
      let r' := { s.newRecord .s 0x10 0 0 none with
        num := num, granule := r.granule, granules := r.granules, spilled := r.spilled, block := snap.block, livemask := snap.livemask }
      let s := s.writeGranules (s.recQueue k r) r.granule bs (bs.length / 64)
      let s := s.modTile k fun t => { t with recs := t.recs.map fun x => if x.num = num then r' else x }
      let s := (s.freeSlot n false).modMember tid rank fun m => { m with slot := none, record := some (k, num) }
      ((s.count k 5).traceOther k 3 (n % 8) 2).endFailed tid

/-- A member that stands in its slot is pre-empted at its word boundary, unless a handler runs in it, its tile is stopped, or a word is
performed in part (R151, R252, R269). What is in flight lands first, and a departure that can commit does so. -/
def State.preemptMember (s : State) (tid rank : Nat) : State :=
  match ((s.task tid).members.getD rank {}).slot with
  | none => s
  | some n =>
    let x := s.strand n
    if !x.live || x.super || x.trapSave.isSome || s.halted (n / 8) || !s.commitTurn n || !x.partL.isEmpty || x.partW != 0 then s
    else if s.inRegion (s.task tid) ((s.task tid).members.getD rank {}) then s.dropToSnapshot n
    else
      let (f, trapped) := { s with focus := n }.landFlights x.flights.length
      if trapped then f
      else match x.departing with
      | some d => if f.departureSettled then f.commitDeparture d else f.preemptRecord (f.stoppedOf tid rank)
      | none => f.preemptRecord (f.stoppedOf tid rank)

/-- The record of a member is that of a departed handler (R272). -/
def State.inHandler (s : State) (m : Member) : Bool :=
  m.record.elim false fun x => (s.tile x.1).recs.any fun r => r.num == x.2 && r.super

/-- A gang's reservation of its empty slots ends (R33). A departed handler keeps its slot (R272). -/
def State.endReservation (s : State) (tid : Nat) : State :=
  let kept := (s.task tid).members.filterMap fun m => if s.inHandler m then m.slot else none
  let free (x : Nat × Strand) : Nat × Strand :=
    if x.2.task = some tid ∧ !x.2.live ∧ !kept.contains x.1 then (x.1, { x.2 with task := none }) else x
  let leave (m : Member) : Member := if m.record.isSome && !s.inHandler m then { m with slot := none } else m
  { s with strands := s.strands.map free }.modTask tid fun t => { t with gathered := [], members := t.members.map leave }

/-- Commands of dropped members end, the task's others stop, and the images of its array commands are written; `none` while a
command cannot be stopped (R217, R252). -/
def State.stopCommands (s : State) (tid : Nat) (progress : List (Nat × Nat)) : Option State :=
  let t := s.task tid
  let drops := (List.range t.members.length).filter fun r => s.inRegion t (t.members.getD r {})
  let s := s.discardCommands fun c => c.task == tid && drops.contains c.rank
  let run := (s.commandsOf tid).filter fun x => x.2.state == .running
  if run.any (fun x => x.2.kind == 9) ||
      (List.range t.members.length).any fun r => decide (8 < (run.filter fun x => x.2.rank == r).length) then none
  else
    let s := run.foldl (fun s x => s.stopCommand progress x.1 x.2) s
    let mmas := run.filterMap fun x => (s.findCmd ⟨x.1, x.2.seq⟩).bind fun c => if c.state == .stopped && (c.kind == 4 || c.kind == 8) then some (x.1, c) else none
    mmas.foldl (fun acc x => acc.bind fun s => s.saveImage tid x.1 x.2) (some s)

/-- The first part of a pre-emption: the commands stop, departed members' records are written, the gang's reservation ends (R252,
R459). -/
def State.withdraw (s : State) (tid : Nat) (progress : List (Nat × Nat)) : Option State :=
  (s.stopCommands tid progress).bind fun s => (s.rewriteMembers tid).map fun (s : State) => (s.setStatus tid .preempted 0).endReservation tid

/-- Ranks of a task's members in the order of their slots: the departures of one cycle are written in that order (R61). -/
def Task.ranksBySlot (t : Task) : List Nat := (sortBy (fun m => m.1.slot.getD 4096) t.members.zipIdx).map (·.2)

/-- Every member that still stands in a slot is pre-empted, where it can be. -/
def State.preemptMembers (s : State) (tid : Nat) : State :=
  (s.task tid).ranksBySlot.foldl (fun s r => s.preemptMember tid r) s

/-- R252: the scheduler pre-empts a task that it has chosen (R246, R30); a member that could not be is tried again, with the commands
that it has started since. `progress` names the element at which a running MMA stops, by command. -/
def execPreemption (task : Nat) (progress : List (Nat × Nat)) (s : State) : Outcome :=
  let t := s.task task
  if t.state = .running ∧ t.preempting then
    match s.withdraw task progress with
    | some s => .next (s.preemptMembers task)
    | none => .next s
  else if t.state = .preempted then .next (((s.stopCommands task progress).map fun (s : State) => s.preemptMembers task).getD s)
  else .next s

/-- R241, R252: every member has its record or has ended, none has a departed handler's (R269), and the task moves to READY. -/
def execPreemptionComplete (task : Nat) (s : State) : Outcome :=
  let t := s.task task
  if t.state ≠ .preempted ∨ !(t.members.all fun m => (m.record.isSome && !s.inHandler m) || m.ended) then .next s
  else match s.rewriteMembers task with
    | none => .next s
    | some s =>
      let s := s.modTask task fun t => { t with preempting := false }
      .next ((s.enterLevel task t.level).setStatus task .ready 0)

end Sys2Proof.Machine
end

