-- ==== Sys2Proof/Machine/Scheduler.lean ====
section
/-! DEFINITION. The scheduler's events (R33, R54, R55, R58, R73, R211, R243, R246 to R251, R276): dispatch, relaunch, ageing,
stealing, retirement. -/

namespace Sys2Proof.Machine

/-- A member's strand at launch (R38). -/
def State.launchMember (s : State) (tid rank n : Nat) : State :=
  let t := s.task tid
  let gang : W64 := BitVec.ofNat 64 (rank + 2 ^ 16 * t.gang)
  let regs : Regs :=
    { s := ((((((Vector.replicate 32 (0 : W64)).set 1 t.args[0]).set 2 t.args[1]).set 3 t.args[2]).set 4 t.args[3]).set 5 gang).set 6
        (BitVec.ofNat 64 t.copy) }
  s.modStrand n fun x =>
    { live := true, task := some tid, rank := rank, regs := regs, pcs := Vector.replicate 4 t.entry, window := t.window
      ranges := s.loadRanges t, trapCause := x.trapCause, trapPc := x.trapPc, trapAddr := x.trapAddr }

/-- The task runs: RUNNING, with the time of its dispatch (R241, R246). Its records' progress entries are restarted (R459). -/
def State.startTask (s : State) (tid : Nat) : State :=
  let again (r : ContRec) : ContRec := if r.task = tid then { r with progress := [] } else r
  let s := { s with tiles := s.tiles.map fun (t : Nat × Tile) => (t.1, { t.2 with recs := t.2.recs.map again }) }
  let s := s.modTask tid fun t => { t with hasRun := true, dispatchedAt := s.orderNext, gathered := [], stolen := false }
  { s with orderNext := s.orderNext + 1 }.setStatus tid .running 0

/-- A new task is launched on its slots, rank by rank (R33, R38); its barrier word lies on rank 0's tile (R129). -/
def State.launch (s : State) (tid : Nat) (slots : List Nat) : State :=
  let s := (s.endReservation tid).modTask tid fun t =>
    { t with members := slots.map fun n => { slot := some n }, barGen := 0, touched := [] }
  (slots.zipIdx.foldl (fun s x => s.launchMember tid x.2 x.1) (s.placeBar tid (slots.headD 0 / 8))).startTask tid

/-- Puts a waiting swap into its place by departure (R211). -/
def insertSwap (w : Nat × Nat) : List (Nat × Nat) → List (Nat × Nat)
  | [] => [w]
  | x :: xs => if w.2 < x.2 then w :: x :: xs else x :: insertSwap w xs

/-- A record, its commands and its waits move to another tile k' (R55): it keeps its number and its place in the ready order. On its own
tile a spilled record stays in the spill area, from which it is relaunched (R59). -/
def State.moveRecord (s : State) (k num k' : Nat) : State :=
  match (s.tile k).recs.find? fun r => r.num == num with
  | none => s
  | some r =>
    if k = k' then s
    else
      let bs := (s.recBytes k r).take (64 * (r.granules - r.block.granules))
      let waits := (s.tile (num % 1024)).waitTable
      let swaps := (s.tile k).swaps.filter fun w => w.1 == num
      let cmds := s.stoppedOf r.task r.rank
      let s := (s.dropRecord k num).pushRecord k' bs { r with granules := r.block.granules, spilled := false }
      let s := s.modTile (num % 1024) fun t => { t with waitTable := waits }
      let s := s.modTile k fun t => { t with cmds := t.cmds.filter fun c => !cmds.contains c }
      s.modTile k' fun t =>
        { t with
          swaps := swaps.foldl (fun xs w => insertSwap w xs) t.swaps
          cmds := t.cmds ++ cmds.mapIdx fun i c => { c with seq := t.cmdNext + i }
          cmdNext := t.cmdNext + cmds.length }

/-- How a member of a task that has run is placed again (R55): its rank, record and tile, and whether it goes back into a slot
at once, moves freely, or only needs a slot kept. -/
structure Replace where
  rank : Nat
  tile : Nat
  num : Nat
  run : Bool
  free : Bool
  deriving DecidableEq, Repr, Inhabited

/-- The members of a task that has run, as R55 places them. -/
def State.replaces (s : State) (tid : Nat) : List Replace :=
  let t := s.task tid
  t.members.zipIdx.filterMap fun m =>
    match m.1.record with
    | none => none
    | some (k, num) =>
      let pre := match (s.tile k).recs.find? fun r => r.num == num with
        | some r => r.reason == 0x10#8
        | none => false
      some ⟨m.2, k, num, pre, (pre || t.stolen) && t.bound.isEmpty⟩

/-- Slots for the members that stay on their tiles: those of a gang, and those of a task with COPY_IN leases that run again. -/
def State.fixedSlots (s : State) (tid : Nat) (xs : List Replace) : Option (List (Replace × Nat)) :=
  xs.foldl (fun acc x => acc.bind fun ys =>
    ((s.usable tid x.tile).find? fun n => !(ys.any fun y => y.2 == n)).map fun n => ys ++ [(x, n)]) (some [])

/-- The assignment of a task that has run, if it can be made now (R33, R55, R129, R170, R247); and the slots that a gang reserves for
members that have ended. -/
def State.placeAgain (s : State) (tid : Nat) : Option (List (Replace × Nat) × List Nat) :=

  let t := s.task tid
  let xs := s.replaces tid
  let gang := decide (1 < t.gang)
  (s.fixedSlots tid (xs.filter fun x => !x.free && (x.run || gang))).bind fun fixed =>
    let free := xs.filter (·.free)
    let left := (s.slotsFor tid).map fun x => (x.1, x.2.filter fun n => !(fixed.any fun y => y.2 == n))
    let rank0 := gang && (free.head?.elim false fun x => x.rank == 0)
    let above := match fixed.find? fun y => y.1.rank == 0 with
      | some y => left.filter fun x => decide (y.2 / 8 ≤ x.1)
      | none => left
    (s.spreadGang rank0 free.length above).bind fun ns =>
      let all := fixed ++ free.zip ns
      let moved := all.filter fun y => decide (y.2 / 8 ≠ y.1.tile)
      let size (y : Replace × Nat) : Nat :=
        match (s.tile y.1.tile).recs.find? fun r => r.num == y.1.num with
        | some r => r.granules
        | none => 0
      if moved.all fun y => !s.outstanding tid y.1.rank &&
          decide ((((moved.filter fun z => z.2 / 8 == y.2 / 8).map size).sum) ≤ s.contFree (y.2 / 8)) then
        let rest := left.map fun x => (x.1, x.2.filter fun n => !(all.any fun y => y.2 == n))
        if gang then (spread (t.gang - all.length) rest).map fun more => (all, more) else some (all, [])
      else none

/-- A member of a task that has run takes its place: its record moves, and goes back into the slot when it is a pre-emption's
record; the slot of a departed gang member is kept for it (R33, R55, R459). -/
def State.putAgain (s : State) (tid : Nat) (y : Replace × Nat) : State :=
  let n := y.2
  let k := n / 8
  let gang := decide (1 < (s.task tid).gang)
  let s := s.moveRecord y.1.tile y.1.num k
  let s := s.modMember tid y.1.rank fun m => { m with record := some (k, y.1.num), slot := if gang then some n else none }
  let s := if y.1.rank = 0 ∧ k ≠ y.1.tile then s.placeBar tid k else s
  match (s.tile k).recs.find? fun r => r.num == y.1.num with
  | none => s
  | some r =>
    if y.1.run then { s.relaunchInto n k r with focus := s.focus }
    else
      let s := if gang then s.modStrand n fun x => { x with task := some tid } else s
      s.modTile k fun t => { t with recs := t.recs.map fun x => if x.num = r.num then { x with slot := if gang then n % 8 else x.slot } else x }

/-- The slots that a gang at the head of its level reserves now (R247, R248): on each tile where members must stand, one for each of
them; for the others one for rank 0, when it is among them, on the lowest tile with a BARRIER queue and a slot, and slots from rank
0's tile up; while no such tile has a slot, only slots that are above every tile that rank 0 may take (log 69); and one anywhere for
each member that has ended. -/
def State.gatherSlots (s : State) (tid : Nat) : List Nat :=
  let t := s.task tid
  let xs := if t.hasRun then s.replaces tid else []
  let fixed := xs.filter fun x => !x.free
  let need := if t.hasRun then fixed.map (·.tile) else t.bound
  let stay := need.eraseDups.flatMap fun k => (s.usable tid k).take (need.count k)
  let left := (s.slotsFor tid).map fun x => (x.1, x.2.filter fun n => !stay.contains n)
  let from_ (b : Nat) : List Nat := (left.filter fun x => decide (b ≤ x.1)).flatMap (·.2)
  let move := xs.length - fixed.length
  let n := if t.hasRun then move else t.gang - need.length
  let rank0 := if t.hasRun then (xs.find? (·.free)).elim false (·.rank == 0) else need.isEmpty
  let mine := if !rank0 then (from_ ((fixed.find? fun x => x.rank == 0).elim 0 (·.tile))).take n
    else match left.find? fun x => s.hasBarrier x.1 && !x.2.isEmpty with
    | some b => (from_ b.1).take n
    | none => match (left.filter fun x => s.hasBarrier x.1).getLast? with
      | some b => (from_ b.1).take (n - 1)
      | none => []
  stay ++ mine ++ ((from_ 0).filter fun x => !mine.contains x).take (t.gang - need.length - n)

/-- A gang at the head of its level reserves slots of its block as they free (R248). -/
def State.gather (s : State) (tid : Nat) : State :=
  let take := s.gatherSlots tid
  let s := take.foldl (fun s n => s.modStrand n fun x => { x with task := some tid }) (s.endReservation tid)
  s.modTask tid fun t => { t with gathered := take }

/-- The head of each level of a cluster's queue. -/
def State.levelHeads (s : State) (c : Nat) : List (Nat × Task) :=
  (List.range 4).filterMap fun l =>
    ((s.readyTasks c).filter fun x => x.2.level == l).foldl (fun (b : Option (Nat × Task)) x => match b with
      | none => some x
      | some y => if x.2.order < y.2.order then some x else b) none

/-- The gangs other than `tid` that stand at the head of a level and whose block overlaps its own (R248). -/
def State.rivals (s : State) (tid : Nat) : List (Nat × Task) :=
  let b := s.blockOf (s.task tid)
  ((List.range s.pkg.clusters.length).flatMap s.levelHeads).filter fun x =>
    x.1 != tid && decide (1 < x.2.gang) && (s.blockOf x.2).any fun c => b.contains c

/-- An older gang of an overlapping block reserves (R248). -/
def State.gathering (s : State) (tid : Nat) : Bool := (s.rivals tid).any fun x => decide (x.2.order < (s.task tid).order)

/-- The gang, the oldest of its block, takes over the reserving (R248). -/
def State.takeGather (s : State) (tid : Nat) : State :=
  ((s.rivals tid).foldl (fun s x => if x.2.gathered.isEmpty then s else s.endReservation x.1) s).gather tid

/-- A task whose range block lies on a page that has to be waited for is not launched (R120, R135): the fault is raised. -/
def State.rangesFault (s : State) (tid : Nat) : State :=
  s.awaitPage (s.task tid).rangePtr 384 false (s.task tid).job (.staging tid)

/-- READY tasks of a cluster from the head of the highest level (R247). -/
def insertTask (x : Nat × Task) : List (Nat × Task) → List (Nat × Task)
  | [] => [x]
  | y :: ys => if x.2.level < y.2.level ∨ (x.2.level = y.2.level ∧ x.2.order ≤ y.2.order) then x :: y :: ys else y :: insertTask x ys

/-- The ready queues of a cluster in dispatch order. -/
def State.queueOf (s : State) (c : Nat) : List (Nat × Task) := (s.readyTasks c).foldr insertTask []

/-- The first task of the queue that can be placed is placed; a gang at the head of its level that cannot reserves slots (R247,
R248). -/
def State.dispatchFrom (s : State) : List Nat → List (Nat × Task) → State
  | _, [] => s
  | seen, (tid, t) :: rest =>
    let gathers := decide (1 < t.gang) && !seen.contains t.level && !s.gathering tid
    if s.rangesWait t then (s.rangesFault tid).dispatchFrom (t.level :: seen) rest
    else if t.hasRun then
      match s.placeAgain tid with
      | some (ys, more) =>
        let s := ys.foldl (fun s y => s.putAgain tid y) ((s.endReservation tid).modTask tid fun t =>
          { t with touched := t.touched.filter fun x => !(ys.any fun y => y.1.rank == x.1 && y.2 / 8 != y.1.tile) })
        let s := more.foldl (fun s n => s.modStrand n fun x => { x with task := some tid }) s
        (s.startTask tid).maybeRetire tid
      | none => (if gathers then s.takeGather tid else s).dispatchFrom (t.level :: seen) rest
    else
      match s.placeNew tid with
      | some slots => s.launch tid slots
      | none => (if gathers then s.takeGather tid else s).dispatchFrom (t.level :: seen) rest

/-- R247: the free slots of a cluster take the first task that can use them, and its members are placed. -/
def execDispatch (cluster : Nat) (s : State) : Outcome :=
  if s.pkg.power != .on || s.pkg.packageError then .next s else .next (s.dispatchFrom [] (s.queueOf cluster))

/-- Record r is relaunched before record y (R54, R61): by level, then in ready order, then by STAMP, then by age in the queue. -/
def State.relaunchesBefore (s : State) (r y : ContRec) : Bool :=
  let key (r : ContRec) : List Nat := [(s.task r.task).level, r.readyAt.getD 0, r.stamp.toNat, r.num / 1024]
  decide (key r < key y)

/-- The record that a free slot takes next: its own member's, or the first of the highest level (R33, R54, R61). A departed handler
goes on while its task's pre-emption waits for it (R269). -/
def State.nextRecord (s : State) (n : Nat) : Option ContRec :=
  let x := s.strand n
  let recs : List ContRec := match x.task with
    | some tid => (s.tile (n / 8)).recs.filter fun (r : ContRec) =>
        r.task == tid && r.slot == n % 8 && r.readyAt.isSome && !r.gone && !r.isSnapshot && r.reason != 0x10#8 &&
          ((s.task tid).state == .running || ((s.task tid).state == .preempted && r.super)) && (decide (1 < (s.task tid).gang) || r.super)
    | none => s.claimsBefore (n / 8)
  recs.foldl (fun b r => match b with
    | none => some r
    | some y => if s.relaunchesBefore r y then some r else b) none

/-- R54: a free slot relaunches the ready record that comes first. -/
def execRelaunch (n : Nat) (s : State) : Outcome :=
  let k := n / 8
  if (s.strand n).live || s.halted k || s.pkg.packageError || s.pkg.power != .on || (s.tile k).draining then .next s
  else match s.nextRecord n with
  | some r => .next (if s.rangesWait (s.task r.task) then s.rangesFault r.task else s.relaunchInto n k r)
  | none => .next s

/-- R246: a task that has stood at its level longer than AGE_LIMIT moves to the tail of the next higher level. -/
def execPriorityAgeing (task : Nat) (s : State) : Outcome :=
  let t := s.task task
  if t.state = .ready ∧ 0 < t.level ∧ s.pkg.schedAge.toNat < (s.frame - t.enteredAt).toNat then .next (s.enterLevel task (t.level - 1))
  else .next s

/-- A task finds a free slot of its cluster that it can use (R246, R247): one of those that it would be placed in now, or, of a gang at
the head of its level, one that it would reserve. -/
def State.canUse (s : State) (tid : Nat) : Bool :=
  let t := s.task tid
  let mine (n : Nat) : Bool := n / 8 / 16 == t.cluster
  match if t.hasRun then (s.placeAgain tid).map fun p => p.1.map (·.2) ++ p.2 else s.placeNew tid with
  | some ns => ns.isEmpty || ns.any mine
  | none => decide (1 < t.gang) && (s.levelHeads t.cluster).any (fun x => x.1 == tid) && !s.gathering tid &&
      (s.gatherSlots tid).any fun n => mine n && (s.strand n).task.isNone

/-- The running task of a cluster that is pre-empted first: lowest priority, then most recently dispatched (R246). -/
def State.victim (s : State) (c : Nat) : Option (Nat × Task) :=
  (s.tasks.filter fun x => x.2.state == .running && x.2.cluster == c && !x.2.preempting).foldl (fun b x => match b with
    | none => some x
    | some y => if y.2.level < x.2.level ∨ (y.2.level = x.2.level ∧ y.2.dispatchedAt < x.2.dispatchedAt) then some x else b) none

/-- R246: a level-0 task that has waited AGE_LIMIT and finds no slot that it can use has one running task pre-empted. -/
def execAgePreemption (task : Nat) (s : State) : Outcome :=
  let t := s.task task
  if t.state = .ready ∧ t.level = 0 ∧ s.pkg.schedAge.toNat ≤ (s.frame - t.agedAt).toNat then
    let s := s.modTask task fun t => { t with agedAt := s.frame }
    if s.canUse task then .next s
    else match s.victim t.cluster with
      | some (v, x) => .next (if 0 < x.level then s.modTask v fun t => { t with preempting := true } else s)
      | none => .next s
  else .next s

/-- Mesh neighbours of a cluster in the package (R7, R250). -/
def State.adjacent (s : State) (c : Nat) : List Nat :=
  let p := s.physOf c
  (List.range s.pkg.clusters.length).filter fun d =>
    let q := s.physOf d
    (q % 4 == p % 4 && (q / 4 == p / 4 + 1 || q / 4 + 1 == p / 4)) || (q / 4 == p / 4 && (q % 4 == p % 4 + 1 || q % 4 + 1 == p % 4))

/-- A record of a running task that is ready (R54, R250, R459). -/
def State.recordReady (s : State) (r : ContRec) : Bool :=
  r.readyAt.isSome && !r.gone && !r.isSnapshot && r.reason != 0x10#8 && (s.task r.task).state == .running

/-- A cluster is idle (R250): a free slot, no ready task or record, no gang that reserves. -/
def State.idle (s : State) (c : Nat) : Bool :=
  (s.readyTasks c).isEmpty &&
    ((clusterTiles c).any fun k => s.dispatchable k && (List.range 8).any fun j =>
      !(s.strand (8 * k + j)).live && (s.strand (8 * k + j)).task.isNone) &&
    !((clusterTiles c).any fun k => (s.tile k).recs.any s.recordReady) &&
    !(s.tasks.any fun x => x.2.state == .ready && !x.2.gathered.isEmpty && (s.blockOf x.2).contains c)

/-- The first task of the highest nonempty level that a thief may take (R250, R251). -/
def firstOf (ok : Nat × Task → Bool) (q : List (Nat × Task)) : Option (Nat × Task) :=
  match q with
  | [] => none
  | x :: _ => q.find? fun y => y.2.level == x.2.level && ok y

/-- A task that a cluster of the package may steal (R250). -/
def stealable (x : Nat × Task) : Bool := !x.2.pinned && !(x.2.hasRun && x.2.copiesIn)

/-- R250: an idle cluster steals the oldest unpinned ready task from its busiest neighbour. -/
def execClusterSteal (cluster : Nat) (s : State) : Outcome :=
  let recent := match Tab.find s.pkg.stoleAt cluster with
    | some f => decide ((s.frame - f).toNat < 64)
    | none => false
  if !s.pkg.stealCtl.getLsbD 16 || recent || !s.idle cluster || decide (s.pkg.clusters.length ≤ cluster) then .next s
  else
    let busiest := (s.adjacent cluster).foldl (fun (b : Option (Nat × Nat)) c =>
      let n := (s.readyTasks c).length
      if n = 0 then b else match b with
        | none => some (c, n)
        | some y => if y.2 < n then some (c, n) else b) none
    match busiest.bind fun b => firstOf stealable (s.queueOf b.1) with
    | none => .next s
    | some (tid, t) =>
      let s := (s.endReservation tid).modPkg fun p => { p with stoleAt := Tab.put p.stoleAt cluster s.frame }
      let s := s.modTask tid fun t => { t with cluster := cluster, stolen := true }
      .next (if t.copiesIn then (s.modTask tid fun t => { t with bound := [], extents := [] }).setStatus tid .staging 0 else s)

/-- Chips that are torus neighbours of the package (R20, R251). -/
def State.neighbours (s : State) : List Nat :=
  let c := s.chip
  let nx := wfield s.pkg.coord 15 3
  let ny := wfield s.pkg.coord 18 3
  let nz := wfield s.pkg.coord 21 3
  let around (x n : Nat) : List Nat := [(x + 1) % (n + 1), (x + n) % (n + 1)]
  (((around (c % 8) nx).map fun x => c / 8 * 8 + x) ++ ((around (c / 8 % 8) ny).map fun y => c / 64 * 64 + 8 * y + c % 8) ++
    ((around (c / 64) nz).map fun z => 64 * z + c % 64)).eraseDups.filter (· != c)

/-- Ready tasks of the package (R251). -/
def State.load (s : State) : Nat := (s.tasks.filter fun t => t.2.state == .ready).length

/-- R251: once per microsecond the package sends its load to each neighbour; a neighbour's report that exceeds the package's own
load by more than the threshold makes it ask the most loaded neighbour for a task. -/
def execLoadReport (chip load : Nat) (s : State) : Outcome :=
  if !s.pkg.stealCtl.getLsbD 17 then .next s
  else if chip = s.chip then .next (s.neighbours.foldl (fun s c => s.emit (.loadReport c s.load)) s)
  else if !s.neighbours.contains chip then .next s
  else
    let s := s.modPkg fun p => { p with loads := Tab.put p.loads chip load }
    let worst := s.pkg.loads.foldl (fun (b : Option (Nat × Nat)) x => match b with
      | none => some x
      | some y => if y.2 < x.2 then some x else b) none
    match worst with
    | some (c, n) => .next (if s.load + field s.pkg.stealCtl.toNat 0 16 < n then s.emit (.stealRequest c) else s)
    | none => .next s

/-- R251: the package gives its oldest unpinned ready task that has never run from its highest nonempty level, or refuses. -/
def execPackageStealRequest (chip : Nat) (s : State) : Outcome :=
  let q := (s.tasks.filter fun t => t.2.state == .ready).foldr insertTask []
  match firstOf (fun x => !x.2.pinned && !x.2.hasRun) q with
  | none => .next (s.emit (.stealRefused chip))
  | some (tid, t) =>
    let j := s.job t.job
    let m : TaskMsg :=
      { record := t.record, job := t.job, seed := t.seed, cluster := t.cluster, fromChip := s.chip
        track := j.track, errq := j.errq, counted := t.counted, succs := t.succs }
    let s := s.endReservation tid
    .next ({ s with tasks := Tab.del s.tasks tid }.emit (.stolenTask chip m t.id))

/-- R251: a stolen record enters STAGING here, with its TASK_ID, JOB_ID and SEED. -/
def execStolenTaskArrival (m : TaskMsg) (taskId : W32) (s : State) : Outcome :=
  let s := s.createJob m.job m.track m.seed m.errq
  let copy := s.copyIA s.taskNext
  let tid := s.taskNext
  let t := { Task.ofRecord m.record copy taskId m.job m.seed with
    counted := m.counted, succs := m.succs, cluster := s.chooseCluster (BitVec.ofNat 8 (fieldAt m.record 0x0F 1)) m.cluster }
  let s := { s with tasks := Tab.put s.tasks tid t, taskNext := tid + 1 }.writeCopy tid 0 m.record
  .next ((s.enterLevel tid t.prio).setStatus tid .staging 0)

/-- A completion record (R243). -/
def State.completionBytes (s : State) (t : Task) : List Byte :=
  wordBytes t.complTag ++ toBytes 4 t.id.toNat ++ toBytes 2 t.job.toNat ++ toBytes 2 0 ++ toBytes 8 t.copy ++ wordBytes s.frame ++
    List.replicate 32 0

/-- The completion record is written, or its queue is invalid; `none` while the queue is full, or its tile stopped (R243, R280,
R472). -/
def State.complete (s : State) (tid : Nat) : Option State :=
  let t := s.task tid
  if t.complPtr = 0 then some s
  else if chipOf t.complPtr ≠ s.chip then some (s.emit (.completion (chipOf t.complPtr) t.complPtr (s.completionBytes t)))
  else
    let q := s.qcwAt t.complPtr
    if !(q.valid && q.kind == 4 && q.elem == 64) then some (s.postRecord (recordFault 6 t.complPtr t.job t.id false))
    else if q.occupancy < q.depth ∧ !s.queueShut t.complPtr then some (s.enqueueAt t.complPtr (s.completionBytes t))
    else none

/-- The successors' decrements in array order (R35, R243). -/
def State.decrementSuccessors (s : State) (tid : Nat) : State :=
  let t := s.task tid
  (t.succs.getD (indexes8 (s.readIA t.succPtr (8 * t.succCount)))).foldl (fun s a =>
    if chipOf a = s.chip then s.decrement a t.job else s.emit (.decrement (chipOf a) a t.job false)) s
where
  /-- The 64-bit numbers of a byte list. -/
  indexes8 (bs : List Byte) : List Nat := (List.range (bs.length / 8)).map fun i => fieldAt bs (8 * i) 8

/-- R243: once every write of the task is performed it writes its completion record, decrements its successors and becomes DONE;
a failed write ends it instead (R470). -/
def execTaskRetirement (task : Nat) (s : State) : Outcome :=
  let t := s.task task
  if t.state ≠ .retiring ∨ (List.range t.members.length).any (fun r => s.outstanding task r) ∨ s.failuresLeft task then .next s
  else match t.failure with
  | some (c, _) => .next (s.endTask task (resultOf c))
  | none =>
    if t.succs.isNone && s.pageWaits t.succPtr (8 * t.succCount) false then .next (s.awaitPage t.succPtr (8 * t.succCount) false t.job (.staging task))
    else match (if t.complPtr ≠ 0 ∧ chipOf t.complPtr = s.chip then s.queueWaits t.complPtr else none), s.complete task with
    | some (a, n), _ => .next (s.awaitPage a n true t.job (.staging task))
    | none, none => .next s
    | none, some s =>
      let s := (s.decrementSuccessors task).endTask task 0
      .next (if t.counted then s.bumpSlot (s.job t.job).track 8 1 else s)

/-- The departure of the strand in slot n can commit. -/
def State.commitsNow (s : State) (n : Nat) : Bool :=
  let s := { s with focus := n }
  s.cur.departing.isSome && s.cur.live && !s.halted (n / 8) && s.departureSettled

/-- R48: the departure of a strand commits once its engines have come to rest, after those of lower slots of its tile that have
(R61). -/
def execDepartureCommit (n : Nat) (s : State) : Outcome :=
  match (s.strand n).departing with
  | some d =>
    if s.commitsNow n ∧ s.commitTurn n ∧ (List.range (n % 8)).all (fun j => !s.commitsNow (n / 8 * 8 + j)) then .next ({ s with focus := n }.commitDeparture d)
    else .next s
  | none => .next s

/-- R58: a record on the back-off list becomes ready when its time has passed. -/
def execBackoffExpiry (tile rec : Nat) (s : State) : Outcome :=
  match (s.tile tile).recs.find? fun r => r.num == rec && !r.gone with
  | some r => match r.backoffAt with
    | some due => .next (if (s.tileCycles tile - due).toNat < 2 ^ 63 then s.readyRecord tile rec else s)
    | none => .next s
  | none => .next s

/-- R211: the first waiting ACCSWAP exchanges the roles once no MMA or EPIL runs and every one before it has completed. -/
def execAccswapAtQuiescence (tile : Nat) (s : State) : Outcome :=
  match (s.tile tile).swaps with
  | [] => .next s
  | (num, _) :: rest =>
    match (s.tile tile).recs.find? fun r => r.num == num with
    | none => .next (s.modTile tile fun t => { t with swaps := rest })
    | some r =>
      if !s.quiescent tile r.task r.rank || s.halted tile then .next s
      else .next (((s.swapBanks tile).modTile tile fun t => { t with swaps := rest }).readyRecord tile num)

/-- Engine e of the strand in focus holds on a token, a branch outcome, the window, at a meeting word, or with its half of a MARK or
FENCE for the other half (R73, R155, R311, R372). -/
def State.ringHeld (s : State) (e : Engine) : Bool :=
  let t := s.cur
  if t.closing[engineIdx e].isSome then true
  else match s.find e with
  | .trap _ => false
  | .meeting => decide (t.walk .s ≤ t.walk e)
  | .acquire => false
  | .branch _ => true
  | .other len => t.windowHolds e len
  | .atomic len => t.windowHolds e len
  | .own i => let v := view i; v.meeting || t.windowHolds e v.len || !t.tokensReady e v.q || t.halfHeld i

/-- R73: when no engine can go on, the strand traps RING_DEADLOCK on the engine with the smallest walk count. Of several, the model
takes the first of S, L, A and W: the rule does not say (DESIGN CHOICE, log 10). -/
def execRingDeadlockDetect (n : Nat) (s : State) : Outcome :=
  let s' := { s with focus := n }
  let t := s'.cur
  let engines : List Engine := [.s, .l, .a, .w]
  if !t.live || s.halted (n / 8) || t.departing.isSome || !t.flights.isEmpty ||
      !(engines.all fun e => s'.engineHeld e && s'.ringHeld e) then .next s
  else
    let e := engines.foldl (fun b e => if t.walk e < t.walk b then e else b) .s
    .next (s'.takeTrap e { cause := 2, sub := 2 })

/-- R276: of a job's held error records the first whose queue has room is posted, and one whose queue is no longer valid is dropped;
records of one queue keep their order. -/
def execHeldErrorRecordPost (job : W16) (s : State) : Outcome :=
  let held := (s.job job).heldErrors
  let goes (h : Nat × List Byte) : Bool :=
    let q := s.qcwAt h.1
    !s.pageWaits h.1 32 true && (!errorQueue q || (decide (q.occupancy < q.depth) && !s.queueShut h.1))
  match held.find? goes with
  | none => .next (match held.findSome? fun h => s.queueWaits h.1 with
    | some (a, n) => s.awaitPage a n true job (.controller 16)
    | none => s)
  | some h =>
    let s := s.modJob job fun j => { j with heldErrors := held.erase h }
    .next (if errorQueue (s.qcwAt h.1) then s.enqueueAt h.1 h.2 else s.dropError)

/-- R346: an AMSG's record becomes a counted task of the sender's job, or is refused. One that arrives after its job has ended creates
the job again: the model's choice, R236 does not say (log 19). -/
def State.takeAmsg (s : State) (m : TaskMsg) : State :=
  let s := s.createJob m.job m.track m.seed m.errq
  s.enqueue m.record m.job m.seed m.cluster true

/-- The message at the head of those that have reached the controller (R39). -/
def State.controllerTurn (s : State) (m : DispatchMsg) : Bool :=
  match s.toDispatch.find? fun x => match x with
    | .decrement _ _ => false
    | _ => true with
  | some x => x == m
  | none => false

/-- R346: the controller takes an AMSG of another package, or the next one of its own. -/
def execAmsgArrival (m : TaskMsg) (s : State) : Outcome :=
  if m.fromChip ≠ s.chip then .next (s.takeAmsg m)
  else if s.controllerTurn (.amsg m) then .next ({ s with toDispatch := s.toDispatch.erase (.amsg m) }.takeAmsg m)
  else .next s

/-- The first decrement of this package on its way to the controller. -/
def State.nextDecrement (s : State) : Option DispatchMsg :=
  s.toDispatch.find? fun x => match x with
    | .decrement _ _ => true
    | _ => false

/-- R242, R420: a decrement is performed or refused, in the order in which they reach the controller. One of this package is taken from
those on their way, when it is the first of them; a TDEC of another package counts in CON. -/
def execTaskDecrement (copy : Nat) (job : W16) (counted : Bool) (s : State) : Outcome :=
  if chipOf copy ≠ s.chip then .next s
  else if counted then .next ((s.decrement copy job).bumpSlot (s.job job).track 8 1)
  else if s.nextDecrement = some (.decrement copy job) then
    .next ({ s with toDispatch := s.toDispatch.erase (.decrement copy job) }.decrement copy job)
  else if s.toDispatch.contains (.decrement copy job) then .next s
  else .next (s.decrement copy job)

end Sys2Proof.Machine
end

