-- ==== Sys2Proof/Machine/Fabric.lean ====
section
/-! DEFINITION. Messages between tiles, homes and packages (R148, R254, R261, R342, R370, R373 to R380, R401, R470): each is
performed at its home and answered. A message of another package comes as the event's argument. -/

namespace Sys2Proof.Machine

/-- The order in which messages of one strand are performed (R152, R159, R373, R401): a release after every earlier access; a store or
atomic after what every earlier release comes after, and after an earlier one of the same byte. Loads and waits are not ordered behind
writes. -/
def State.mayPerform (s : State) (m : Msg) : Bool :=
  let mine := s.before m
  let (a, n) := m.body.span
  if m.origin.chip ≠ s.chip ∨ ¬ m.body.ofW then true
  else if m.body.release then !s.releaseWaits m
  else !(mine.any fun x => s.releaseWaits x || overlaps a n x.body.span.1 x.body.span.2)

/-- The port of tile k lets what a key stands for in: the tile moves, and nothing held there came before it (R280). -/
def State.portFree (s : State) (k key : Nat) : Bool := !s.halted k && (s.ports.find? fun x => x.1 == k).all fun x => x.2 == key

/-- The port of tile k lets a message in. -/
def State.portOpen (s : State) (k : Nat) (m : Msg) : Bool := s.portFree k m.key

/-- The port of a stopped tile holds a message that has arrived (R280). -/
def State.portHolds (s : State) (k : Nat) (m : Msg) : State :=
  let s := if s.msgs.contains m then s else { s with msgs := s.msgs ++ [m] }
  if s.ports.any fun x => x.2 == m.key then s else { s with ports := s.ports ++ [(k, m.key)] }

/-- A message of this package or its ports is taken up. -/
def State.takeUp (s : State) (m : Msg) : State :=
  { s with msgs := s.msgs.erase m, ports := s.ports.filter fun x => x.2 != m.key }.leavePage (false, m.key)

/-- An answer goes back to where the message came from, under its number; to another package it can be lost (R261). -/
def State.respond (s : State) (m : Msg) (b : MsgBody) : State :=
  if m.origin.chip = s.chip then s.send s.chip m.origin b
  else
    let s := if b.counted then s.bumpSlot m.origin.track 0 1 else s
    ({ s with unacked := s.unacked ++ [⟨m.num, m.origin, b⟩] } : State).emit (.message m.origin.chip ⟨m.num, m.origin, b⟩)

/-- A message held in the outbound order leaves for its home package (R159, R254). -/
def State.forward (s : State) (m : Msg) : State :=
  let s := if m.body.counted then s.bumpSlot m.origin.track 0 1 else s
  { s.emit (.message (chipOf m.body.span.1) m) with msgs := s.msgs.erase m, unacked := s.unacked ++ [m] }

/-- DETAIL of a loss record (R275): the message's kind, a port, the chip that it goes to, its tracking slot. -/
def lossDetail (m : Msg) (port dest : Nat) : List Byte :=
  toBytes 1 m.body.lossKind ++ toBytes 1 port ++ toBytes 2 dest ++ toBytes 1 m.origin.track

/-- The fabric interface of a package in error answers a request with a loss (R277), and the request is taken up; of a posted write
nothing comes back. Which port it came by is free (log 52). -/
def State.answerLoss (s : State) (m : Msg) : State :=
  let s := s.takeUp m
  let f : Failure := ⟨0xB, 0, lossDetail m (Config.lossPort s.steps % 96) s.chip⟩
  let back (b : MsgBody) : State := s.emit (.message m.origin.chip ⟨m.num, m.origin, b⟩)
  match m.body with
  | .load _ _ l => back (.reply l 0 (some f) 0)
  | .loadRest _ _ l _ => back (.reply l 0 (some f) 0)
  | .amo _ _ _ _ _ true => back (.reply none 0 (some f) 0)
  | .wait _ _ => back (.answer false 0 (some f) none (0, 0, 3, 0))
  | _ => s

/-- The checks that another tile's slice makes itself (R342, R370 steps 5 and 6), and the hole behind the last slice (R28): a cause
and a subcode. -/
def State.homeCheck (s : State) (m : Msg) (write : Bool) : Option (Nat × Nat) :=
  let (a, n) := m.body.span
  let k := localOf a / 0x100000
  if (s.region (localOf a)).isNone ∨ (s.region (localOf a + (n - 1))).isNone then some (4, 0)
  else if s.region (localOf a) ≠ some .slice ∨ (m.origin.chip = s.chip ∧ m.origin.tile = k) then none
  else if !m.origin.super && touches (s.liveRegions k) (localOf a) n then some (4, 0)
  else if write && s.inFilledSlot k (localOf a) n then some (5, 1)
  else none

/-- A load performed away from its strand logs PENDING_READ there (R162). -/
def State.noteRemoteRead (s : State) (m : Msg) (a n : Nat) : State :=
  if m.origin.chip ≠ s.chip then s
  else match (s.tile (s.recTile m.origin.record)).recs.find? fun r => r.num == m.origin.record with
    | some r => s.noteRead m.origin.tile false r.pcAt a n
    | none => s

/-- The first access of a misaligned load or store, when its checks hold and more is to follow (R151): what is left of the message
waits at its home. -/
def State.firstAccess (s : State) (m : Msg) : Option State :=
  let left (b : MsgBody) (s : State) : State := { s.takeUp m with msgs := (s.takeUp m).msgs ++ [⟨m.num, m.origin, b⟩] }
  let (a, n) := m.body.span
  let stores (b : Byte) (bs : List Byte) : Option State :=
    if bs.isEmpty ∨ (s.homeCheck m true).isSome ∨ (s.blockedUnit a n false).isSome then none
    else some (left (.storeRest (a + 1) bs) (s.store a [b]))
  let loads (got : List Byte) (lane : Option Nat) : Option State :=
    if n ≤ got.length + 1 ∨ (s.homeCheck m false).isSome ∨ (s.uncorrectable a n).isSome then none
    else some (left (.loadRest a n lane (got ++ s.readLocal (localOf a + got.length) 1)) (s.noteRemoteRead m (a + got.length) 1))
  match m.body with
  | .store _ (b :: bs) => if oneAccess a n then none else stores b bs
  | .storeRest _ (b :: bs) => stores b bs
  | .load _ _ lane => if oneAccess a n then none else loads [] lane
  | .loadRest _ _ lane got => loads got lane
  | _ => none

/-- What a message reaches that has to be waited for: a page (R135, R136). -/
def State.waitsAt (s : State) (m : Msg) : Option (Nat × Nat) := m.body.spans.find? fun x => s.pageWaits x.1 x.2 m.body.writes

/-- The stopped tile, or the tile with messages held before this one, whose port a message reaches (R280). -/
def State.shutPort (s : State) (m : Msg) : Option Nat :=
  (m.body.spans.find? fun x => s.region (localOf x.1) == some .slice && !s.portOpen (localOf x.1 / 0x100000) m).map fun x => localOf x.1 / 0x100000

/-- A remote FLWAIT whose test comes after the starts that are due at its pip's tile (R88). -/
def State.startsFirst (s : State) (m : Msg) : Bool :=
  match m.body with
  | .wait ia (.pip _ _) => s.region (localOf ia) == some .slice && s.startDue (localOf ia / 0x100000)
  | _ => false

/-- A message reaches its home: it may have to leave the package, to wait for an earlier one, for its tile (R280), for its page
(R135), or behind an earlier access held there (R136). A misaligned one performs one access at a time (R151). Once taken it counts in CON, when it comes from another
package. -/
def State.atHome (s : State) (m : Msg) (k : State → State) : State :=
  if !(s.msgs.contains m || m.origin.chip != s.chip) || !s.mayPerform m then s
  else if chipOf m.body.span.1 ≠ s.chip then (if s.msgs.contains m then s.forward m else s)
  else if s.pkg.packageError && m.origin.chip != s.chip then s.answerLoss m
  else if s.startsFirst m then { s with msgs := if s.msgs.contains m then s.msgs else s.msgs ++ [m] }
  else match s.shutPort m, s.waitsAt m with
  | some k, _ => s.portHolds k m
  | none, some (a, n) =>
    let s := (if s.msgs.contains m then s else { s with msgs := s.msgs ++ [m] }).queueAtPage (false, m.key) a n
    s.awaitPage a n m.body.writes m.origin.job (.message m.key)
  | none, none => match m.body.spans.find? fun x => s.behindHeld (false, m.key) x.1 x.2, s.firstAccess m with
    | some x, _ => (if s.msgs.contains m then s else { s with msgs := s.msgs ++ [m] }).queueAtPage (false, m.key) x.1 x.2
    | none, some s => s
    | none, none =>
      let s := s.takeUp m
      k (if m.origin.chip ≠ s.chip ∧ m.body.counted then s.bumpSlot m.origin.track 8 1 else s)

/-- A posted write fails at its home (R147, R342, R370, R470): its fault record, once the task's earlier writes are performed (R168),
and the report to the issuing tile. -/
def State.failPosted (s : State) (m : Msg) (cause sub : Nat) (detail : List Byte) : State :=
  let a := m.body.span.1
  let r : FaultRec :=
    { cause := cause, sub := sub, source := 3, flags := 5 + (if m.origin.super then 2 else 0), addr := BitVec.ofNat 64 a
      task := m.origin.taskId, job := m.origin.job, tile := m.origin.tile, detail := detail }
  (if m.origin.chip = s.chip then s.postLater m.origin.task r else s.postRecord r).respond m (.failed cause sub a detail)

/-- A posted write is checked and performed, or fails; a package that sent it gets its acknowledgement (R343). -/
def State.performPosted (s : State) (m : Msg) (rmw : Bool) (k : State → State × FlagSet) : State :=
  let (a, n) := m.body.span
  let done := match s.homeCheck m true, s.blockedUnit a n rmw with
    | some (c, sub), _ => s.failPosted m c sub []
    | none, some u => s.failPosted m 0xA 0 (unitDetail u)
    | none, none =>
      let (s, f) := k s
      if m.origin.chip = s.chip then s.setFlags m.origin.tile f else s.respond m (.ack f)
  done.settle

/-- The last or only access of a posted store at its home (R370). -/
def State.storeAtHome (s : State) (m : Msg) (ia : Nat) (bs : List Byte) : State :=
  s.performPosted m false fun s =>
    let s := s.store ia bs
    (if m.origin.chip = s.chip then s.closeCleared (localOf ia / 0x100000) m.origin.task (localOf ia) bs.length else s, 0)

/-- Another package's publish at this home chip, performed whole and acknowledged (R161); one that reaches beyond the last slice (R28), or
that an uncorrectable unit or an offline slice keeps from being performed (R29, R147), fails. -/
def State.publishAtHome (s : State) (m : Msg) (ws : List (Nat × List Byte)) : State :=
  match ws.find? fun w => (s.region (localOf w.1)).isNone || (s.region (localOf w.1 + (w.2.length - 1))).isNone, s.blockedWrite ws with
  | some w, _ => s.respond m (.failed 4 0 w.1 [])
  | none, some u => s.respond m (.failed 0xA 0 u.1 (unitDetail u))
  | none, none => (s.publishHere ws).respond m (.ack 0) |>.settle

/-- R370: a posted store is checked and performed at its home, or fails and is reported. A publish is performed too (R161). -/
def execRemoteStoreArrival (m : Msg) (s : State) : Outcome :=
  match m.body with
  | .store ia bs => .next (s.atHome m fun s => s.storeAtHome m ia bs)
  | .storeRest ia bs => .next (s.atHome m fun s => s.storeAtHome m ia bs)
  | .publish ws => .next (s.atHome m fun s => s.publishAtHome m ws)
  | _ => .next s

/-- R342, R344: a posted atomic is checked and performed at its home. -/
def execRemoteAmoArrival (m : Msg) (s : State) : Outcome :=
  match m.body with
  | .amo op n ia v c false => .next (s.atHome m fun s => s.performPosted m true fun s =>
      let (s, _, f) := s.amoPerform op n ia v c
      (s, f))
  | .xadd ia fmt v => .next (s.atHome m fun s => s.performPosted m true fun s =>
      match xaddValue fmt.toNat v with
      | some x => (s.xaPerform ia x, 0)
      | none => (s, 0))
  | _ => .next s

/-- R373: a posted FLADD is applied at the home pip in arrival order. -/
def execRemoteFladdArrival (m : Msg) (s : State) : Outcome :=
  match m.body with
  | .fladd ia v _ => .next (s.atHome m fun s => s.performPosted m true fun s =>
      (s.addPip ia v (m.origin.tile, m.origin.chip, 0, m.origin.slot), 0))
  | _ => .next s

/-- R401: a posted PUTF fills the future at its home. -/
def execRemotePutfArrival (m : Msg) (s : State) : Outcome :=
  match m.body with
  | .putf ia v _ => .next (s.atHome m fun s => s.performPosted m false fun s => (s.store ia (futureBytes v), 0))
  | _ => .next s

/-- R379, R341: a load or a returning atomic is performed at its home, and a reply is sent; one that fails completes its event
with error. -/
def execRemoteLoadRequest (m : Msg) (s : State) : Outcome :=
  let (a, n) := m.body.span
  let request (s : State) (write : Bool) (lane : Option Nat) (k : State → State × W64 × FlagSet) : State :=
    match s.homeCheck m write, s.uncorrectable a n with
    | some (c, sub), _ => s.respond m (.reply lane 0 (some ⟨c, sub, []⟩) 0)
    | none, some u => s.respond m (.reply lane 0 (some ⟨0xA, 0, unitDetail u⟩) 0)
    | none, none =>
      let (s, v, f) := k s
      s.respond m (.reply lane v none f)
  match m.body with
  | .load ia n lane => .next (s.atHome m fun s => request s false lane fun s =>
      (s.noteRemoteRead m ia n, BitVec.ofNat 64 (s.readNum ia n), 0))
  | .loadRest ia n lane got => .next (s.atHome m fun s => request s false lane fun s =>
      (s.noteRemoteRead m (ia + got.length) (n - got.length),
        BitVec.ofNat 64 (ofBytes (got ++ s.readLocal (localOf ia + got.length) (n - got.length))), 0))
  | .amo op n ia v c true => .next (s.atHome m fun s => (request s true none fun s =>
      let (s, old, f) := (s.noteRemoteRead m ia n).amoPerform op n ia v c
      (s, amoReturn op n old, f)).settle)
  | _ => .next s

/-- The kind of memory under a chip-local address: 0 HBM, 1 the second tier, 2 CXL; as HBM where its walk faults (R130). -/
def State.memoryKind (s : State) (a : Nat) : Nat :=
  match s.walk a with
  | some l => if l.frame < 0x100000000000 then 0 else if l.frame < 0x200000000000 then 1 else 2
  | none => 0

/-- Watches that each home of a kind of memory holds, and how many homes there are (R56). -/
def State.watchHomes (s : State) (kind : Nat) : Nat × Nat :=
  match kind with
  | 0 => (4096, s.pkg.hbmStacks)
  | 1 => (1024, s.pkg.lpddrChannels)
  | _ => (1024, popCount 4 s.pkg.cxlLinked.toNat)

/-- The home has room for one more watch (R56): the tile's wait table; or a stack, channel or port, which of them serves an address
being free. -/
def State.watchRoom (s : State) (a : Nat) : Bool :=
  let k := localOf a / 0x100000
  if s.region (localOf a) = some .slice then
    decide ((s.tile k).waitTable.length + (s.watches.filter fun w => s.region (localOf w.ia) == some .slice && localOf w.ia / 0x100000 == k).length < 256)
  else
    let kind := s.memoryKind (localOf a)
    let n := (s.watches.filter fun w => s.region (localOf w.ia) != some .slice && s.memoryKind (localOf w.ia) == kind).length
    let (each, homes) := s.watchHomes kind
    decide (n < each) || (decide (n < each * homes) && !Config.watchRefused s.steps)

/-- R56, R375, R378: the home tests a remote wait; a passing test is performed there, a failing one leaves a watch or is
refused. -/
def execRemoteWaitRequest (m : Msg) (s : State) : Outcome :=
  match m.body with
  | .wait ia test => .next (s.atHome m fun s =>
      let answer (passed : Bool) (v : W64) (e : Option Failure) (at_ : Option W64) : MsgBody := .answer passed v e at_ (s.setterOf ia)
      match s.homeCheck m false, s.uncorrectable ia m.body.span.2 with
      | some (c, sub), _ => s.respond m (answer false 0 (some ⟨c, sub, []⟩) none)
      | none, some u => s.respond m (answer false 0 (some ⟨0xA, 0, unitDetail u⟩) none)
      | none, none =>
        let s := match test with
          | .future => s.noteRemoteRead m ia 16
          | .pip _ _ => s
        match s.waitTest ia test with
        | some (v, wr) =>
          let s := match wr with
            | some bs => s.perform ia bs
            | none => s
          s.respond m (answer true v none none)
        | none =>
          if s.watchRoom ia then { s with watches := s.watches ++ [⟨ia, m.origin, test, s.pkg.cycles⟩] }
          else s.respond m (answer false 0 none (some s.pkg.cycles)))
  | _ => .next s

/-- A request of this package that an answer from another one closes (R64, R343). -/
def State.answers (s : State) (m : Msg) : Bool := s.unacked.any fun x => x.num == m.num && x.origin == m.origin

/-- The answer that a package awaits: one on its way here, or from another package (R148). -/
def State.awaited (s : State) (m : Msg) : Bool := m.origin.chip == s.chip && (s.msgs.contains m || s.answers m)

/-- An answer reaches the tile of its record; the port of a stopped tile holds it (R280). -/
def State.atTile (s : State) (m : Msg) (k : Outcome) : Outcome :=
  if !s.awaited m then .next s
  else if s.portOpen (s.recTile m.origin.record) m then k
  else .next (s.portHolds (s.recTile m.origin.record) m)

/-- The answer is taken, and the request that it answers is no longer open. A reply of another package counts in CON (R254),
but not the error that tells of its loss (R261). -/
def State.takeAnswer (s : State) (m : Msg) : State :=
  let away := s.answers m
  let s := s.takeUp m
  if !away then s
  else
    let s := { s with unacked := s.unacked.filter fun x => !(x.num == m.num && x.origin == m.origin) }
    match m.body with
    | .reply _ _ (some f) _ => if f.cause = 0xB then s else s.bumpSlot m.origin.track 8 1
    | b => if b.counted then s.bumpSlot m.origin.track 8 1 else s

/-- Changes a record of the package, wherever it lies. -/
def State.modRecord (s : State) (num : Nat) (f : ContRec → ContRec) : State :=
  s.modTile (s.recTile num) fun t => { t with recs := t.recs.map fun r => if r.num = num then f r else r }

/-- An open record of a departed strand. -/
def State.openRecord (s : State) (num : Nat) : Option ContRec :=
  (s.tile (s.recTile num)).recs.find? fun r => r.num == num && !r.gone && r.readyAt.isNone

/-- Writes a value into the image of a record's destination (R54). -/
def State.writeImage (s : State) (r : ContRec) (lane : Option Nat) (v : W64) : State :=
  let k := s.recTile r.num
  let live := liveOf (s.recBytes k r)
  match r.dest, lane with
  | some (.v d), some l => s.patchRecord k r (imageOffset live (.v d) + 4 * l) (toBytes 4 (wfield v 0 32))
  | some (.s d), _ => s.patchRecord k r (imageOffset live (.s d)) (wordBytes v)
  | _, _ => s

/-- One event of a record has come: DEP falls, and at zero the record is ready (R54). -/
def State.eventCame (s : State) (num : Nat) : State :=
  match s.openRecord num with
  | none => s
  | some r =>
    let k := s.recTile num
    if r.dep ≤ 1 then s.readyRecord k num
    else (s.patchRecord k r 0x1E (toBytes 1 (r.dep - 1))).modRecord num fun r => { r with dep := r.dep - 1 }

/-- A record's event completes with error: the strand traps at the word when it is relaunched (R147, R261). -/
def State.eventFailed (s : State) (num : Nat) (lane : Option Nat) (e : Failure) : State :=
  s.modRecord num fun r =>
    if r.error.isSome then r
    else { r with error := some (e, ((r.vas.find? fun x => x.1 == lane.getD 0).map (·.2)).getD 0) }

/-- R54: a reply writes the record image and brings DEP toward zero; an acknowledgement closes a posted write, or a command's
publish (R161). -/
def execReplyArrival (m : Msg) (s : State) : Outcome :=
  s.atTile m (match m.body with
  | .reply lane v err f =>
    let s := (s.takeAnswer m).setFlags m.origin.tile f
    match s.openRecord m.origin.record with
    | none => .next s
    | some r =>
      let s := match err with
        | some e => s.eventFailed r.num lane e
        | none => s.writeImage r lane v
      .next (s.eventCame r.num)
  | .ack f => .next (((s.takeAnswer m).setFlags m.origin.tile f).ackPublish m.num).settle
  | _ => .next s)

/-- Since when the wait of a record has failed: the test that it failed first, or the home's (R284). -/
def State.waitSince (s : State) (r : ContRec) (failedAt : Option W64) : Option (W64 × Nat) :=
  if r.reason ≠ 5#8 then none
  else r.flagWaitSince <|> failedAt.map fun c => (c - (s.tile (s.recTile r.num)).cycleOff, r.key.toNat % 0x200 / 8)

/-- The home's test passed for a record (R56): it resumes past the word, with VALUE in its image. `failedAt` and `who` are the home's
(R284). A word
executed again from the back-off list has succeeded when its home's first test passed (R58). -/
def State.waitPassed (s : State) (r : ContRec) (v : W64) (failedAt : Option W64) (who : Nat × Nat × Nat × Nat) : State :=
  let k := s.recTile r.num
  let since := s.waitSince r failedAt
  let s := s.writeImage r none v
  let s := s.patchRecord k r (4 * (engineIdx r.engine).val) (toBytes 4 (r.pcAt + BitVec.ofNat 32 r.len).toNat)
  let s := s.modRecord r.num fun r => { r with passed := true, backoff := 0 }
  let s := if r.polled && failedAt.isNone && r.dest.isSome then s.logDet k 6 false r.pcAt else s
  let s := match since with
    | some (since, pip) => s.traceWaited k r.slot pip who since r.pcAt
    | none => s
  s.readyRecord k r.num

/-- R56: a passing test, an error or a refusal reaches the departed record. -/
def execWatchAnswer (m : Msg) (s : State) : Outcome :=
  s.atTile m (match m.body with
  | .answer passed v err failedAt who =>
    let s := s.takeAnswer m
    match s.openRecord m.origin.record with
    | none => .next s
    | some r =>
      match err with
      | some e => .next ((s.eventFailed r.num none e).eventCame r.num)
      | none => .next (if passed then s.waitPassed r v failedAt who
          else (s.modRecord r.num fun r => { r with flagWaitSince := s.waitSince r failedAt }).backOff (s.recTile r.num) r.num)
  | _ => .next s)

/-- R470: a failed posted write is reported to the issuing tile; its task ends at its next event. A command whose publish failed ends
by the fault (R147). -/
def execPostedFailureReport (m : Msg) (s : State) : Outcome :=
  s.atTile m (match m.body with
  | .failed c sub a detail =>
    let s := s.takeAnswer m
    if s.tiles.any fun t => t.2.cmds.any fun x => x.acks.contains m.num then .next ((s.failPublish m.num c a detail).ackPublish m.num).settle
    else .next (s.modTask m.origin.task fun t => if t.failure.isSome then t else { t with failure := some (c, sub) }).settle
  | _ => .next s)

/-- R260: flits are resent under go-back-8, and the receiver discards duplicates: no message is lost, doubled or reordered. -/
def execLinkFlitLoss (_port : Nat) (s : State) : Outcome := .next s

/-- A lost message (R261): INJ falls and LOST rises when it is counted, a loss record is posted, and a lost request or reply completes
its event with error, in this package or in the one that waits for it. -/
def State.loseMessage (s : State) (port : Nat) (m : Msg) : State :=
  let kind := m.body.lossKind
  let dest := if m.origin.chip = s.chip then chipOf m.body.span.1 else m.origin.chip
  let detail := lossDetail m port dest
  let s := if kind = 7 then s
    else (s.bumpSlot m.origin.track 0 (2 ^ 64 - 1)).bumpSlot m.origin.track 16 1
  let s := s.postRecord
    { cause := 0xB, source := 0x21, task := m.origin.taskId, job := m.origin.job, tile := m.origin.tile, detail := detail }
  if kind = 5 ∧ m.origin.chip ≠ s.chip then s.emit (.message m.origin.chip ⟨m.num, m.origin, .reply m.body.lane 0 (some ⟨0xB, 0, detail⟩) 0⟩)
  else if kind = 4 ∧ m.origin.chip = s.chip then
    match s.openRecord m.origin.record with
    | some r => (s.eventFailed r.num m.body.lane ⟨0xB, 0, detail⟩).eventCame r.num
    | none => s
  else s

/-- A port's STATE in PORT_MAP (R21). -/
def portState (v : W64) : Nat := wfield v 0 3
/-- PORT_MAP with another STATE. -/
def setPortState (v : W64) (st : Nat) : W64 := v - BitVec.ofNat 64 (portState v) + BitVec.ofNat 64 st
/-- PORT_MAP with another count of lanes. -/
def setLanes (v : W64) (n : Nat) : W64 := v - BitVec.ofNat 64 (wfield v 3 2 * 8) + BitVec.ofNat 64 (n * 8)

/-- R261: a port goes DOWN; the messages that stand at the listed places of those not acknowledged are lost. -/
def execPortDown (port : Nat) (lost : List Nat) (s : State) : Outcome :=
  let v := Tab.get 0 s.pkg.portMap port
  if 96 ≤ port ∨ portState v = 0 then .next s
  else
    let gone := (s.unacked.zipIdx.filter fun x => lost.contains x.2).map (·.1)
    let s := s.modPkg fun p => { p with portMap := Tab.put p.portMap port (setLanes (setPortState v 4) 0) }
    let s := { s with unacked := s.unacked.filter fun m => !gone.contains m }
    .next (gone.foldl (fun s m => s.loseMessage port m) s).settle

/-- The package's counters of every slot (R253, R257). -/
def State.slotSnapshot (s : State) : List (Nat × W64 × W64 × W64) :=
  (List.range 64).map fun n =>
    (n, BitVec.ofNat 64 (s.slotCounter n 0), BitVec.ofNat 64 (s.slotCounter n 8), BitVec.ofNat 64 (s.slotCounter n 16))

/-- Sums of two lists of counters, slot by slot. -/
def addSums (a b : List (Nat × W64 × W64 × W64)) : List (Nat × W64 × W64 × W64) :=
  a.map fun x =>
    let ys := b.filter fun y => y.1 == x.1
    (x.1, ys.foldl (fun v y => v + y.2.1) x.2.1, ys.foldl (fun v y => v + y.2.2.1) x.2.2.1, ys.foldl (fun v y => v + y.2.2.2) x.2.2.2)

/-- A quiet signal of a slot reaches the package (R258): every QWAIT record of its jobs is ready, with status and loss count. -/
def State.quiet (s : State) (slot : Nat) (loss : W64) : State :=
  let v : W64 := BitVec.ofNat 64 ((if loss = 0 then 0 else 1) + min loss.toNat 0xFFFFFFFF * 2 ^ 32)
  let recs := s.tiles.flatMap fun t => t.2.recs.filter fun r =>
    r.reason == 7#8 && r.readyAt.isNone && !r.gone && (s.job (s.task r.task).job).track == slot
  recs.foldl (fun s r => (s.writeImage r none v).readyRecord (s.recTile r.num) r.num) s

/-- The children of this package in the tree of the sillage wave (R257). -/
def State.children (s : State) : List Nat :=
  let x := s.chip % 8
  let y := s.chip / 8 % 8
  (if s.chip % 8 < wfield s.pkg.coord 15 3 then [s.chip + 1] else []) ++
  (if x = 0 ∧ y < wfield s.pkg.coord 18 3 then [s.chip + 8] else []) ++
  (if x = 0 ∧ y = 0 ∧ s.chip / 64 < wfield s.pkg.coord 21 3 then [s.chip + 64] else [])

/-- Its parent: one step lower in x, or in y, or in z (R257). -/
def State.parent (s : State) : Nat :=
  if s.chip % 8 ≠ 0 then s.chip - 1 else if s.chip / 8 % 8 ≠ 0 then s.chip - 8 else s.chip - 64

/-- Sends something to every child. -/
def State.toChildren (s : State) (o : Nat → Out) : State := s.children.foldl (fun s c => s.emit (o c)) s

/-- R257: every PERIOD_NS the root starts a pass; another package is reached by it from its parent. The package reads its own
counters at that moment, and the pass goes on to its children. -/
def execWavePass (s : State) : Outcome :=
  if s.chip = 0 ∧ s.pkg.wave.pass ≠ 0 ∧ (s.frame - s.pkg.wave.startedAt).toNat < 2 * s.pkg.wavePeriod.toNat then .next s
  else
    let snap := s.slotSnapshot
    .next ((s.modPkg fun p =>
      { p with wave := { p.wave with pass := p.wave.pass + 1, startedAt := s.frame, snap := snap } }).toChildren .wavePass)

/-- The root has the sums of a pass (R258): quiet slots are broadcast, and the sums are kept for the next pass. -/
def State.endPass (s : State) (sums : List (Nat × W64 × W64 × W64)) : State :=
  let w := s.pkg.wave
  let quiet := sums.filter fun x =>
    x.2.1 == x.2.2.1 && !w.abandoned && match Tab.find w.previous x.1 with
      | some y => y.1 == x.2.1 && y.2.1 == x.2.2.1
      | none => false
  let s := s.modPkg fun p => { p with wave := { p.wave with
    previous := sums.map (fun x => (x.1, x.2)), abandoned := false, snap := [] } }
  quiet.foldl (fun s x => (s.toChildren fun c => .quiet c x.1 x.2.2.2).quiet x.1 x.2.2.2) s

/-- R257: the sums of the children have come, and a package sends them up with its own snapshot; at the root the pass ends. A pass
that met an unreachable package is abandoned. -/
def execWaveSnapshot (abandoned : Bool) (others : List (Nat × W64 × W64 × W64)) (s : State) : Outcome :=
  if s.pkg.wave.snap.isEmpty then .next s
  else
    let sums := if s.children.isEmpty then s.pkg.wave.snap else addSums s.pkg.wave.snap others
    let abandoned := abandoned && !s.children.isEmpty
    if s.chip = 0 then
      .next (if abandoned then s.modPkg fun p => { p with wave := { p.wave with abandoned := true, snap := [] } } else s.endPass sums)
    else .next ((s.modPkg fun p => { p with wave := { p.wave with snap := [] } }).emit (.waveSums s.parent (if abandoned then none else some sums)))

/-- R258: a quiet signal comes down the tree: it readies the QWAIT records of the slot and goes on to the children. -/
def execQuietBroadcast (slot : Nat) (loss : W64) (s : State) : Outcome :=
  if s.chip = 0 ∨ 64 ≤ slot then .next s else .next ((s.toChildren fun c => .quiet c slot loss).quiet slot loss)

end Sys2Proof.Machine
end

