-- ==== Sys2Proof/Machine/Paging.lean ====
section
/-! DEFINITION. The fault processors and the expert predictor (R131 to R137, R140 to R147): page faults, migration, keys,
scrubbing, promotion. -/

namespace Sys2Proof.Machine

/-- Physical address of the level-3 node, when PT_ROOT is valid (R122). -/
def State.ptRoot (s : State) : Option Nat :=
  let root := ofBytes (cellsRead s.mem 0x180000000 8)
  if bitAt root 0 then some (0x1000 * field root 12 36) else none

/-- The pointers that a node of n entries holds (R132). -/
def State.nodeNext (s : State) (node n align : Nat) : List Nat :=
  (List.range n).filterMap fun i => ptNext (s.pte (node + 8 * i)) align

/-- Level-2 nodes of the page table. -/
def State.nodes2 (s : State) : List Nat := match s.ptRoot with
  | some n => s.nodeNext n 512 0x1000
  | none => []
/-- Level-1 nodes. -/
def State.nodes1 (s : State) : List Nat := s.nodes2.flatMap fun n => s.nodeNext n 512 0x800
/-- Level-0 nodes. -/
def State.nodes0 (s : State) : List Nat := s.nodes1.flatMap fun n =>
  (List.range 256).filterMap fun i => let e := s.pte (n + 8 * i); if bitAt e 1 then none else ptNext e 0x100

/-- Every leaf of the page table. -/
def State.leaves (s : State) : List Leaf :=
  (s.nodes1.flatMap fun n => (List.range 256).filterMap fun i =>
    let e := s.pte (n + 8 * i); if bitAt e 1 then s.leaf (n + 8 * i) e 0x200000 else none) ++
  s.nodes0.flatMap fun n => (List.range 32).filterMap fun i => s.leaf (n + 8 * i) (s.pte (n + 8 * i)) 0x10000

/-- No leaf and no node of the page table lies in the frame. -/
def State.frameFree (s : State) (p size : Nat) : Bool :=
  let root := match s.ptRoot with
    | some n => [(n, 0x1000)]
    | none => []
  let used := root ++ s.nodes2.map (·, 0x1000) ++ s.nodes1.map (·, 0x800) ++ s.nodes0.map (·, 0x100) ++
    s.leaves.map fun l => (l.frame, l.size)
  used.all fun u => !overlaps p size u.1 u.2

/-- Writes a page-table entry at a physical address. -/
def State.setPte (s : State) (p e : Nat) : State := { s with mem := cellsWrite s.mem (frameAt p) (toBytes 8 e) }

/-- A node from the free pool, all of its entries invalid (R135). -/
def State.newNode (s : State) (level size : Nat) : Option (State × Nat) :=
  let p := (Config.freeFrame (8 * s.steps + level)).toNat % 2 ^ 48 / 0x1000 * 0x1000
  if s.frameFree p size && s.frameInstalled p size then
    some ({ s with mem := cellsWrite s.mem (frameAt p) (List.replicate size 0) }, p)
  else none

/-- The node that an entry points to; one from the free pool when the entry does not point. -/
def State.ensureNode (s : State) (at_ level size : Nat) : Option (State × Nat) :=
  match ptNext (s.pte at_) size with
  | some n => some (s, n)
  | none => (s.newNode level size).map fun (s, n) => (s.setPte at_ (n + 1), n)

/-- The fault processor puts a leaf entry in place for a chip-local address, with the nodes that its walk needs (R131, R135);
`none` when the free pool has no frame for one. -/
def State.installEntry (s : State) (a : Nat) (e : W64) (large : Bool) : Option State :=
  let root := match s.ptRoot with
    | some n => some (s, n)
    | none => (s.newNode 3 0x1000).map fun (x : State × Nat) => ({ x.1 with mem := cellsWrite x.1.mem 0x180000000 (toBytes 8 (x.2 + 1)) }, x.2)
  root.bind fun (s, n3) => (s.ensureNode (n3 + 8 * field a 38 9) 2 0x1000).bind fun (s, n2) =>
    (s.ensureNode (n2 + 8 * field a 29 9) 1 0x800).bind fun (s, n1) =>
      let at1 := n1 + 8 * field a 21 8
      if large then some (s.setPte at1 e.toNat)
      else (s.ensureNode at1 0 0x100).map fun (x : State × Nat) => x.1.setPte (x.2 + 8 * field a 16 5) e.toNat

/-- A host window that permits an access (R237): its JOB. Bits 31:13 of the remote key, of which the spec says nothing, are not looked
at: the model's choice (log 46). -/
def State.hostWindow (s : State) (rkey : W32) (ia n : Nat) (write : Bool) : Option W16 :=
  let w := 0x180004000 + 32 * field rkey.toNat 0 5
  let ctl := s.readNum (w + 0x13) 1
  if bitAt ctl 0 && (!write || bitAt ctl 1) && s.readNum (w + 0x12) 1 == field rkey.toNat 5 8 &&
      decide (s.readNum w 8 ≤ ia ∧ ia + n ≤ s.readNum (w + 8) 8 + 1) && s.inDomain (chipOf ia) && decide (ia < 2 ^ 56) then
    some (BitVec.ofNat 16 (s.readNum (w + 0x10) 2))
  else none

/-- No page of the access has a key entry that names another job (R237). -/
def State.hostKeys (s : State) (job : W16) (ia n : Nat) : Bool :=
  (s.pagesOf (fun l => match l with
    | some l => l.key != 0 &&
        (let j := s.readNum (0x180000800 + 8 * l.key) 2; job == 0xFFFF || (j != 0xFFFF && j != job.toNat))
    | none => false) (0, ia, ia + n - 1)).isNone

/-- Pips that a write reaches were set by a kind of setter: 2 the host, 3 another (R284). -/
def State.pipsSetBy (s : State) (kind a n : Nat) : State :=
  if s.region a ≠ some .slice then s
  else
    let w := 0x100000 * (a / 0x100000) + 0xFFE00
    ((List.range 64).filter fun i => overlaps a n (w + 8 * i) 8).foldl (fun s i =>
      s.modTile (a / 0x100000) fun t => { t with setters := Tab.put t.setters i (0, 0, kind, 0) }) s

/-- Pips that a host's write reaches were set by the host. -/
def State.hostSets (s : State) (a n : Nat) : State := s.pipsSetBy 2 a n

/-- The answer to a host access: to the host, or to the package that has forwarded it. `none` is a remote-access error, and a write
answers with no bytes (R237). -/
def State.hostReply (s : State) (ia : Nat) (w : FaultWaiter) (r : Option (List Byte)) : State :=
  match w, r with
  | .hostRead _ (some c), _ => s.emit (.hostAnswer c ia r)
  | .hostWrite _ (some c), _ => s.emit (.hostAnswer c ia r)
  | .hostRead _ none, some bs => s.emit (.hostData bs)
  | .hostWrite _ none, some _ => s.emit .hostAck
  | _, _ => s.emit .hostError

/-- What stands for a host access at the port of a stopped tile, beside the keys of messages (R280). -/
def hostKey (num : Nat) : Nat := 2 ^ 100 + num

/-- A host access waits, in its place, at a page that moves or at a stopped tile (R136, R280). -/
def State.holdHost (s : State) (num : Nat) (x : Nat × W16 × FaultWaiter) : State :=
  s.modPkg fun p => { p with hostHeld := p.hostHeld ++ [(num, x)], hostNext := max p.hostNext (num + 1) }

/-- A host access past its checks (R237): performed and answered, or held at its page, behind an access held there before it (R136), or
at a stopped tile (R280). Keys are looked at again, since a page may have been mapped since. It is performed in one step, whatever its
length (R166; log 46). -/
def State.hostAccess (s : State) (num : Nat) (job : W16) (ia : Nat) (w : FaultWaiter) : State :=
  let (n, write) := match w with
    | .hostRead n _ => (n, false)
    | .hostWrite bs _ => (bs.length, true)
    | _ => (0, false)
  let k := localOf ia / 0x100000
  let slice := s.region (localOf ia) == some .slice
  if !s.hostKeys job ia n then (s.leavePage (true, num)).hostReply ia w none
  else if slice && !s.portFree k (hostKey num) then
    let s := s.holdHost num (ia, job, w)
    if s.ports.any fun x => x.2 == hostKey num then s else { s with ports := s.ports ++ [(k, hostKey num)] }
  else if (s.pageWaits ia n write && s.placed (localOf ia) n write) || s.behindHeld (true, num) ia n then
    (s.holdHost num (ia, job, w)).queueAtPage (true, num) ia n
  else
    let s := { s with ports := s.ports.filter fun x => x.2 != hostKey num }.leavePage (true, num)
    if s.pageWaits ia n write then s.raiseFault (s.firstUnplaced (localOf ia) n write) write job w (localOf ia)
    else match w with
    | .hostRead n _ => s.hostReply ia w (if (s.uncorrectable ia n).isSome then none else some (s.readIA ia n))
    | .hostWrite bs _ =>
      if (s.blockedUnit ia bs.length false).isSome then s.hostReply ia w none
      else (((s.hostSets (localOf ia) bs.length).store ia bs).settle).hostReply ia w (some [])
    | _ => s

/-- Host accesses that were held at a page or a port go on, where they can, each in its place (R136, R280). -/
def State.hostRetry (s : State) : State :=
  let held := s.pkg.hostHeld
  if held.isEmpty then s
  else held.foldl (fun s x => s.hostAccess x.1 x.2.2.1 x.2.1 x.2.2.2) (s.modPkg fun p => { p with hostHeld := [] })

/-- The unit under an address whose page does not map, for the DETAIL of a MEMERR (R473): no frame tells its size, and the model names
16 bytes (log 44). -/
def State.unmappedUnit (s : State) (a : Nat) : Nat × Nat := (2 ^ 47 * s.chip + a / 16 * 16, 16)

/-- A message's page, with unit u, cannot be served (R135, R147): the error goes back to who waits for it. -/
def State.failMessage (s : State) (m : Msg) (u : Nat × Nat) : State :=
  let f : Failure := ⟨0xA, 0, unitDetail u⟩
  let s := s.takeUp m
  match m.body with
  | .load _ _ l => s.respond m (.reply l 0 (some f) 0)
  | .loadRest _ _ l _ => s.respond m (.reply l 0 (some f) 0)
  | .amo _ _ _ _ _ true => s.respond m (.reply none 0 (some f) 0)
  | .wait ia _ => s.respond m (.answer false 0 (some f) none (s.setterOf ia))
  | .publish _ => s.respond m (.failed 0xA 0 u.1 f.detail)
  | _ => (s.failPosted m 0xA 0 f.detail).settle

/-- A fault that cannot be serviced (R42, R65, R135, R147, R237, R291). A task that is READY, PREEMPTED or RETIRING has no transition
for it (R241): its record is posted, and the task stays as it is (log 44). -/
def State.unserviceable (s : State) (f : PageFault) : State :=
  let detail := unitDetail (s.unmappedUnit f.ia)
  match f.waiter with
  | .staging tid =>
    let r : FaultRec := { cause := 0xA, source := 0x20, flags := 5, addr := BitVec.ofNat 64 (2 ^ 47 * s.chip + f.ia)
                          task := (s.task tid).id, job := (s.task tid).job, detail := detail }
    match (s.task tid).state with
    | .staging => s.endStaging tid 5 r
    | .running => s.faultTask tid 3 r
    | .done => s
    | _ => s.postRecord { r with flags := 4 }
  | .fetch n e =>
    let s' := { s with focus := n }
    let va := s'.textBase + BitVec.ofNat 64 (4 * (s'.cur.pc e).toNat)
    if s'.cur.live && (s'.fetchWaits e).any (fun ia => localOf ia == f.ia) then s'.takeTrap e { cause := 0xA, addr := va, detail := detail } else s
  | .message n => match s.msgs.find? fun m => m.key == n with
    | none => s
    | some m => s.failMessage m (s.unmappedUnit f.ia)
  | .command k seq => match s.findCmd ⟨k, seq⟩ with
    | none => s
    | some c => s.failCommand k c (c.publishFault 0xA (2 ^ 47 * s.chip + f.ia) detail)
  | .hostRead _ _ => s.hostReply (2 ^ 47 * s.chip + f.access) f.waiter none
  | .hostWrite _ _ => s.hostReply (2 ^ 47 * s.chip + f.access) f.waiter none
  | .controller _ => s
  | .dump slot => s.dumpsOn (some slot)

/-- The 64 KiB frames of a leaf. -/
def Leaf.frames (l : Leaf) : List Nat := (List.range (l.size / 0x10000)).map fun i => l.frame / 0x10000 + i

/-- No page maps the frames of a leaf any more: what they hold stays under its key (R140). -/
def State.keepKey (s : State) (l : Leaf) : State :=
  s.modPkg fun p => { p with frameKeys := l.frames.foldl (fun t f => if s.leaves.any fun x => x.frames.contains f then t else Tab.put t f l.key) p.frameKeys }

/-- Bytes of a frame that decrypt under another key than before (R140, R141): free values. -/
def State.rekeyFrame (s : State) (frame size : Nat) : State :=
  { s with mem := (List.range size).foldl (fun mem i =>
      let p := frameAt (frame + i)
      cellWrite mem p (Config.rekeyedByte s.steps p (cellRead mem p))) s.mem }

/-- Frames that a new leaf maps: those that were written under another key read as other bytes (R140). -/
def State.mapFrames (s : State) (l : Leaf) : State :=
  let s' := l.frames.foldl (fun s f => match Tab.find s.pkg.frameKeys f with
    | some k => if k = l.key then s else s.rekeyFrame (0x10000 * f) 0x10000
    | none => s) s
  s'.modPkg fun p => { p with frameKeys := l.frames.foldl (fun t f => Tab.del t f) p.frameKeys }

/-- R135: the fault processor installs or corrects an entry, and what waited goes on; or the fault is unserviceable. -/
def execPageFaultMessage (fault : Nat) (service : FaultService) (s : State) : Outcome :=
  match s.pkg.pageFaults.find? fun f => f.num == fault with
  | none => .next s
  | some f =>
    let served := s.modPkg fun p => { p with pageFaults := p.pageFaults.filter fun g => g.num != fault }
    match service with
    | .unserviceable => .next (served.unserviceable f)
    | .install e large => match (served.installEntry f.ia e large).map fun s => (s.walk f.ia).elim s fun l => s.mapFrames l with
      | none => .next s
      | some s => match f.waiter with
        | .hostRead _ _ => .next (s.hostAccess s.pkg.hostNext f.job (2 ^ 47 * s.chip + f.access) f.waiter)
        | .hostWrite _ _ => .next (s.hostAccess s.pkg.hostNext f.job (2 ^ 47 * s.chip + f.access) f.waiter)
        | .dump _ => .next (s.dumpsOn none)
        | _ => .next s

/-- The page that holds a chip-local address, when it maps and does not move. -/
def State.mappedPage (s : State) (a : Nat) : Option (Nat × Leaf) :=
  if s.region a ≠ some .memory then none
  else (s.walk a).bind fun l =>
    let page := a / l.size * l.size
    if s.pkg.migrations.any fun m => m.page == page then none else some (page, l)

/-- R136: a migration of a page starts: from here on its accesses are held. -/
def execPageMigration (page : Nat) (entry : W64) (s : State) : Outcome :=
  match s.mappedPage page with
  | none => .next s
  | some (page, l) =>
    if (s.leaf l.entryAt entry.toNat l.size).isSome then
      .next (s.modPkg fun p => { p with migrations := p.migrations ++ [⟨page, entry⟩] })
    else .next s

/-- The contents of a frame go to another (R136): a byte keeps its value under the new entry's key. -/
def moveFrame (mem : List Host.Cell) (old new size : Nat) : List Host.Cell :=
  if old = new then mem
  else
    let moved := (List.range size).map fun i => cellRead mem (frameAt (old + i))
    cellsWrite mem (frameAt new) moved

/-- R136: the contents are copied, the leaf entry is replaced, and the held accesses go on at the new frame. -/
def execMigrationComplete (page : Nat) (s : State) : Outcome :=
  match s.pkg.migrations.find? fun m => m.page == page, s.walk page with
  | some m, some l =>
    let new := 0x10000 * wfield m.entry 16 32
    let s := { s with mem := moveFrame s.mem l.frame new l.size }
    let s := (s.setPte l.entryAt m.entry.toNat).modPkg fun p => { p with migrations := p.migrations.filter fun x => x.page != page }
    .next ((s.keepKey l).hostRetry.dumpsOn none)
  | _, _ => .next s

/-- A lease of a task that has not ended holds a byte of the page (R42, R133). -/
def State.pinned (s : State) (page size : Nat) : Bool :=
  s.tasks.any fun t => t.2.extents.any fun x => chipOf x.1 == s.chip && overlaps page size (localOf x.1) (x.2.1 - x.1 + 1)

/-- R133: a page is unmapped, unless a lease pins it. -/
def execPageUnmap (page : Nat) (s : State) : Outcome :=
  match s.mappedPage page with
  | none => .next s
  | some (page, l) => if s.pinned page l.size then .next s else .next ((s.setPte l.entryAt (s.pte l.entryAt - 1)).keepKey l)

/-- R141: key material is loaded into an index; the frames in use under it decrypt to other bytes. -/
def execKeyLoad (index : Nat) (s : State) : Outcome :=
  if index = 0 ∨ 511 < index then .next s
  else
    let used := (s.leaves.filter fun l => l.key == index).map fun l => (l.frame, l.size)
    let left := (s.pkg.frameKeys.filter fun x => x.2 == index).map fun x => (0x10000 * x.1, 0x10000)
    let a := 0x180000800 + 8 * index + 2
    .next (((used ++ left).foldl (fun s x => s.rekeyFrame x.1 x.2) s).poke a (toBytes 1 (s.readNum a 1 ||| 1)))

/-- The unit at a chip-local address (R137, R138): 16 bytes of a slice; of HBM 8 under key index 0 and else 16; 32 of the second tier
and 64 of a CXL frame. -/
def State.unitAt (s : State) (a : Nat) : Nat :=
  match s.region a with
  | some .memory => match s.walk a with
    | some l => if l.frame < 0x100000000000 then (if l.key = 0 then 8 else 16) else if l.frame < 0x200000000000 then 32 else 64
    | none => 16
  | _ => 16

/-- R147: the scrubber finds an uncorrectable unit and reports it, with its unit, to the home chip's fault processor. -/
def execScrubberError (ia : Nat) (s : State) : Outcome :=
  let a := localOf ia
  if chipOf ia ≠ s.chip ∨ (s.region a ≠ some .slice ∧ s.region a ≠ some .memory) ∨ !s.placed a 1 false then .next s
  else
    let n := s.unitAt a
    let u := (a / n * n, n)
    let s := if s.pkg.badUnits.contains u then s else s.modPkg fun p => { p with badUnits := p.badUnits ++ [u] }
    let home := s.homeChip ia
    .next (s.emit (.scrubError home (2 ^ 47 * s.chip + u.1) u.2))

/-- An entry of the expert table (R143): index, IA, pages of 64 KiB, expert, score. -/
structure Expert where
  index : Nat
  ia : Nat
  length : Nat
  layer : Nat
  expert : Nat
  score : Nat
  deriving DecidableEq, Repr, Inhabited

/-- The expert table (R143). The reserved bytes 0x18 to 0x1F of an entry are not looked at: what a nonzero one does is not in the spec,
and the model's choice is nothing (log 43). -/
def State.experts (s : State) : List Expert :=
  let base := s.readNum 0x180002000 8
  (List.range (field (s.readNum 0x180002008 8) 0 12)).map fun i =>
    let bs := s.readIA (base + 32 * i) 32
    ⟨i, fieldAt bs 0 8, fieldAt bs 8 8, fieldAt bs 0x10 2, fieldAt bs 0x12 2, fieldAt bs 0x14 4⟩

/-- SCORE after a hint (R143); pairs that repeat an expert add up, saturating (R450). -/
def Expert.hinted (x : Expert) (pairs : List (Nat × Nat)) : Nat :=
  let c := min ((pairs.filter fun p => p.1 == x.expert).foldl (fun n p => n + p.2) 0) 0xFFFFFFFF
  min (x.score - x.score / 4 + c) 0xFFFFFFFF

/-- Puts an expert into its place by score, expert and index. -/
def insertExpert (x : Expert) : List Expert → List Expert
  | [] => [x]
  | y :: ys =>
    if y.score < x.score ∨ (y.score = x.score ∧ (x.expert < y.expert ∨ (x.expert = y.expert ∧ x.index ≤ y.index))) then x :: y :: ys
    else y :: insertExpert x ys

/-- 2 MiB units of HBM that an expert takes (R143). -/
def Expert.units (x : Expert) : Nat := (x.length + 0x1FFFFF) / 0x200000

/-- The pages of an expert that lie outside HBM, with their leaves. -/
def State.expertPages (s : State) : Nat → Nat → Nat → List (Nat × Leaf)
  | 0, _, _ => []
  | n + 1, a, hi =>
    if hi ≤ a then []
    else match s.mappedPage a with
      | some (p, l) => (if 0x100000000000 ≤ l.frame then [(p, l)] else []) ++ s.expertPages n (p + l.size) hi
      | none => s.expertPages n (0x10000 * (a / 0x10000) + 0x10000) hi

/-- Pages move to HBM frames of the free pool (R143, R144); `none` when the pool is short. -/
def State.promotePages (s : State) : List (Nat × Leaf) → Option (State × List (Nat × W64))
  | [] => some (s, [])
  | (p, l) :: rest =>
    let f := (Config.freeFrame (8 * s.steps + 8 + p)).toNat % (2 * s.pkg.hbmChannels * 2 ^ 30) / l.size * l.size
    let old := s.pte l.entryAt
    let new := old - l.frame + f
    if s.frameFree f l.size && s.frameInstalled f l.size && !(s.pkg.migrations.any fun m => overlaps (0x10000 * wfield m.entry 16 32) 0x200000 f l.size) then
      ((s.modPkg fun k => { k with migrations := k.migrations ++ [⟨p, BitVec.ofNat 64 new⟩] }).promotePages rest).map
        fun (s, xs) => (s, (p, BitVec.ofNat 64 old) :: xs)
    else none

/-- The expert promoted earliest goes back to its former memory (R143); of its pages that are still on their way to HBM the way is
turned back. -/
def State.demote (s : State) (x : Nat × List (Nat × W64)) : State :=
  let back := x.2.filter fun e => (s.mappedPage e.1).isSome
  let turned (m : Migration) : Migration := match x.2.find? fun e => e.1 == m.page with
    | some e => ⟨m.page, e.2⟩
    | none => m
  s.modPkg fun p =>
    { p with promoted := p.promoted.filter fun y => y.1 != x.1
             migrations := p.migrations.map turned ++ back.map fun e => ⟨e.1, e.2⟩ }

/-- Experts outside the chosen ones go back, earliest first, until `need` units fit (R143). -/
def State.makeRoom (s : State) (table : List Expert) (keep : List Nat) (need : Nat) : Nat → State
  | 0 => s
  | n + 1 =>
    let held := (s.pkg.promoted.map fun x => (table.getD x.1 default).units).sum
    if held + need ≤ field (s.readNum 0x180002008 8) 20 16 then s
    else match s.pkg.promoted.find? fun x => !keep.contains x.1 with
      | some x => (s.demote x).makeRoom table keep need n
      | none => s

/-- One ranked expert is promoted where it fits (R143). `none` says that it waits: the free pool is short, and pages promoted earlier
are on their way back. -/
def State.promote (s : State) (table : List Expert) (x : Expert) : Option State :=
  if s.pkg.promoted.any fun y => y.1 == x.index then some s
  else
    let s' := s.makeRoom table s.pkg.chosen x.units s.pkg.promoted.length
    let held := (s'.pkg.promoted.map fun y => (table.getD y.1 default).units).sum
    if field (s.readNum 0x180002008 8) 20 16 < held + x.units then some s
    else match s'.promotePages (s'.expertPages (x.length / 0x10000 + 1) (localOf x.ia) (localOf x.ia + x.length)) with
      | some (s, old) => some (s.modPkg fun p => { p with promoted := p.promoted ++ [(x.index, old)] })
      | none => if s.pkg.migrations.isEmpty && (s.pkg.promoted.all fun y => s.pkg.chosen.contains y.1) then some s else none

/-- The free pool is short: the pages promoted earliest go back, unless pages move already (R143). -/
def State.shortPool (s : State) : State :=
  if !s.pkg.migrations.isEmpty then s
  else match s.pkg.promoted.find? fun y => !s.pkg.chosen.contains y.1 with
    | some y => s.demote y
    | none => s

/-- The ranked experts that are left, in order, up to one that waits. -/
def State.promoteAll (s : State) (table : List Expert) : List Nat → State
  | [] => s.modPkg fun p => { p with toPromote := [], chosen := [] }
  | i :: rest => match s.promote table (table.getD i default) with
    | some s => s.promoteAll table rest
    | none => s.shortPool.modPkg fun p => { p with toPromote := i :: rest }

/-- R143: the predictor goes on with the promotions under way, or takes the next hint: scores, the ranking of the next layer,
promotion. -/
def execExpertHintApply (s : State) : Outcome :=
  if !s.pkg.toPromote.isEmpty then .next (s.promoteAll s.experts s.pkg.toPromote)
  else match s.pkg.hints with
  | [] => .next s
  | (layer, pairs) :: rest =>
    let base := s.readNum 0x180002000 8
    let s := s.modPkg fun p => { p with hints := rest }
    let s := (s.experts.filter fun x => x.layer == layer).foldl
      (fun s x => s.perform (base + 32 * x.index + 0x14) (toBytes 4 (x.hinted pairs))) s
    let table := s.experts
    let top := (((table.filter fun x => x.layer == layer + 1).foldr insertExpert []).take (field (s.readNum 0x180002008 8) 12 8)).map (·.index)
    .next ((s.modPkg fun p => { p with chosen := top }).promoteAll table top)

end Sys2Proof.Machine
end

