-- ==== Sys2Proof/Machine/HostIf.lean ====
section
/-! DEFINITION. What the host does (R13, R22, R166, R167, R234 to R239): submission queues and their packets, graphs, reads
and writes of device memory, and the host ports. -/

namespace Sys2Proof.Machine

/-- Descriptor of submission queue q (R234). -/
def subAt (q : Nat) : Nat := 0x180003000 + 32 * q

/-- Packets that wait in queue q, and its DEPTH. -/
def State.subWaiting (s : State) (q : Nat) : Nat × Nat :=
  ((s.readNum (subAt q + 0x14) 4 + 2 ^ 32 - s.readNum (subAt q + 0x10) 4) % 2 ^ 32, s.readNum (subAt q + 8) 4)

/-- The queue is valid and not stopped. -/
def State.subLive (s : State) (q : Nat) : Bool :=
  decide (q < 16) && bitAt (s.readNum (subAt q + 0xC) 1) 0 && !Tab.get false s.pkg.subStopped q

/-- A queue whose TAIL is too far ahead stops, with a record for the queue of its last packet (R234, R276). -/
def State.stopOverrun (s : State) (q : Nat) : State :=
  if s.subLive q && decide ((s.subWaiting q).2 < (s.subWaiting q).1) then
    let s := s.modPkg fun p => { p with subStopped := Tab.put p.subStopped q true }
    match Tab.find s.pkg.subErrq q with
    | some (errq, job) => s.postTo job errq ((recordFault 3 (2 ^ 47 * s.chip + subAt q) job 0 false).bytes s.chip s.frame)
    | none => s.dropError.emit (.notify 0x20)
  else s

/-- IA of the packet that the controller may consume from queue q (R234). A descriptor whose DEPTH or BASE is none that R234 allows is
used as it stands: the model's choice (log 45). -/
def State.packetIA (s : State) (q : Nat) : Option Nat :=
  let (n, depth) := s.subWaiting q
  if s.subLive q ∧ 0 < n ∧ n ≤ depth then some (s.readNum (subAt q) 8 + s.readNum (subAt q + 0x10) 4 % depth * 64) else none

/-- A read of the dispatch controller; no rule says what an uncorrectable unit gives it. -/
def State.controllerRead (s : State) (ia n : Nat) : List Byte :=
  if (s.uncorrectable ia n).isSome then (List.range n).map fun i => Config.remoteByte (ia + i) s.steps else s.readIA ia n

/-- The packet is taken: HEAD rises, and its error queue is the last known (R234). -/
def State.consume (s : State) (q : Nat) (p : List Byte) : State :=
  let s := s.poke (subAt q + 0x10) (toBytes 4 ((s.readNum (subAt q + 0x10) 4 + 1) % 2 ^ 32))
  s.modPkg fun k => { k with subErrq := Tab.put k.subErrq q (fieldAt p 0x18 8, BitVec.ofNat 16 (fieldAt p 2 2)) }

/-- A packet that the controller refuses (R235): OP, JOB_ID or a TRACK that it would use is reserved, a reserved field is not
zero, or a graph names a live job. -/
def State.refuses (s : State) (p : List Byte) : Bool :=
  let op := fieldAt p 0 1
  let live := (s.job (BitVec.ofNat 16 (fieldAt p 2 2))).live
  op == 0 || decide (4 < op) || fieldAt p 2 2 == 0xFFFF || !allZero p 4 4 || !allZero p 0x28 24 ||
    (decide (63 < fieldAt p 1 1) && (op == 2 || op == 3 || (op == 1 && !live))) || (op == 2 && live)

/-- The refusal of a packet at an IA: a record fault for its ERRQ (R235). -/
def State.refusePacket (s : State) (p : List Byte) (ia : Nat) : State :=
  let job := BitVec.ofNat 16 (fieldAt p 2 2)
  s.postTo job (fieldAt p 0x18 8) ((recordFault 4 ia job 0 false).bytes s.chip s.frame)

/-- What the controller must read or write before it can serve a packet: IA, length, write. -/
def State.packetNeeds (s : State) (ops : Nat → Bool) (ia : Nat) (q : Nat) (needs : List Byte → List (Nat × Nat × Bool))
    (k : Nat → List Byte → State → State) : Outcome :=
  let waits (xs : List (Nat × Nat × Bool)) : Option (Nat × Nat × Bool) := xs.find? fun x => s.pageWaits x.1 x.2.1 x.2.2
  let hold (x : Nat × Nat × Bool) : Outcome :=
    if s.placed (localOf x.1) x.2.1 x.2.2 then .next s
    else
      let a := (List.range x.2.1).find? fun i => !s.placed (localOf x.1 + i) 1 x.2.2
      .next (s.raiseFault (localOf x.1 + a.getD 0) x.2.2 0 (.controller q))
  match waits [(ia, 64, false)] with
  | some x => hold x
  | none =>
    let p := s.controllerRead ia 64
    if !ops (fieldAt p 0 1) then .next s
    else if s.refuses p then .next ((s.consume q p).refusePacket p ia)
    else match waits (needs p) with
      | some x => hold x
      | none => .next (k ia p (s.consume q p))

/-- The next packet of queue q, when its OP is one of those asked for: consumed and served, refused, or held at a page that does
not map. An overrun stops the queue. A
package in error consumes none (R277). -/
def State.servePacket (s : State) (q : Nat) (ops : Nat → Bool) (needs : List Byte → List (Nat × Nat × Bool))
    (k : Nat → List Byte → State → State) : Outcome :=
  if s.pkg.packageError then .next s
  else match s.packetIA q with
  | some ia => s.packetNeeds ops ia q needs k
  | none => .next (s.stopOverrun q)

/-- The word at OUT, when the packet names one. -/
def outNeeds (p : List Byte) (n : Nat) : List (Nat × Nat × Bool) :=
  if fieldAt p 0x20 8 = 0 then [] else [(fieldAt p 0x20 8, n, true)]

/-- Writes at OUT (R235). -/
def State.writeOut (s : State) (p : List Byte) (bs : List Byte) : State :=
  let ia := fieldAt p 0x20 8
  if ia = 0 then s
  else if chipOf ia ≠ s.chip then s.emit (.publish (chipOf ia) [(ia, bs)])
  else s.store ia bs

/-- Enqueues a record for the host: the next cluster of its job where AFFINITY names none (R244). -/
def State.hostEnqueue (s : State) (bs : List Byte) (job : W16) : State :=
  let j := s.job job
  let n := s.pkg.clusters.length
  let other := match j.lastCluster with
    | some c => if c + 1 < n then c + 1 else 0
    | none => 0
  let tid := s.taskNext
  let s := s.enqueue bs job (j.seed.getD 0) other false
  if (s.task tid).state = .done then s else s.modJob job fun j => { j with lastCluster := some (s.task tid).cluster }

/-- The packet's job, created if it does not live (R235). -/
def State.packetJob (s : State) (p : List Byte) : State :=
  s.createJob (BitVec.ofNat 16 (fieldAt p 2 2)) (fieldAt p 1 1) (wordAt p 0x10) (fieldAt p 0x18 8)

/-- R235: the packet creates a job if needed and enqueues a task record. A reserved OP is refused here too. -/
def execLaunchTask (queue : Nat) (s : State) : Outcome :=
  s.servePacket queue (fun op => op == 1 || op == 0 || decide (4 < op))
    (fun p => (fieldAt p 8 8, 256, false) :: outNeeds p 8)
    fun _ p s =>
      let bs := s.controllerRead (fieldAt p 8 8) 256
      let copy := s.copyIA s.taskNext
      ((s.drainSeeds.packetJob p).hostEnqueue bs (BitVec.ofNat 16 (fieldAt p 2 2))).writeOut p (toBytes 8 copy)

/-- Records of a graph template that begins at an IA (R238). -/
def State.templateCount (s : State) (ia : Nat) : Nat := if s.pageWaits ia 64 false then 0 else fieldAt (s.controllerRead ia 64) 0 4

/-- Records of a template, when its header is well formed (R238). One that is not 64-byte aligned is read where it lies: the model's choice
(log 45). -/
def State.template (s : State) (ia : Nat) : Option (List (List Byte)) :=
  let n := s.templateCount ia
  if allZero (s.controllerRead ia 64) 4 60 ∧ 1 ≤ n ∧ n ≤ 65536 then
    some ((List.range n).map fun t => s.controllerRead (ia + 64 + 256 * t) 256)
  else none

/-- Template indexes of a record's successor array; `none` when one names no record (R238). -/
def State.templateSuccs (s : State) (n : Nat) (bs : List Byte) : Option (List Nat) :=
  let c := fieldAt bs 0x58 2
  let raw := s.controllerRead (fieldAt bs 0x50 8) (8 * c)
  let xs := (List.range c).map fun i => fieldAt raw (8 * i) 8
  if xs.all fun t => decide (t < n) then some xs else none

/-- What a LAUNCH_GRAPH reads and writes. -/
def State.graphNeeds (s : State) (p : List Byte) : List (Nat × Nat × Bool) :=
  let ia := fieldAt p 8 8
  let n := min (s.templateCount ia) 65536
  let all := (ia, 64 + 256 * n, false)
  if s.pageWaits ia (64 + 256 * n) false then [all]
  else all :: outNeeds p (8 * n) ++ (List.range n).map fun t =>
    let bs := s.controllerRead (ia + 64 + 256 * t) 256
    (fieldAt bs 0x50 8, 8 * fieldAt bs 0x58 2, false)

/-- R239: the packet instantiates a graph template as a new job, or is refused as a whole. -/
def execLaunchGraph (queue : Nat) (s : State) : Outcome :=
  s.servePacket queue (· == 2) s.graphNeeds fun at_ p s =>
    match s.template (fieldAt p 8 8) with
    | none => s.refusePacket p at_
    | some bss =>
      let succs := bss.map (s.templateSuccs bss.length)
      if !bss.all recordOk || succs.any (·.isNone) then s.refusePacket p at_
      else
        let first := s.taskNext
        let s := s.drainSeeds.packetJob p
        let s := (bss.zip succs).foldl (fun s x =>
          let tid := s.taskNext
          (s.hostEnqueue x.1 (BitVec.ofNat 16 (fieldAt p 2 2))).modTask tid fun t =>
            { t with succs := some ((x.2.getD []).map fun i => s.copyIA (first + i)) }) s
        s.writeOut p ((List.range bss.length).flatMap fun i => toBytes 8 (s.copyIA (first + i)))

/-- The counters of a tracking slot become zero, but for slot 63 (R236). -/
def State.resetSlot (s : State) (slot : Nat) : State :=
  if slot = 63 then s else s.poke (0x180006000 + 32 * slot) (toBytes 24 0)

/-- R236: the packet resets a tracking slot's counters here, and the reset goes to every package of the domain; or another package's
reset reaches this one. -/
def execTrackReset (src : PacketSrc) (s : State) : Outcome :=
  match src with
  | .queue q => s.servePacket q (· == 3) (fun _ => []) fun _ p s => (s.resetSlot (fieldAt p 1 1)).emit (.trackReset (fieldAt p 1 1))
  | .forwarded slot => .next (if slot < 64 then s.resetSlot slot else s)

/-- Ends a job (R236): its tasks that are not DONE are cancelled, its SEED is discarded. -/
def State.endJob (s : State) (job : W16) : State :=
  let s := s.tasks.foldl (fun s t => if t.2.job = job ∧ (s.task t.1).state ≠ .done then s.endTask t.1 6 else s) s
  let s := s.modJob job fun j => { j with live := false, seed := none }
  { s with tiles := s.tiles.map fun t => (t.1, { t.2 with seeds := Tab.del t.2.seeds job.toNat }) }

/-- R236, R41: the packet ends its job, on every package of the domain; or another package's packet ends it here. -/
def execEndJob (src : PacketSrc) (s : State) : Outcome :=
  match src with
  | .queue q => s.servePacket q (· == 4) (fun _ => []) fun _ p s =>
      let job := BitVec.ofNat 16 (fieldAt p 2 2)
      (s.drainSeeds.endJob job).emit (.endJob job)
  | .forwarded n => .next (s.drainSeeds.endJob (BitVec.ofNat 16 n))

/-- R167, R234: the host writes TAIL. -/
def execSubmissionTailWrite (queue : Nat) (tail : W32) (s : State) : Outcome :=
  if 16 ≤ queue then .next s else .next ((s.poke (subAt queue + 0x14) (toBytes 4 tail.toNat)).stopOverrun queue)

/-- A host access at the package of its IA (R237): the checks of its region and keys, and the access. -/
def State.hostHere (s : State) (job : W16) (ia n : Nat) (w : FaultWaiter) : State :=
  if n = 0 then s.hostReply ia w (some [])
  else if (s.region (localOf ia)).isNone || (s.region (localOf (ia + n - 1))).isNone || !s.hostKeys job ia n then s.hostReply ia w none
  else s.hostAccess s.pkg.hostNext job ia w

/-- A host access (R237): through a window of this package, it goes on here or to the package of its IA; forwarded from another one, it
goes on here, or is answered with a loss by a package in error (R277); and the answer to one that was forwarded from here goes to the host. -/
def State.hostEnters (s : State) (via : HostVia) (ia n : Nat) (write : Bool) (w : Option Nat → FaultWaiter) : State :=
  match via with
  | .window rkey => match s.hostWindow rkey ia n write with
    | none => s.hostReply ia (w none) none
    | some job =>
      if chipOf ia = s.chip then s.hostHere job ia n (w none)
      else (s.emit (.hostForward (chipOf ia) ia job (w none))).modPkg fun p => { p with hostAway := p.hostAway ++ [ia] }
  | .forwarded c job =>
    if chipOf ia ≠ s.chip ∨ c = s.chip then s
    else if s.pkg.packageError then s.hostReply ia (w (some c)) none
    else s.hostHere job ia n (w (some c))
  | .answered ok bs =>
    if s.pkg.hostAway.contains ia then
      (s.modPkg fun p => { p with hostAway := p.hostAway.erase ia }).hostReply ia (w none) (if ok then some bs else none)
    else s

/-- R237: a read by the host. -/
def execHostRdmaRead (via : HostVia) (ia : Nat) (len : Nat) (s : State) : Outcome := .next (s.hostEnters via ia len false (.hostRead len))

/-- R237, R284: a write by the host; a pip it writes was set by the host. -/
def execHostRdmaWrite (via : HostVia) (ia : Nat) (bytes : List Byte) (s : State) : Outcome :=
  .next (s.hostEnters via ia bytes.length true (.hostWrite bytes))

/-- R13, R22: an Ethernet port loses its link. -/
def execHostPortDown (port : Nat) (s : State) : Outcome :=
  .next (s.modPkg fun p => { p with hostLink := p.hostLink &&& ~~~(1#2 <<< port) })

/-- R22: an Ethernet port has its link again. -/
def execHostPortUp (port : Nat) (s : State) : Outcome :=
  .next (s.modPkg fun p => { p with hostLink := p.hostLink ||| (1#2 <<< port) })

end Sys2Proof.Machine
end

