-- ==== Sys2Proof/Machine/RegisterEvents.lean ====
section
/-! DEFINITION. Events of registers (R26, R39, R68, R94, R120, R126, R270, R279, R288): each performs the write of its
register, by the rules that a SETC follows. An event that the machine does not allow now changes nothing (log 7). -/

namespace Sys2Proof.Machine

/-- A write of control register num in strand slot n; a value that breaks the register's rule changes nothing. -/
def State.writeCtl (s : State) (n num : Nat) (v : W64) : Outcome := .next ((s.setCtl n num v).getD s)

/-- R26: a request of a mode. -/
def execEnvelopeModeWrite (mode : BitVec 2) (s : State) : Outcome := .next (s.modPkg fun p => p.requestMode mode)

/-- FEC depth of a port in a mode (R25): the deeper of the two ends' requests. -/
def portFec (step mode port : Nat) (v : W64) : W64 :=
  (v &&& ~~~0x20) ||| (if (modeValues mode).2.2.2.2.1 == 1 || Config.neighbourDeep step port then 0x20 else 0)

/-- FEC depths of the ports that are present, in a mode (R25, R26). -/
def portsFec (step mode : Nat) (ports : Tab W64) : Tab W64 :=
  ports.map fun x => if wfield x.2 0 3 = 0 then x else (x.1, portFec step mode x.1 x.2)

/-- A thermal request that was held is written once PENDING has cleared, unless its mode or SERVICE is then in force (R301). -/
def Pkg.releaseThermal (p : Pkg) : Pkg :=
  match p.thermalHeld with
  | some m => if p.envActive = m ∨ p.envActive = 3 then { p with thermalHeld := none } else { p with thermalHeld := none }.requestMode m
  | none => p

/-- R26: every step of a pending transition is done. -/
def execEnvelopeTransitionDone (s : State) : Outcome :=
  if s.pkg.envPending then
    .next (s.modPkg fun p =>
      { p with envPending := false, envActive := p.envMode, portMap := portsFec s.steps p.envMode.toNat p.portMap }.releaseThermal)
  else .next s

/-- R68: the slip limit of a strand. -/
def execWindowWrite (n : Nat) (v : W64) (s : State) : Outcome :=
  if (s.strand n).live then s.writeCtl n 0x011 v else .next s

/-- The first message for the controller that takes or reads a SEED is this one (R39). -/
def State.seedTurn (s : State) (m : DispatchMsg) : Bool :=
  (s.toDispatch.find? fun x => match x with
    | .decrement _ _ => false
    | _ => true) == some m

/-- R39: the controller performs the oldest SETC of SEED that has reached it. -/
def execSeedWrite (job : W16) (v : W64) (s : State) : Outcome :=
  if s.seedTurn (.seedWrite job v) then .next ({ s with toDispatch := s.toDispatch.erase (.seedWrite job v) }.performSeed job v)
  else .next s

/-- R270: installs or removes the trap-frame area of a strand's tile. -/
def execTrapFramesWrite (n : Nat) (v : W64) (s : State) : Outcome := s.writeCtl n 0x061 v

/-- R279: arms or disarms a tile's precise stop. -/
def execStopAtWrite (tile : Nat) (v : W64) (s : State) : Outcome := s.writeCtl (8 * tile) 0x069 v

/-- R288: clears a DETCAUSE entry of a tile, or the summary. -/
def execDetcauseClear (tile : Nat) (num : BitVec 9) (s : State) : Outcome :=
  if 0x140 ≤ num.toNat ∧ num.toNat ≤ 0x150 then s.writeCtl (8 * tile) num.toNat 0 else .next s

/-- R120: a range register of a strand. -/
def execRangeRegisterWrite (n : Nat) (num : BitVec 9) (v : W64) (s : State) : Outcome :=
  if (s.strand n).live ∧ 0x100 ≤ num.toNat ∧ num.toNat < 0x130 then s.writeCtl n num.toNat v else .next s

/-- R94: clears the flags of a tile whose bits are written as 1. -/
def execArithFlagsWrite (tile : Nat) (v : W64) (s : State) : Outcome := s.writeCtl (8 * tile) 0x012 v

/-- R126: a supervisor write of a tile-table QCW. -/
def execQcwWrite (ia : Nat) (bytes : List Byte) (s : State) : Outcome :=
  if chipOf ia = s.chip ∧ s.region (localOf ia) = some .control then .next (s.controlStore (localOf ia) bytes) else .next s

end Sys2Proof.Machine
end

