-- ==== Sys2Proof/Machine/Platform.lean ====
section
/-! DEFINITION. The platform (R11, R21, R24 to R31, R85, R292 to R303): reset, boot, firmware, heat and power, ageing, failure
and service of units. -/

namespace Sys2Proof.Machine

/-- Clusters that the next package reset keeps enabled: those without an offline tile (R29). -/
def State.keptNumbers (s : State) : List Nat :=
  (List.range s.pkg.clusters.length).filter fun c => (clusterTiles c).all fun k => !(s.tile k).offline

/-- The same by physical number. -/
def State.keptClusters (s : State) : List Nat := s.keptNumbers.map s.physOf

/-- The number that a package reset gives to tile k, if its cluster stays enabled (R28). -/
def State.renumber (s : State) (k : Nat) : Option Nat :=
  (s.keptNumbers.findIdx? fun c => c == k / 16).map fun c => 16 * c + k % 16

/-- Where a byte of memory lies after a package reset: slices keep what they hold, with pips zero; control space starts anew
(R85, R128). -/
def State.resetCell (s : State) (c : Host.Cell) : Option Host.Cell :=
  if c.1 < 0x20000000 then
    if 0xFFE00 ≤ c.1 % 0x100000 then none
    else (s.renumber (c.1 / 0x100000)).map fun k => (0x100000 * k + c.1 % 0x100000, c.2)
  else if c.1 < 0x200000000 then none
  else some c

/-- The units of the package as a reset finds them (R3: the fields marked fw). -/
def Pkg.atReset (p : Pkg) (clusters : List Nat) : Pkg :=
  { clusters := clusters, spares := p.spares, hbmOff := p.hbmOff, lpddrGib := p.lpddrGib, cxlLinked := p.cxlLinked
    cxlWidth := p.cxlWidth, poolGib := p.poolGib
    coord := p.coord, hostLink := p.hostLink, envMode := p.envActive, envActive := p.envActive, powerLimit := p.powerLimit
    images := p.images, svnMin := p.svnMin, accepted := p.accepted
    secret := p.secret, vendorDigest := p.vendorDigest, vendorKey := p.vendorKey, identity := shake256 p.secret 32 }

/-- Where a package reset leaves an uncorrectable unit of a slice: no write covers it but that of the pips (R85, R147). -/
def State.resetUnit (s : State) (u : Nat × Nat) : Option (Nat × Nat) :=
  if u.1 < 0x20000000 then
    if 0xFFE00 ≤ u.1 % 0x100000 then none
    else (s.renumber (u.1 / 0x100000)).map fun k => (0x100000 * k + u.1 % 0x100000, u.2)
  else some u

/-- R85, R28: package reset. What no rule changes stays: memory, FRAME, the units' sizes; the tiles start anew, and the identity seed
is derived afresh (R295). -/
def execPackageReset (s : State) : Outcome :=
  let subst := s.tiles.filter fun t => t.2.spareSubst
  .next
    { pkg := { s.pkg.atReset s.keptClusters with
        frame := s.frame, portMap := s.pkg.portMap.map fun x => (x.1, x.2 &&& 0xFFFF0000FFFFFFFF), badUnits := s.pkg.badUnits.filterMap s.resetUnit }
      tiles := subst.foldl (fun t x => match s.renumber x.1 with
        | some k => Tab.put t k { spareSubst := true, sparePos := x.2.sparePos }
        | none => t) []
      mem := s.mem.filterMap s.resetCell
      msgNext := s.msgNext, out := s.out, agenda := s.agenda, steps := s.steps }

/-- The package without power: what is fused or built in stays, all other state is lost (R301). -/
def State.lost (s : State) (power : Power) : State :=
  { pkg := { s.pkg.atReset s.keptClusters with
      power := power, images := [], accepted := [], envMode := 0, envActive := 0, vendorKey := []
      identity := if power = .off then [] else shake256 s.pkg.secret 32 }
    tiles := (s.tiles.filter fun t => t.2.spareSubst).foldl (fun t x => match s.renumber x.1 with
        | some k => Tab.put t k { spareSubst := true, sparePos := x.2.sparePos }
        | none => t) []
    msgNext := s.msgNext, out := s.out, agenda := s.agenda, steps := s.steps }

/-- An image from its bytes: the header of 4,096, and LENGTH bytes of body (R292). -/
def imageOf (bs : List Byte) : FwImage :=
  let length : W32 := BitVec.ofNat 32 (fieldAt bs 0xC 4)
  { magic := BitVec.ofNat 32 (fieldAt bs 0 4), unit := bs.getD 4 0, reservedZero := allZero bs 5 3 && allZero bs 0xD3D 707
    svn := BitVec.ofNat 32 (fieldAt bs 8 4), length := length, body := (bs.drop 4096).take length.toNat
    digest := BitVec.ofNat 512 (ofBytes ((bs.drop 0x10).take 64)), signature := (bs.drop 0x50).take 3309 }

/-- The vendor key of a root block (R292). -/
def flashKey (f : Flash) : List Byte := (f.root.drop 0x100).take 1952

/-- Bytes 0x000 to 0x04F of an image's header (R292). -/
def imageHead (i : FwImage) : List Byte :=
  toBytes 4 i.magic.toNat ++ [i.unit, 0, 0, 0] ++ toBytes 4 i.svn.toNat ++ toBytes 4 i.length.toNat ++ toBytes 64 i.digest.toNat

/-- An image that the boot ROM or the management controller accepts for a unit (R292, R293). -/
def Pkg.accepts (p : Pkg) (unit : Nat) (i : FwImage) : Bool :=
  i.magic == 0x4B465749 && i.unit.toNat == unit && i.reservedZero && decide (1 ≤ i.length.toNat ∧ i.length.toNat ≤ 2 ^ 24) &&
    i.body.length == i.length.toNat && i.signature.length == 3309 && shake256 i.body 64 == toBytes 64 i.digest.toNat &&
    Config.mldsaVerifies p.vendorKey (imageHead i) i.signature && decide (Tab.get 0 p.svnMin unit ≤ i.svn)

/-- The boot ROM accepts the vendor key of the root block when its digest is the fused one (R292). -/
def Pkg.trusts (p : Pkg) (key : List Byte) : Bool := key.length == 1952 && shake256 key 32 == p.vendorDigest

/-- The accepted copies by unit, in the order 5, 1, 2, 4, 3, copy A before copy B (R293). -/
def Pkg.bootImages (p : Pkg) : List Nat → List (FwImage × FwImage) → Option (Tab FwImage)
  | [], [] => some []
  | u :: us, (a, b) :: rest =>
    (if p.accepts u a then some a else if p.accepts u b then some b else none).bind fun i =>
      (p.bootImages us rest).map fun t => Tab.put t u i
  | _, _ => none

/-- The chip at the other end of a port of a face, in a domain whose extent along its dimension is n (R12). -/
def State.neighbour (s : State) (port : Nat) : Nat :=
  let dim := port / 32
  let n := wfield s.pkg.coord (15 + 3 * dim) 3 + 1
  let x := s.chip / 8 ^ dim % 8
  s.chip - x * 8 ^ dim + (if port / 16 % 2 = 0 then x + 1 else x + n - 1) % n * 8 ^ dim

/-- PORT_MAP of a port as boot firmware sets it: within the register's fields, its neighbour by R12, its FEC depth by R25, and ABSENT
where the domain has extent 1 (R12, R21). -/
def State.bootPort (s : State) (port : Nat) : W64 :=
  let v := Config.bootPort s.steps port
  if wfield s.pkg.coord (15 + 3 * (port / 32)) 3 = 0 then 0
  else
    portFec s.steps s.pkg.envActive.toNat port
      (BitVec.ofNat 64 (1 + wfield v 0 3 % 2 + wfield v 3 2 % 3 * 8 + s.neighbour port * 2 ^ 8 + wfield v 17 7 % 96 * 2 ^ 17))

/-- CXL_PORTS.WIDTH as the linked ports train at power-on (R11). -/
def State.cxlTrained (s : State) : BitVec 8 :=
  BitVec.ofNat 8 (((List.range 4).map fun j =>
    if s.pkg.cxlLinked.getLsbD j then (1 + Config.cxlTrained s.steps j % 3) * 4 ^ j else 0).sum)

/-- R293, R292: at power-on the vendor key and each unit's image are verified; when one is not, the package stays in RECOVERY. The
identity seed is derived (R295), and the CXL ports train (R11). -/
def execBoot (flash : Flash) (s : State) : Outcome :=
  let p := { s.pkg with vendorKey := flashKey flash }
  if s.pkg.power = .on then .next s
  else match if p.trusts (flashKey flash) then p.bootImages [5, 1, 2, 4, 3] (flash.images.map fun x => (imageOf x.1, imageOf x.2)) else none with
  | none => .next (s.lost .recovery)
  | some t =>
    let s := s.lost .on
    let ports := ((List.range 96).map fun i => (i, s.bootPort i)).filter fun x => x.2 != 0
    .next (s.modPkg fun p =>
      { p with images := t, accepted := t.map fun x => (x.1, x.2.svn), portMap := ports, vendorKey := flashKey flash, cxlWidth := s.cxlTrained })

/-- R301: at 115 °C a hardware trip removes core power. -/
def execThermalTrip (temp : Nat) (s : State) : Outcome := if temp < 115 then .next s else .next (s.lost .off)

/-- A mode that the management controller requests for heat (R301): COOL not while COOL or SERVICE is ACTIVE; held while a transition is
pending. -/
def Pkg.requestThermal (p : Pkg) (m : BitVec 2) : Pkg :=
  if m = 2 ∧ (p.envActive = 2 ∨ p.envActive = 3) then p
  else if p.envPending then { p with thermalHeld := if p.thermalHeld = some 3 then some 3 else some m }
  else p.requestMode m

/-- R301: the hottest junction is read; at 100 °C COOL is requested, at 110 °C SERVICE, and at 115 °C the trip removes core power. -/
def execThermalModeRequest (temp : Nat) (s : State) : Outcome :=
  if 115 ≤ temp then .next (s.lost .off)
  else
  let s := s.modPkg fun p => { p with tempC := BitVec.ofNat 8 (min temp 255) }
  .next (if 110 ≤ temp then s.modPkg fun p => p.requestThermal 3
    else if 100 ≤ temp then s.modPkg fun p => p.requestThermal 2 else s)

/-- R299, R300: array steps and vector issue are gated, for so many times 1,024 cluster-cycles; the power over the last
millisecond. -/
def execPowerGating (gated watts : Nat) (s : State) : Outcome :=
  .next (s.modPkg fun p =>
    { p with powerGated := BitVec.ofNat 32 (min (p.powerGated.toNat + gated) 0xFFFFFFFF)
             powerW := BitVec.ofNat 12 (min watts p.powerLimit.toNat) })

/-- The die of tile k (R7). -/
def State.dieOf (s : State) (k : Nat) : Nat := wfield (BitVec.ofNat 64 (s.tileSelf k)) 24 2
/-- Number of the monitor of the tile that serves tile number k, by its physical position: its place in the logical grid, or the spare's
(R302; log 49). -/
def State.monitorOf (s : State) (k : Nat) : Nat :=
  let v := BitVec.ofNat 64 (s.tileSelf k)
  136 * s.dieOf k + if (s.tile k).spareSubst then (s.tile k).sparePos else 8 * (wfield v 19 5 % 16) + wfield v 15 4 % 8

/-- Address of a monitor's entry (R302). -/
def monitorAt (m : Nat) : Nat := 0x180008000 + 16 * m

/-- The bytes of a monitor's entry (R302, R303). -/
def monitorBytes (osc margin days updated : Nat) (offline : Bool) : List Byte :=
  toBytes 4 osc ++ toBytes 2 margin ++ toBytes 2 days ++ toBytes 4 updated ++
    toBytes 4 (if offline then 3 else if days < 30 then 2 else if days < 365 then 1 else 0)

/-- A recalibration raises MARGIN and may raise EOL_DAYS (R303). -/
def State.recalibrate (s : State) (m : Nat) : State :=
  let rise := Config.marginRise s.steps m
  let a := monitorAt m
  if rise = 0 then s
  else s.poke a (monitorBytes (s.readNum a 4) (min (s.readNum (a + 4) 2 + rise) 65535)
    (min (s.readNum (a + 6) 2 + Config.daysRise s.steps m) 65535) (s.readNum (a + 8) 4) (s.readNum (a + 0xC) 1 == 3))

/-- R303: once 2^32 FRAME cycles have passed since its last update, a monitor's entry is published anew, and its state follows the days
that remain. -/
def execAgeingMonitorUpdate (monitor : Nat) (oscKhz : W32) (margin : W16) (eolDays : Nat) (s : State) : Outcome :=
  if 604 ≤ monitor ∨ s.readNum (monitorAt monitor + 8) 4 = wfield s.frame 32 32 then .next s
  else
    let off := s.tiles.any fun t => t.2.offline && s.monitorOf t.1 == monitor
    let s := s.poke (monitorAt monitor) (monitorBytes oscKhz.toNat margin.toNat (min eolDays 65535) (wfield s.frame 32 32) off)
    .next (if !off && decide (eolDays < 30) then s.emit (.notify 0x30) else s)

/-- A request that the management controller gets back refused (R30, R31, R297). -/
def State.refuse (s : State) : State := s.emit (.notify 0x31)

/-- A unit's service action starts, unless one is under way (R31). -/
def State.startAction (s : State) (unit : Nat) (k : State → State) : State :=
  if s.pkg.drains.contains unit then s.refuse
  else k (s.modPkg fun p => { p with drains := p.drains ++ [unit] })

/-- Tasks with a member on tile k. -/
def State.tasksOn (s : State) (k : Nat) : List Nat :=
  (s.tasks.filter fun t => t.2.members.any fun m => m.slot.elim false (fun n => n / 8 == k) ||
    m.record.elim false fun r => r.1 == k).map (·.1)

/-- Pre-emption of the running tasks of tile k (R30, R252). -/
def State.preemptTile (s : State) (k : Nat) : State :=
  (s.tasksOn k).foldl (fun s tid =>
    if (s.task tid).state = .running then s.modTask tid fun t => { t with preempting := true } else s) s

/-- A tile in service whose strands and commands have left. -/
def State.drained (s : State) (k : Nat) : Bool :=
  (List.range 8).all (fun j => !(s.strand (8 * k + j)).live) && (s.tile k).cmds.all fun c => c.state != .running && c.state != .publishing

/-- Spares of a die that no tile in service is to take (R29, R30). -/
def State.sparesFree (s : State) (die : Nat) : Nat :=
  s.pkg.spares.getD die 0 - (s.tiles.filter fun t => t.2.draining && s.dieOf t.1 == die).length

/-- R30: the service of a tile starts; or, once its tasks have left it, the spare takes its place. -/
def State.tileAction (s : State) (k : Nat) : State :=
  let die := s.dieOf k
  if (s.tile k).draining then
    if s.drained k then
      (s.modTile k fun t => { t with draining := false, spareSubst := true, sparePos := 127 + s.pkg.spares.getD die 0 }).modPkg fun p =>
        { p with spares := p.spares.set die (p.spares.getD die 0 - 1) }
    else s.refuse
  else if s.sparesFree die = 0 ∨ (s.tile k).offline then s.refuse
  else (s.modTile k fun t => { t with draining := true }).preemptTile k

/-- R30. -/
def execTileService (tile : Nat) (s : State) : Outcome :=
  if s.tileCount ≤ tile then .next s else .next (s.tileAction tile)

/-- R29: a failing tile is replaced by a spare of its die under the service sequence, or goes offline: its tasks end with
MEMERR. -/
def execTileFailure (tile : Nat) (s : State) : Outcome :=
  if s.tileCount ≤ tile ∨ (s.tile tile).offline ∨ (s.tile tile).draining then .next s
  else if s.sparesFree (s.dieOf tile) ≠ 0 then .next (s.tileAction tile)
  else
    let s := s.modTile tile fun t => { t with offline := true }
    let s := (s.tasksOn tile).foldl (fun s tid =>
      if (s.task tid).state = .done then s
      else s.faultTask tid 3
        { cause := 0xA, source := 0x20, flags := 4, addr := BitVec.ofNat 64 (s.sliceBase tile), task := (s.task tid).id
          job := (s.task tid).job, tile := tile, detail := toBytes 8 (s.sliceBase tile) ++ toBytes 4 0x100000 }) s
    .next (s.poke (monitorAt (s.monitorOf tile) + 0xC) [3])

/-- A memory channel or CXL port is to be emptied; refused when the frames that are free elsewhere are too few (R30, which says so of
channels: that a CXL port is refused too is the model's choice, log 49). -/
def State.drainUnit (s : State) (kind unit freeFrames : Nat) : State :=
  if freeFrames < Config.channelPages s.steps kind unit then s.refuse else s.startAction (1024 * kind + unit) id

/-- R30: an HBM channel's pages go to other channels. -/
def execHbmChannelService (freeFrames channel : Nat) (s : State) : Outcome :=
  if 384 ≤ channel then .next s else if s.pkg.hbmOff.contains channel then .next s.refuse else .next (s.drainUnit 0 channel freeFrames)

/-- R30: an LPDDR channel's pages go to other channels. -/
def execLpddrChannelService (freeFrames channel : Nat) (s : State) : Outcome :=
  if 16 ≤ channel then .next s else if s.pkg.lpddrGib.getD channel 0 = 0 then .next s.refuse else .next (s.drainUnit 1 channel freeFrames)

/-- R30: a CXL port's pooled pages migrate. -/
def execCxlPortService (freeFrames port : Nat) (s : State) : Outcome :=
  if 4 ≤ port ∨ !s.pkg.cxlLinked.getLsbD port then .next s else .next (s.drainUnit 2 port freeFrames)

/-- A change of capacity leaves every page that maps in an installed frame: its pages have migrated first (R30, R31). -/
def State.fits (s s' : State) : Bool := s.leaves.all (fun l => s'.frameInstalled l.frame l.size) && s.pkg.migrations.isEmpty

/-- The drain of a channel or port is complete, and the package changes so, with `k` after it; what migrated away must have gone (R30,
R31). -/
def State.drainDone (s : State) (unit : Nat) (f : Pkg → Pkg) (k : State → State := id) : Outcome :=
  let s' := s.modPkg fun p => f { p with drains := p.drains.erase unit }
  .next (if s.pkg.drains.contains unit && s.fits s' then k s' else s)

/-- R30: the drain of a channel is complete: the channel is no longer enabled, and its stack may be recalibrated (R303). A CXL port goes down: the pool loses what it mapped
there, and holds at most 4 TiB for each port that is left (R10). -/
def execDrainComplete (unit : DrainUnit) (s : State) : Outcome :=
  match unit with
  | .hbmChannel c => s.drainDone c (fun p => { p with hbmOff := p.hbmOff ++ [c] }) fun s => s.recalibrate (544 + c / 32)
  | .lpddrChannel c => s.drainDone (1024 + c) fun p => { p with lpddrGib := p.lpddrGib.set c 0 }
  | .cxlPort port gib => s.drainDone (2048 + port) fun p =>
      let p := { p with cxlLinked := p.cxlLinked &&& ~~~(1#4 <<< port), cxlWidth := p.cxlWidth &&& ~~~(3#8 <<< (2 * port)) }
      { p with poolGib := min (p.poolGib - gib) p.poolMost }

/-- Changes PORT_MAP of a port. -/
def State.modPort (s : State) (port : Nat) (f : W64 → W64) : State :=
  s.modPkg fun p => { p with portMap := Tab.put p.portMap port (f (Tab.get 0 p.portMap port)) }

/-- R30: the phases of a fabric port's service, UP, DRAINING, SERVICE, TRAINING and UP again; its quad may be recalibrated (R303). Whether the training that ends a service
counts in RETRAINS the spec does not say: the model does not count it (DESIGN CHOICE, log 49). -/
def execFabricPortService (port : Nat) (phase : PortPhase) (s : State) : Outcome :=
  let st := portState (Tab.get 0 s.pkg.portMap port)
  let under := s.pkg.drains.contains (3072 + port)
  if 96 ≤ port then .next s
  else match phase with
  | .drain => if under then .next s.refuse
      else if st = 2 then .next (s.startAction (3072 + port) fun s => s.modPort port fun v => setPortState v 3) else .next s
  | .service => if under ∧ st = 3 then .next (s.modPort port fun v => setLanes (setPortState v 5) 0) else .next s
  | .train => if under ∧ st = 5 then .next (s.modPort port fun v => setPortState v 1) else .next s
  | .up => if under ∧ st = 1 then
        let n := if Config.trainsWide s.steps port then 2 else 1
        let s := (s.modPort port fun v => portFec s.steps s.pkg.envActive.toNat port (setLanes (setPortState v 2) n)).modPkg fun p =>
          { p with drains := p.drains.erase (3072 + port) }
        .next (s.recalibrate (556 + port / 2))
      else .next s

/-- R21: a link retrains outside a service action, at the deeper FEC of what its two ends ask for then (R25). -/
def execLinkRetraining (port : Nat) (lanes : BitVec 2) (state : BitVec 3) (s : State) : Outcome :=
  let v := Tab.get 0 s.pkg.portMap port
  if 96 ≤ port ∨ portState v = 0 ∨ s.pkg.drains.contains (3072 + port) ∨ lanes = 3 ∨ !(state == 1 || state == 2 || state == 4) then .next s
  else
    let n := min (wfield v 32 16 + 1) 0xFFFF
    .next (s.modPort port fun v =>
      (portFec s.steps s.pkg.envActive.toNat port (setLanes (setPortState v state.toNat) lanes.toNat) &&& 0xFFFF0000FFFFFFFF) +
        BitVec.ofNat 64 (2 ^ 32 * n))

/-- Device memory of the package in which n bytes of an image lie, all of them mapped and readable (R297; log 48). -/
def State.holdsImage (s : State) (ia n : Nat) : Bool :=
  chipOf ia == s.chip && s.regionOf ia == some .memory && s.regionOf (ia + n - 1) == some .memory && s.placed (localOf ia) n false &&
    (s.uncorrectable ia n).isNone

/-- The image at an IA (R292, R297). -/
def State.imageAt (s : State) (ia : Nat) : Option FwImage :=
  if !s.holdsImage ia 4096 then none
  else
    let head := s.readIA ia 4096
    let n := fieldAt head 0xC 4
    if n = 0 ∨ 2 ^ 24 < n ∨ !s.holdsImage (ia + 4096) n then none else some (imageOf (head ++ s.readIA (ia + 4096) n))

/-- Instances of a unit with firmware, which are replaced one at a time (R297). -/
def fwInstances (unit : Nat) : Nat := if unit = 2 then 32 else if unit = 4 then 12 else 1

/-- A request to replace a unit's firmware is verified under R293, or refused; so is a second one for a unit (R31, R297). The image in
force from State.reset on is an accepted one (R294). -/
def State.fwRequest (s : State) (unit ia : Nat) : State :=
  match s.imageAt ia with
  | some i =>
    if 1 ≤ unit ∧ unit ≤ 5 ∧ s.pkg.accepts unit i ∧ (Tab.find s.pkg.replacing unit).isNone then
      s.modPkg fun p =>
        { p with replacing := Tab.put p.replacing unit ⟨ia, i, 0⟩
                 accepted := p.accepted ++ (if (Tab.find p.images unit).isNone then [(unit, Config.bootSvn unit)] else []) ++ [(unit, i.svn)] }
    else s.refuse
  | none => s.refuse

/-- The next instance of a unit loads the new image, whose digest is checked again, and resumes with the requests that it held; with the
last one the image is in force (R296, R297). Where the digest no longer matches, the old image stays (log 48). -/
def State.fwLoad (s : State) (unit : Nat) : State :=
  match Tab.find s.pkg.replacing unit with
  | none => s
  | some w =>
    let done (s : State) : State := (s.modPkg fun p => { p with replacing := Tab.del p.replacing unit }).serveHeld
    if (s.imageAt w.ia).any fun i => shake256 i.body 64 == toBytes 64 w.image.digest.toNat then
      if w.number + 1 < fwInstances unit then
        (s.modPkg fun p => { p with replacing := Tab.put p.replacing unit { w with number := w.number + 1 } }).serveHeld
      else done (s.modPkg fun p => { p with images := Tab.put p.images unit w.image })
    else (done s).refuse

/-- R297: a unit's image is verified, and replaced instance by instance, or the request is refused. -/
def execFirmwareReplacement (phase : FwPhase) (s : State) : Outcome :=
  match phase with
  | .request unit ia => .next (s.fwRequest unit.toNat ia)
  | .load unit => .next (s.fwLoad unit.toNat)

/-- R294: a unit's fused minimum rises, to the SVN of an image accepted for it. -/
def execSvnMinimumRaise (unit : Byte) (svn : W32) (s : State) : Outcome :=
  let first := (Tab.find s.pkg.images unit.toNat).isNone && svn == Config.bootSvn unit.toNat
  if 1 ≤ unit.toNat ∧ unit.toNat ≤ 5 ∧ (s.pkg.accepted.contains (unit.toNat, svn) || first) = true ∧ Tab.get 0 s.pkg.svnMin unit.toNat < svn then
    .next (s.modPkg fun p => { p with svnMin := Tab.put p.svnMin unit.toNat svn })
  else .next s

/-- R296, R295: the report of the images in force, signed with the identity key. -/
def execAttestationRequest (nonce : Nat) (s : State) : Outcome :=
  let units := (List.range 5).flatMap fun i => match Tab.find s.pkg.images (i + 1) with
    | some f => toBytes 1 (i + 1) ++ toBytes 4 f.svn.toNat ++ toBytes 64 f.digest.toNat
    | none => toBytes 1 (i + 1) ++ toBytes 4 (Config.bootSvn (i + 1)).toNat ++ toBytes 64 (Config.bootDigest (i + 1)).toNat
  let report := toBytes 32 nonce ++ toBytes 2 s.chip ++ toBytes 8 s.pkg.envelope ++ units
  .next (s.emit (.attestation report (Config.mldsaSign s.pkg.identity report s.steps)))

/-- R11: a dynamic capacity extent is added or released. The pool holds at most 4 TiB for each linked port (R10); what becomes of an
extent that would pass this the spec does not say, and the model adds it up to the limit (DESIGN CHOICE, log 49). -/
def execDynamicCapacityExtent (gib : Int) (s : State) : Outcome :=
  let s' := s.modPkg fun p => { p with poolGib := min ((p.poolGib : Int) + gib).toNat p.poolMost }
  if s.fits s' then .next s' else .next s

end Sys2Proof.Machine
end

