-- ==== Sys2Proof/Machine/Auto.lean ====
section
/-! DEFINITION. Which agent moves when the agenda names none: each agent that may have something to do takes its turn, by the
number of the step (R148; log 1). A turn that finds nothing to do changes nothing. -/

namespace Sys2Proof.Machine

/-- Turns of the strand in slot n: landings, the commit of a departure, and a word of each engine. -/
def strandTurns (n : Nat) (t : Strand) : List Turn :=
  (t.flights.map fun f => Turn.land n f.engine) ++
  (if t.departing.isSome then [.event (.departureCommit n)] else []) ++
  (if t.ecmdSince.isSome then [.event (.ecmdQueueTimeout n)] else []) ++
  if t.live then [.word n .s, .word n .l, .word n .a, .word n .w, .event (.ringDeadlockDetect n)] else []

/-- The event of a message in flight within the package (R148). -/
def messageTurn (m : Msg) : Turn :=
  .event (match m.body with
    | .store _ _ => .remoteStoreArrival m
    | .storeRest _ _ => .remoteStoreArrival m
    | .publish _ => .remoteStoreArrival m
    | .amo _ _ _ _ _ r => if r then .remoteLoadRequest m else .remoteAmoArrival m
    | .xadd _ _ _ => .remoteAmoArrival m
    | .load _ _ _ => .remoteLoadRequest m
    | .loadRest _ _ _ _ => .remoteLoadRequest m
    | .fladd _ _ _ => .remoteFladdArrival m
    | .putf _ _ _ => .remotePutfArrival m
    | .wait _ _ => .remoteWaitRequest m
    | .reply _ _ _ _ => .replyArrival m
    | .ack _ => .replyArrival m
    | .answer _ _ _ _ _ => .watchAnswer m
    | .failed _ _ _ _ => .postedFailureReport m
    | .task _ => .replyArrival m
    | .coll _ => .replyArrival m
    | .tdec _ => .replyArrival m)

/-- The event of a message on its way to the dispatch controller (R39). -/
def dispatchTurn (m : DispatchMsg) : Turn :=
  .event (match m with
    | .seedWrite job v => .seedWrite job v
    | .amsg m => .amsgArrival m
    | .decrement copy job => .taskDecrement copy job false)

/-- The event that starts a command of a kind (R86). -/
def startEvent (kind : Nat) (r : CmdRef) : Instr :=
  match kind with
  | 1 => .cpy r
  | 2 => .cpyg r
  | 3 => .cpys r
  | 4 => .mma r
  | 5 => .mrg r
  | 6 => .sisect r
  | 7 => .mskev r
  | 8 => .epil r
  | 9 => .coll r
  | _ => .qctlSpill r

/-- Turns of a command. -/
def commandTurns (k : Nat) (c : Cmd) : List Turn :=
  let r : CmdRef := ⟨k, c.seq⟩
  match c.state with
  | .queued => [.event (.copyAgePromotion r), .event (.stampEdge r), .event (startEvent (fieldAt c.bytes 0 1) r)]
  | .running => [.event (startEvent (fieldAt c.bytes 0 1) r), .event (.commandCompletion r)]
  | .stopped => [.event (startEvent (fieldAt c.bytes 0 1) r)]
  | .publishing => [.event (.commandCompletion r)]

/-- Turns of tile k. -/
def tileTurns (k : Nat) (t : Tile) : List Turn :=
  (t.cmds.flatMap (commandTurns k)) ++
  (if t.recs.any fun r => r.readyAt.isSome && !r.gone then (List.range 8).map fun j => Turn.event (.relaunch (8 * k + j)) else []) ++
  ((t.recs.filter fun r => r.backoffAt.isSome).map fun r => Turn.event (.backoffExpiry k r.num)) ++
  (if t.swaps.isEmpty then [] else [.event (.accswapAtQuiescence k)]) ++
  (if t.stopAt.getLsbD 63 || t.stopEdge.isSome then [.event (.stopAtExpiry k)] else []) ++
  (if field t.traceCtl.toNat 11 5 = 0 then [] else [.event (.traceSample k)]) ++
  (if t.traceBuf.isEmpty then [] else [.trace k])

/-- Turns of a task. -/
def taskTurns (tid : Nat) (t : Task) : List Turn :=
  match t.state with
  | .staging => [.event (.stagingComplete tid)]
  | .ready => [.event (.dispatch t.cluster), .event (.priorityAgeing tid), .event (.agePreemption tid)]
  | .running => if t.preempting then [.event (.preemption tid []), .event (.preemptionComplete tid)] else []
  | .preempted => [.event (.preemption tid []), .event (.preemptionComplete tid)]
  | .retiring => [.event (.taskRetirement tid)]
  | _ => []

/-- Turns of the package's own units. -/
def packageTurns (p : Pkg) (chip : Nat) : List Turn :=
  (p.migrations.map fun m => Turn.event (.migrationComplete m.page)) ++
  (if p.hints.isEmpty && p.toPromote.isEmpty then [] else [.event .expertHintApply]) ++
  (if p.envPending then [.event .envelopeTransitionDone] else []) ++
  (if chip = 0 then [.event .wavePass] else []) ++ [.event (.loadReport chip 0)] ++
  (if wfield p.coord 15 9 = 0 ∧ !p.wave.snap.isEmpty then [.event (.waveSnapshot false [])] else []) ++
  (List.range p.clusters.length).map fun c => .event (.clusterSteal c)

/-- All turns that may have something to do. -/
def State.turns (s : State) : List Turn :=
  (s.strands.flatMap fun x => strandTurns x.1 x.2) ++ s.msgs.map messageTurn ++ s.toDispatch.map dispatchTurn ++
  (s.tiles.flatMap fun x => tileTurns x.1 x.2) ++ (s.tasks.flatMap fun x => taskTurns x.1 x.2) ++
  ((s.jobs.filter fun j => !j.2.heldErrors.isEmpty).map fun j => Turn.event (.heldErrorRecordPost (BitVec.ofNat 16 j.1))) ++
  ((List.range 16).flatMap fun q =>
    if (s.readNum (0x180003000 + 32 * q + 0xC) 1) % 2 = 1 then
      [.event (.launchTask q), .event (.launchGraph q), .event (.trackReset (.queue q)), .event (.endJob (.queue q))] else []) ++
  ((s.tiles.filter fun x => x.2.draining && s.drained x.1).map fun x => Turn.event (.tileService x.1)) ++ packageTurns s.pkg s.chip

/-- The turn that the model takes when the agenda is empty. -/
def State.autoTurn (s : State) : Option Turn :=
  let ts := s.turns
  ts[s.steps % max ts.length 1]?

end Sys2Proof.Machine
end

