-- ==== Sys2Proof/Machine/Debug.lean ====
section
/-! DEFINITION. Debug (R279 to R285, R289): precise stops, what Heltis does to a stopped tile, dumps on request, PC samples. -/

namespace Sys2Proof.Machine

/-- R280: FRAME has reached the value at which STOP_AT, or a request of Heltis, stops the tile. -/
def execStopAtExpiry (tile : Nat) (s : State) : Outcome :=
  let t := s.tile tile
  let armed := t.stopAt.getLsbD 63 && decide (wfield t.stopAt 0 63 ≤ s.frame.toNat)
  let asked := t.stopEdge.elim false fun f => decide (f ≤ s.frame)
  if t.stopped || !s.stopDue tile then .next s
  else
    .next ((s.stopTile tile).modTile tile fun t =>
      { t with stopAt := if armed then t.stopAt &&& 0x7FFFFFFFFFFFFFFF else t.stopAt, stopEdge := if asked then none else t.stopEdge })

/-- R280: Heltis asks for a stop; one of more than a tile names a FRAME at least 4,096 cycles ahead. -/
def execHeltisStopRequest (tiles : List Nat) (frame : W64) (s : State) : Outcome :=
  if 1 < tiles.length ∧ frame.toNat < s.frame.toNat + 4096 then .next s
  else .next ((tiles.filter fun k => decide (k < s.tileCount)).foldl (fun s k =>
    if (s.tile k).stopped then s
    else if frame ≤ s.frame then s.stopTile k
    else s.modTile k fun t => { t with stopEdge := some frame }) s)

/-- R282: a stopped tile goes on from where it stood, and what its port held goes on; after a package error only a package reset
ends the stop (R277). -/
def execHeltisResume (tile : Nat) (s : State) : Outcome :=
  let t := s.tile tile
  if !t.stopped || s.pkg.packageError then .next s
  else
    let c := s.tileCycles tile
    let lost := s.pkg.cycles - t.cycleOff - c
    .next (((s.modTile tile fun t => { t with stopped := false, cycleHeld := none, cycleOff := s.pkg.cycles - c }).count tile 0x18 lost).hostRetry.dumpsOn none)

/-- One result in flight in a stop image (R281), the i-th. -/
def State.imageEntry (s : State) (slot : Nat) (f : Flight) (i : Nat) : List Byte :=
  let head (reg : Nat) (lanes : Nat) : List Byte :=
    toBytes 1 slot ++ toBytes 1 (engineIdx f.engine).val ++ toBytes 1 reg ++ toBytes 1 0 ++
      toBytes 4 (Config.remaining s.steps i).toNat ++ toBytes 8 lanes
  match f.dest with
  | some (.s r) => head r.toNat 1 ++ wordBytes f.sval
  | some (.v r) => head (32 + r.toNat) 0xFFFFFFFFFFFFFFFF ++ f.vval.toList.flatMap fun w => toBytes 4 w.toNat
  | none => []

/-- The register results in flight of a tile's stop image (R281). -/
def State.stopImage (s : State) (k : Nat) : List Byte :=
  ((List.range 8).flatMap fun j => ((s.strand (8 * k + j)).flights.filter fun f => f.dest.isSome).map fun f => (j, f)).zipIdx.flatMap
    fun x => s.imageEntry x.1.1 x.1.2 x.2

/-- R280: Heltis reads or writes a stopped tile's registers and PCs, memory by IA, or its stop image. The debug registers of a tile it
writes also while the tile runs (R279, R283). -/
def execHeltisAccess (tile : Nat) (op : HeltisOp) (s : State) : Outcome :=
  let at_ (slot : Nat) : Strand := s.strand (8 * tile + slot % 8)
  let put (slot : Nat) (f : Strand → Strand) : Outcome := .next (s.modStrand (8 * tile + slot % 8) f)
  let data (bs : List Byte) : Outcome := .next (s.emit (.heltisData bs))
  if !(s.tile tile).stopped then
    match op with
    | .writeCtl slot num v => if 0x066 ≤ num.toNat ∧ num.toNat ≤ 0x069 then .next ((s.setCtl (8 * tile + slot % 8) num.toNat v).getD s) else .next s
    | _ => .next s
  else match op with
  | .readMem ia n => data (s.readIA ia n)
  | .writeMem ia bs => .next (if chipOf ia = s.chip then (s.pipsSetBy 3 (localOf ia) bs.length).store ia bs else s.emit (.publish (chipOf ia) [(ia, bs)]))
  | .readS slot r => data (wordBytes ((at_ slot).sreg r))
  | .writeS slot r v => put slot fun t => t.setS r v
  | .readV slot r => data ((at_ slot).vreg r |>.toList.flatMap fun w => toBytes 4 w.toNat)
  | .writeV slot r v => put slot fun t => t.setV r v
  | .readP slot r => data (wordBytes ((at_ slot).preg r))
  | .writeP slot r v => put slot fun t => t.setP r v
  | .readB slot r => data (wordBytes ((at_ slot).breg r))
  | .writeB slot r v => put slot fun t => t.setB r v
  | .readPc slot e => data (toBytes 4 ((at_ slot).pc e).toNat)
  | .writePc slot e v => put slot fun t => t.setPc e v
  | .readCtl slot num => data (if ctlAssigned num.toNat then wordBytes (s.getCtl (8 * tile + slot % 8) num.toNat) else [])
  | .writeCtl slot num v =>
    if ctlAssigned num.toNat then .next ((s.setCtl (8 * tile + slot % 8) num.toNat v).getD s) else .next s
  | .stopImage => .next (s.emit (.stopImage s.chip tile (s.tile tile).stoppedAt (s.stopImage tile)
      ((List.range (64 * Config.imageGranules s.steps)).map fun i => Config.privateByte (s.steps * 64 + i))))

/-- R289: Heltis asks for a dump of a task, through a valid descriptor of its tracking slot on which no dump is in progress; no
fault record belongs to it, and the tile that it names is that of the task's first member (log 15). -/
def execHeltisDumpRequest (task : Nat) (s : State) : Outcome :=
  if (Tab.find s.tasks task).isSome && bitAt (s.readNum (0x180007000 + 32 * s.dumpSlot task + 16) 1) 0 && !s.dumpBusy task then
    .next (s.dump task (s.task task).firstTile ((List.range 64).map fun i => Config.privateByte (s.steps * 64 + i)))
  else .next s

/-- R283: a PC sample is written once in every 2^SAMPLE_LOG2 FRAME cycles. -/
def execTraceSample (tile : Nat) (s : State) : Outcome :=
  let n := field (s.tile tile).traceCtl.toNat 11 5
  if n < 10 ∨ s.halted tile ∨ s.frame.toNat / 2 ^ n = (s.tile tile).sampledAt.toNat / 2 ^ n then .next s
  else
    .next ((s.modTile tile fun t => { t with sampledAt := s.frame }).trace tile 9 0
      ((List.range 16).map fun i => Config.privateByte (s.steps * 16 + i)))

end Sys2Proof.Machine
end

