-- ==== Sys2Proof/Machine/Scalar.lean ====
section
/-! DEFINITION. Scalar words of the S engine (R312; 14 to 16): arithmetic, logic, shifts, comparison, constants, bit fields. -/

namespace Sys2Proof.Machine

/-- A scalar result of latency 1 (R76). -/
def State.scalar (s : State) (i : Instr) (d : BitVec 5) (x : W64) : Outcome := s.retire (view i) true (.s d x)
/-- A scalar result of a longer latency (R76). -/
def State.scalarSlow (s : State) (i : Instr) (d : BitVec 5) (x : W64) : Outcome := s.retire (view i) false (.s d x)

/-- Signed quotient toward zero; all ones for a divisor of zero, -2^63 for its overflow (R360). -/
def divS (a b : W64) : W64 := if b = 0 then BitVec.allOnes 64 else BitVec.ofInt 64 (a.toInt.tdiv b.toInt)
/-- Unsigned quotient; all ones for a divisor of zero (R360). -/
def divU (a b : W64) : W64 := if b = 0 then BitVec.allOnes 64 else BitVec.ofNat 64 (a.toNat / b.toNat)
/-- Signed remainder, with the sign of the dividend (R405). -/
def remS (a b : W64) : W64 := if b = 0 then a else BitVec.ofInt 64 (a.toInt.tmod b.toInt)
/-- Unsigned remainder (R405). -/
def remU (a b : W64) : W64 := if b = 0 then a else BitVec.ofNat 64 (a.toNat % b.toNat)
/-- The condition of CMP (R355). -/
def cmpHolds (cc : BitVec 3) (a b : W64) : Bool :=
  match cc.toNat with
  | 0 => a == b
  | 1 => a != b
  | 2 => decide (a.toInt < b.toInt)
  | 3 => decide (b.toInt ≤ a.toInt)
  | 4 => decide (a.toNat < b.toNat)
  | _ => decide (b.toNat ≤ a.toNat)
/-- Bits pos to pos + len - 1 of a value, zero-extended (R350). -/
def bitExtract (a : W64) (pos len : Nat) : W64 := BitVec.ofNat 64 (field a.toNat pos len)
/-- The value with bits pos to pos + len - 1 taken from the low bits of another (R350). -/
def bitInsert (d a : W64) (pos len : Nat) : W64 := BitVec.ofNat 64 (setField d.toNat pos len a.toNat)

/-- R339: wrapped sum. -/
def execAdd (o : RRR) (s : State) : Outcome :=
  s.scalar (.add o) o.d (s.cur.sreg o.a + s.cur.sreg o.b)

/-- R416: wrapped difference. -/
def execSub (o : RRR) (s : State) : Outcome :=
  s.scalar (.sub o) o.d (s.cur.sreg o.a - s.cur.sreg o.b)

/-- R348: bitwise and. -/
def execAndW (o : RRR) (s : State) : Outcome :=
  s.scalar (.andW o) o.d (s.cur.sreg o.a &&& s.cur.sreg o.b)

/-- R396: bitwise or. -/
def execOrW (o : RRR) (s : State) : Outcome :=
  s.scalar (.orW o) o.d (s.cur.sreg o.a ||| s.cur.sreg o.b)

/-- R449: bitwise exclusive or. -/
def execXorW (o : RRR) (s : State) : Outcome :=
  s.scalar (.xorW o) o.d (s.cur.sreg o.a ^^^ s.cur.sreg o.b)

/-- R411: left shift by s_b[5:0]. -/
def execShl (o : RRR) (s : State) : Outcome :=
  s.scalar (.shl o) o.d ((s.cur.sreg o.a) <<< ((s.cur.sreg o.b).toNat % 64))

/-- R411: right shift with zeros. -/
def execShrl (o : RRR) (s : State) : Outcome :=
  s.scalar (.shrl o) o.d ((s.cur.sreg o.a) >>> ((s.cur.sreg o.b).toNat % 64))

/-- R411: right shift with copies of bit 63. -/
def execShra (o : RRR) (s : State) : Outcome :=
  s.scalar (.shra o) o.d ((s.cur.sreg o.a).sshiftRight ((s.cur.sreg o.b).toNat % 64))

/-- R395: low half of the product. -/
def execMul (o : RRR) (s : State) : Outcome :=
  s.scalarSlow (.mul o) o.d (s.cur.sreg o.a * s.cur.sreg o.b)

/-- R395: high half of the signed product. -/
def execMulh (o : RRR) (s : State) : Outcome :=
  s.scalarSlow (.mulh o) o.d (BitVec.ofInt 64 ((s.cur.sreg o.a).toInt * (s.cur.sreg o.b).toInt / 2 ^ 64))

/-- R395: high half of the unsigned product. -/
def execMulhu (o : RRR) (s : State) : Outcome :=
  s.scalarSlow (.mulhu o) o.d (BitVec.ofNat 64 ((s.cur.sreg o.a).toNat * (s.cur.sreg o.b).toNat / 2 ^ 64))

/-- R390: signed minimum. -/
def execMinW (o : RRR) (s : State) : Outcome :=
  s.scalar (.minW o) o.d (if (s.cur.sreg o.a).toInt ≤ (s.cur.sreg o.b).toInt then s.cur.sreg o.a else s.cur.sreg o.b)

/-- R390: unsigned minimum. -/
def execMinu (o : RRR) (s : State) : Outcome :=
  s.scalar (.minu o) o.d (if (s.cur.sreg o.a).toNat ≤ (s.cur.sreg o.b).toNat then s.cur.sreg o.a else s.cur.sreg o.b)

/-- R390: signed maximum. -/
def execMaxW (o : RRR) (s : State) : Outcome :=
  s.scalar (.maxW o) o.d (if (s.cur.sreg o.a).toInt ≤ (s.cur.sreg o.b).toInt then s.cur.sreg o.b else s.cur.sreg o.a)

/-- R390: unsigned maximum. -/
def execMaxu (o : RRR) (s : State) : Outcome :=
  s.scalar (.maxu o) o.d (if (s.cur.sreg o.a).toNat ≤ (s.cur.sreg o.b).toNat then s.cur.sreg o.b else s.cur.sreg o.a)

/-- R360: signed quotient. -/
def execDiv (o : RRR) (s : State) : Outcome :=
  s.scalarSlow (.div o) o.d (divS (s.cur.sreg o.a) (s.cur.sreg o.b))

/-- R360: unsigned quotient. -/
def execDivu (o : RRR) (s : State) : Outcome :=
  s.scalarSlow (.divu o) o.d (divU (s.cur.sreg o.a) (s.cur.sreg o.b))

/-- R405: signed remainder. -/
def execRem (o : RRR) (s : State) : Outcome :=
  s.scalarSlow (.rem o) o.d (remS (s.cur.sreg o.a) (s.cur.sreg o.b))

/-- R405: unsigned remainder. -/
def execRemu (o : RRR) (s : State) : Outcome :=
  s.scalarSlow (.remu o) o.d (remU (s.cur.sreg o.a) (s.cur.sreg o.b))

/-- R354: leading zeros, 64 for zero. -/
def execClz (o : RDA) (s : State) : Outcome :=
  s.scalar (.clz o) o.d (BitVec.ofNat 64 (leadingZeros 64 (s.cur.sreg o.a).toNat))

/-- R399: count of 1 bits. -/
def execPopc (o : RDA) (s : State) : Outcome :=
  s.scalar (.popc o) o.d (BitVec.ofNat 64 (popCount 64 (s.cur.sreg o.a).toNat))

/-- R355: all ones or zero to a predicate; conditions 6 and 7 are reserved fn values (R310). -/
def execCmp (o : RCmp) (s : State) : Outcome :=
  s.require .s (decide (o.cc.toNat < 6)) illegalOp
    (s.retire (view (.cmp o)) true (.p o.d (maskIf (cmpHolds o.cc (s.cur.sreg o.a) (s.cur.sreg o.b)))))

/-- R409: selects by bit 0 of a predicate. -/
def execSel (o : RRF) (s : State) : Outcome :=
  s.scalar (.sel o) o.d (if (s.cur.preg o.fn).getLsbD 0 then s.cur.sreg o.a else s.cur.sreg o.b)

/-- R339: sum with an immediate. -/
def execAddi (o : RI) (s : State) : Outcome :=
  s.scalar (.addi o) o.d (s.cur.sreg o.a + imm9 o.imm)

/-- R348: and with an immediate. -/
def execAndi (o : RI) (s : State) : Outcome :=
  s.scalar (.andi o) o.d (s.cur.sreg o.a &&& imm9 o.imm)

/-- R396: or with an immediate. -/
def execOri (o : RI) (s : State) : Outcome :=
  s.scalar (.ori o) o.d (s.cur.sreg o.a ||| imm9 o.imm)

/-- R449: exclusive or with an immediate. -/
def execXori (o : RI) (s : State) : Outcome :=
  s.scalar (.xori o) o.d (s.cur.sreg o.a ^^^ imm9 o.imm)

/-- R411: left shift by an immediate of 0 to 63. -/
def execShli (o : RI) (s : State) : Outcome :=
  s.require .s (decide (o.imm.toNat < 64)) illegalOperand (s.scalar (.shli o) o.d ((s.cur.sreg o.a) <<< o.imm.toNat))

/-- R392: a sign-extended 37-bit constant. -/
def execMovi (q : BitVec 4) (d : BitVec 5) (imm : BitVec 37) (s : State) : Outcome :=
  s.scalar (.movi q d imm) d (imm37 imm)

/-- R392: imm28 over bits 35:0 of s_a. -/
def execMovhi (o : R2W28) (s : State) : Outcome :=
  s.scalar (.movhi o) o.d (o.imm ++ (s.cur.sreg o.a).setWidth 36)

/-- R385: sum with a 37-bit immediate, nothing translated. -/
def execLea (q : BitVec 4) (d : BitVec 5) (fa : Bool) (a : BitVec 5) (imm : BitVec 37) (s : State) : Outcome :=
  s.scalar (.lea q d fa a imm) d (s.cur.sreg a + imm37 imm)

/-- R350: bit-field extract; a field past bit 63 is OPERAND. -/
def execBfx (o : RBits) (s : State) : Outcome :=
  s.require .s (decide (o.pos.toNat + o.len1.toNat + 1 ≤ 64)) illegalOperand
    (s.scalar (.bfx o) o.d (bitExtract (s.cur.sreg o.a) o.pos.toNat (o.len1.toNat + 1)))

/-- R350: bit-field insert into s_d. -/
def execBfi (o : RBits) (s : State) : Outcome :=
  s.require .s (decide (o.pos.toNat + o.len1.toNat + 1 ≤ 64)) illegalOperand
    (s.scalar (.bfi o) o.d (bitInsert (s.cur.sreg o.d) (s.cur.sreg o.a) o.pos.toNat (o.len1.toNat + 1)))

end Sys2Proof.Machine
end

