-- ==== Sys2Proof/Machine/Dispatch.lean ====
section
/-! DEFINITION. The one dispatch from an instruction to its meaning. -/

namespace Sys2Proof.Machine

/-- What each instruction, command or event does. -/
def exec (i : Instr) (s : State) : Host.Outcome State Fault Refusal :=
  match i with
  | .add o => Sys2Proof.Machine.execAdd o s
  | .sub o => Sys2Proof.Machine.execSub o s
  | .andW o => Sys2Proof.Machine.execAndW o s
  | .orW o => Sys2Proof.Machine.execOrW o s
  | .xorW o => Sys2Proof.Machine.execXorW o s
  | .shl o => Sys2Proof.Machine.execShl o s
  | .shrl o => Sys2Proof.Machine.execShrl o s
  | .shra o => Sys2Proof.Machine.execShra o s
  | .mul o => Sys2Proof.Machine.execMul o s
  | .mulh o => Sys2Proof.Machine.execMulh o s
  | .mulhu o => Sys2Proof.Machine.execMulhu o s
  | .minW o => Sys2Proof.Machine.execMinW o s
  | .minu o => Sys2Proof.Machine.execMinu o s
  | .maxW o => Sys2Proof.Machine.execMaxW o s
  | .maxu o => Sys2Proof.Machine.execMaxu o s
  | .div o => Sys2Proof.Machine.execDiv o s
  | .divu o => Sys2Proof.Machine.execDivu o s
  | .rem o => Sys2Proof.Machine.execRem o s
  | .remu o => Sys2Proof.Machine.execRemu o s
  | .clz o => Sys2Proof.Machine.execClz o s
  | .popc o => Sys2Proof.Machine.execPopc o s
  | .cmp o => Sys2Proof.Machine.execCmp o s
  | .sel o => Sys2Proof.Machine.execSel o s
  | .addi o => Sys2Proof.Machine.execAddi o s
  | .andi o => Sys2Proof.Machine.execAndi o s
  | .ori o => Sys2Proof.Machine.execOri o s
  | .xori o => Sys2Proof.Machine.execXori o s
  | .shli o => Sys2Proof.Machine.execShli o s
  | .movi q d imm => Sys2Proof.Machine.execMovi q d imm s
  | .movhi o => Sys2Proof.Machine.execMovhi o s
  | .lea q d fa a imm => Sys2Proof.Machine.execLea q d fa a imm s
  | .bfx o => Sys2Proof.Machine.execBfx o s
  | .bfi o => Sys2Proof.Machine.execBfi o s
  | .pbr q b off => Sys2Proof.Machine.execPbr q b off s
  | .pbrxImm q b imm => Sys2Proof.Machine.execPbrxImm q b imm s
  | .pbrxReg q b fa a imm => Sys2Proof.Machine.execPbrxReg q b fa a imm s
  | .br q b p pol hint => Sys2Proof.Machine.execBr q b p pol hint s
  | .call q b hint => Sys2Proof.Machine.execCall q b hint s
  | .ret q hint => Sys2Proof.Machine.execRet q hint s
  | .loopW q b fa a len => Sys2Proof.Machine.execLoopW q b fa a len s
  | .endW q => Sys2Proof.Machine.execEndW q s
  | .yield q => Sys2Proof.Machine.execYield q s
  | .idem q => Sys2Proof.Machine.execIdem q s
  | .live q half mask => Sys2Proof.Machine.execLive q half mask s
  | .trapW q imm => Sys2Proof.Machine.execTrapW q imm s
  | .bkpt q => Sys2Proof.Machine.execBkpt q s
  | .rte q => Sys2Proof.Machine.execRte q s
  | .spawn o => Sys2Proof.Machine.execSpawn o s
  | .tdec o => Sys2Proof.Machine.execTdec o s
  | .amsg o => Sys2Proof.Machine.execAmsg o s
  | .ecmd q eng fa a queue => Sys2Proof.Machine.execEcmd q eng fa a queue s
  | .xpf o => Sys2Proof.Machine.execXpf o s
  | .bar q => Sys2Proof.Machine.execBar q s
  | .qwait q d => Sys2Proof.Machine.execQwait q d s
  | .accswap q => Sys2Proof.Machine.execAccswap q s
  | .getc q d imm => Sys2Proof.Machine.execGetc q d imm s
  | .setc q fa a imm => Sys2Proof.Machine.execSetc q fa a imm s
  | .rdcyc q d => Sys2Proof.Machine.execRdcyc q d s
  | .rdfrm q d => Sys2Proof.Machine.execRdfrm q d s
  | .trmark q fa a imm => Sys2Proof.Machine.execTrmark q fa a imm s
  | .perfrd q d imm => Sys2Proof.Machine.execPerfrd q d imm s
  | .skip q e imm => Sys2Proof.Machine.execSkip q e imm s
  | .ld o => Sys2Proof.Machine.execLd o s
  | .ldv o => Sys2Proof.Machine.execLdv o s
  | .ldvs o => Sys2Proof.Machine.execLdvs o s
  | .ldvx o => Sys2Proof.Machine.execLdvx o s
  | .gld o => Sys2Proof.Machine.execGld o s
  | .gldv o => Sys2Proof.Machine.execGldv o s
  | .getf o => Sys2Proof.Machine.execGetf o s
  | .flrd o => Sys2Proof.Machine.execFlrd o s
  | .rngwait o => Sys2Proof.Machine.execRngwait o s
  | .fenceL q ord scope => Sys2Proof.Machine.execFenceL q ord scope s
  | .markL q => Sys2Proof.Machine.execMarkL q s
  | .st o => Sys2Proof.Machine.execSt o s
  | .stv o => Sys2Proof.Machine.execStv o s
  | .stvs o => Sys2Proof.Machine.execStvs o s
  | .stvx o => Sys2Proof.Machine.execStvx o s
  | .gst o => Sys2Proof.Machine.execGst o s
  | .gstv o => Sys2Proof.Machine.execGstv o s
  | .putf o => Sys2Proof.Machine.execPutf o s
  | .fladd o => Sys2Proof.Machine.execFladd o s
  | .flwait o sub => Sys2Proof.Machine.execFlwait o sub s
  | .rngrel o => Sys2Proof.Machine.execRngrel o s
  | .pub o => Sys2Proof.Machine.execPub o s
  | .fenceW q ord scope => Sys2Proof.Machine.execFenceW q ord scope s
  | .markW q => Sys2Proof.Machine.execMarkW q s
  | .amoAdd o => Sys2Proof.Machine.execAmoAdd o s
  | .amoAnd o => Sys2Proof.Machine.execAmoAnd o s
  | .amoOr o => Sys2Proof.Machine.execAmoOr o s
  | .amoXor o => Sys2Proof.Machine.execAmoXor o s
  | .amoMin o => Sys2Proof.Machine.execAmoMin o s
  | .amoMax o => Sys2Proof.Machine.execAmoMax o s
  | .amoMinu o => Sys2Proof.Machine.execAmoMinu o s
  | .amoMaxu o => Sys2Proof.Machine.execAmoMaxu o s
  | .amoSwap o => Sys2Proof.Machine.execAmoSwap o s
  | .amoCas o => Sys2Proof.Machine.execAmoCas o s
  | .amoFmin o => Sys2Proof.Machine.execAmoFmin o s
  | .amoFmax o => Sys2Proof.Machine.execAmoFmax o s
  | .amoFadd o => Sys2Proof.Machine.execAmoFadd o s
  | .amoAddNr o => Sys2Proof.Machine.execAmoAddNr o s
  | .amoAndNr o => Sys2Proof.Machine.execAmoAndNr o s
  | .amoOrNr o => Sys2Proof.Machine.execAmoOrNr o s
  | .amoXorNr o => Sys2Proof.Machine.execAmoXorNr o s
  | .amoMinNr o => Sys2Proof.Machine.execAmoMinNr o s
  | .amoMaxNr o => Sys2Proof.Machine.execAmoMaxNr o s
  | .amoMinuNr o => Sys2Proof.Machine.execAmoMinuNr o s
  | .amoMaxuNr o => Sys2Proof.Machine.execAmoMaxuNr o s
  | .amoSwapNr o => Sys2Proof.Machine.execAmoSwapNr o s
  | .amoFminNr o => Sys2Proof.Machine.execAmoFminNr o s
  | .amoFmaxNr o => Sys2Proof.Machine.execAmoFmaxNr o s
  | .amoFaddNr o => Sys2Proof.Machine.execAmoFaddNr o s
  | .amoXadd o => Sys2Proof.Machine.execAmoXadd o s
  | .vadd o => Sys2Proof.Machine.execVadd o s
  | .vsub o => Sys2Proof.Machine.execVsub o s
  | .vmul o => Sys2Proof.Machine.execVmul o s
  | .vfma o => Sys2Proof.Machine.execVfma o s
  | .vfms o => Sys2Proof.Machine.execVfms o s
  | .vmin o => Sys2Proof.Machine.execVmin o s
  | .vmax o => Sys2Proof.Machine.execVmax o s
  | .vabs o => Sys2Proof.Machine.execVabs o s
  | .vneg o => Sys2Proof.Machine.execVneg o s
  | .vand o => Sys2Proof.Machine.execVand o s
  | .vor o => Sys2Proof.Machine.execVor o s
  | .vxor o => Sys2Proof.Machine.execVxor o s
  | .vshl o => Sys2Proof.Machine.execVshl o s
  | .vshrL o => Sys2Proof.Machine.execVshrL o s
  | .vshrA o => Sys2Proof.Machine.execVshrA o s
  | .vcmp o => Sys2Proof.Machine.execVcmp o s
  | .vsel o => Sys2Proof.Machine.execVsel o s
  | .vmov o => Sys2Proof.Machine.execVmov o s
  | .vbcast o => Sys2Proof.Machine.execVbcast o s
  | .vext o => Sys2Proof.Machine.execVext o s
  | .viota o => Sys2Proof.Machine.execViota o s
  | .vperm o => Sys2Proof.Machine.execVperm o s
  | .vrot o => Sys2Proof.Machine.execVrot o s
  | .vpopc q d p => Sys2Proof.Machine.execVpopc q d p s
  | .vred o => Sys2Proof.Machine.execVred o s
  | .vscan o => Sys2Proof.Machine.execVscan o s
  | .vcvt o => Sys2Proof.Machine.execVcvt o s
  | .vrnd o => Sys2Proof.Machine.execVrnd o s
  | .vfexp o => Sys2Proof.Machine.execVfexp o s
  | .vscale o => Sys2Proof.Machine.execVscale o s
  | .vgetexp o => Sys2Proof.Machine.execVgetexp o s
  | .vrcp o => Sys2Proof.Machine.execVrcp o s
  | .vrsq o => Sys2Proof.Machine.execVrsq o s
  | .vflog o => Sys2Proof.Machine.execVflog o s
  | .vrand o => Sys2Proof.Machine.execVrand o s
  | .vsrnd o => Sys2Proof.Machine.execVsrnd o s
  | .vquant o => Sys2Proof.Machine.execVquant o s
  | .vdeq o => Sys2Proof.Machine.execVdeq o s
  | .vxacc o => Sys2Proof.Machine.execVxacc o s
  | .accrd o => Sys2Proof.Machine.execAccrd o s
  | .accclr o => Sys2Proof.Machine.execAccclr o s
  | .xclr o => Sys2Proof.Machine.execXclr o s
  | .xaddv o => Sys2Proof.Machine.execXaddv o s
  | .xrd o => Sys2Proof.Machine.execXrd o s
  | .cpy c => Sys2Proof.Machine.execCpy c s
  | .cpyg c => Sys2Proof.Machine.execCpyg c s
  | .cpys c => Sys2Proof.Machine.execCpys c s
  | .mma c => Sys2Proof.Machine.execMma c s
  | .epil c => Sys2Proof.Machine.execEpil c s
  | .mrg c => Sys2Proof.Machine.execMrg c s
  | .sisect c => Sys2Proof.Machine.execSisect c s
  | .mskev c => Sys2Proof.Machine.execMskev c s
  | .coll c => Sys2Proof.Machine.execColl c s
  | .qctlSpill c => Sys2Proof.Machine.execQctlSpill c s
  | .commandCompletion c => Sys2Proof.Machine.execCommandCompletion c s
  | .stampEdge c => Sys2Proof.Machine.execStampEdge c s
  | .copyAgePromotion c => Sys2Proof.Machine.execCopyAgePromotion c s
  | .ecmdQueueTimeout n => Sys2Proof.Machine.execEcmdQueueTimeout n s
  | .envelopeModeWrite mode => Sys2Proof.Machine.execEnvelopeModeWrite mode s
  | .envelopeTransitionDone => Sys2Proof.Machine.execEnvelopeTransitionDone s
  | .windowWrite n v => Sys2Proof.Machine.execWindowWrite n v s
  | .seedWrite job v => Sys2Proof.Machine.execSeedWrite job v s
  | .trapFramesWrite n v => Sys2Proof.Machine.execTrapFramesWrite n v s
  | .stopAtWrite tile v => Sys2Proof.Machine.execStopAtWrite tile v s
  | .detcauseClear tile num => Sys2Proof.Machine.execDetcauseClear tile num s
  | .rangeRegisterWrite n num v => Sys2Proof.Machine.execRangeRegisterWrite n num v s
  | .arithFlagsWrite tile v => Sys2Proof.Machine.execArithFlagsWrite tile v s
  | .qcwWrite ia bytes => Sys2Proof.Machine.execQcwWrite ia bytes s
  | .packageReset => Sys2Proof.Machine.execPackageReset s
  | .boot flash => Sys2Proof.Machine.execBoot flash s
  | .thermalTrip temp => Sys2Proof.Machine.execThermalTrip temp s
  | .thermalModeRequest temp => Sys2Proof.Machine.execThermalModeRequest temp s
  | .powerGating gated watts => Sys2Proof.Machine.execPowerGating gated watts s
  | .ageingMonitorUpdate monitor oscKhz margin eolDays => Sys2Proof.Machine.execAgeingMonitorUpdate monitor oscKhz margin eolDays s
  | .tileFailure tile => Sys2Proof.Machine.execTileFailure tile s
  | .tileService tile => Sys2Proof.Machine.execTileService tile s
  | .hbmChannelService freeFrames channel => Sys2Proof.Machine.execHbmChannelService freeFrames channel s
  | .lpddrChannelService freeFrames channel => Sys2Proof.Machine.execLpddrChannelService freeFrames channel s
  | .cxlPortService freeFrames port => Sys2Proof.Machine.execCxlPortService freeFrames port s
  | .fabricPortService port phase => Sys2Proof.Machine.execFabricPortService port phase s
  | .drainComplete unit => Sys2Proof.Machine.execDrainComplete unit s
  | .firmwareReplacement phase => Sys2Proof.Machine.execFirmwareReplacement phase s
  | .svnMinimumRaise unit svn => Sys2Proof.Machine.execSvnMinimumRaise unit svn s
  | .attestationRequest nonce => Sys2Proof.Machine.execAttestationRequest nonce s
  | .keyLoad index => Sys2Proof.Machine.execKeyLoad index s
  | .pageFaultMessage fault service => Sys2Proof.Machine.execPageFaultMessage fault service s
  | .pageMigration page entry => Sys2Proof.Machine.execPageMigration page entry s
  | .migrationComplete page => Sys2Proof.Machine.execMigrationComplete page s
  | .scrubberError ia => Sys2Proof.Machine.execScrubberError ia s
  | .expertHintApply => Sys2Proof.Machine.execExpertHintApply s
  | .submissionTailWrite queue tail => Sys2Proof.Machine.execSubmissionTailWrite queue tail s
  | .launchTask queue => Sys2Proof.Machine.execLaunchTask queue s
  | .launchGraph queue => Sys2Proof.Machine.execLaunchGraph queue s
  | .trackReset src => Sys2Proof.Machine.execTrackReset src s
  | .endJob src => Sys2Proof.Machine.execEndJob src s
  | .hostRdmaRead via ia len => Sys2Proof.Machine.execHostRdmaRead via ia len s
  | .hostRdmaWrite via ia bytes => Sys2Proof.Machine.execHostRdmaWrite via ia bytes s
  | .hostPortDown port => Sys2Proof.Machine.execHostPortDown port s
  | .linkFlitLoss port => Sys2Proof.Machine.execLinkFlitLoss port s
  | .portDown port lost => Sys2Proof.Machine.execPortDown port lost s
  | .amsgArrival m => Sys2Proof.Machine.execAmsgArrival m s
  | .taskDecrement copy job counted => Sys2Proof.Machine.execTaskDecrement copy job counted s
  | .stagingComplete task => Sys2Proof.Machine.execStagingComplete task s
  | .dispatch cluster => Sys2Proof.Machine.execDispatch cluster s
  | .relaunch n => Sys2Proof.Machine.execRelaunch n s
  | .priorityAgeing task => Sys2Proof.Machine.execPriorityAgeing task s
  | .agePreemption task => Sys2Proof.Machine.execAgePreemption task s
  | .preemption task progress => Sys2Proof.Machine.execPreemption task progress s
  | .preemptionComplete task => Sys2Proof.Machine.execPreemptionComplete task s
  | .clusterSteal cluster => Sys2Proof.Machine.execClusterSteal cluster s
  | .loadReport chip load => Sys2Proof.Machine.execLoadReport chip load s
  | .packageStealRequest chip => Sys2Proof.Machine.execPackageStealRequest chip s
  | .stolenTaskArrival m taskId => Sys2Proof.Machine.execStolenTaskArrival m taskId s
  | .departureCommit n => Sys2Proof.Machine.execDepartureCommit n s
  | .replyArrival m => Sys2Proof.Machine.execReplyArrival m s
  | .remoteLoadRequest m => Sys2Proof.Machine.execRemoteLoadRequest m s
  | .remoteStoreArrival m => Sys2Proof.Machine.execRemoteStoreArrival m s
  | .remoteAmoArrival m => Sys2Proof.Machine.execRemoteAmoArrival m s
  | .remoteFladdArrival m => Sys2Proof.Machine.execRemoteFladdArrival m s
  | .remotePutfArrival m => Sys2Proof.Machine.execRemotePutfArrival m s
  | .remoteWaitRequest m => Sys2Proof.Machine.execRemoteWaitRequest m s
  | .watchAnswer m => Sys2Proof.Machine.execWatchAnswer m s
  | .postedFailureReport m => Sys2Proof.Machine.execPostedFailureReport m s
  | .backoffExpiry tile rec => Sys2Proof.Machine.execBackoffExpiry tile rec s
  | .accswapAtQuiescence tile => Sys2Proof.Machine.execAccswapAtQuiescence tile s
  | .taskRetirement task => Sys2Proof.Machine.execTaskRetirement task s
  | .wavePass => Sys2Proof.Machine.execWavePass s
  | .waveSnapshot abandoned others => Sys2Proof.Machine.execWaveSnapshot abandoned others s
  | .quietBroadcast slot loss => Sys2Proof.Machine.execQuietBroadcast slot loss s
  | .ringDeadlockDetect n => Sys2Proof.Machine.execRingDeadlockDetect n s
  | .heldErrorRecordPost job => Sys2Proof.Machine.execHeldErrorRecordPost job s
  | .stopAtExpiry tile => Sys2Proof.Machine.execStopAtExpiry tile s
  | .heltisStopRequest tiles frame => Sys2Proof.Machine.execHeltisStopRequest tiles frame s
  | .heltisResume tile => Sys2Proof.Machine.execHeltisResume tile s
  | .heltisAccess tile op => Sys2Proof.Machine.execHeltisAccess tile op s
  | .heltisDumpRequest task => Sys2Proof.Machine.execHeltisDumpRequest task s
  | .traceSample tile => Sys2Proof.Machine.execTraceSample tile s
  | .linkRetraining port lanes state => Sys2Proof.Machine.execLinkRetraining port lanes state s
  | .hostPortUp port => Sys2Proof.Machine.execHostPortUp port s
  | .dynamicCapacityExtent gib => Sys2Proof.Machine.execDynamicCapacityExtent gib s
  | .pageUnmap page => Sys2Proof.Machine.execPageUnmap page s

end Sys2Proof.Machine
end

