-- ==== Sys2Proof/Machine/Step.lean ====
section
/-! DEFINITION. One step of the machine: time passes, the next agent of the agenda moves, and nothing else. -/

namespace Sys2Proof.Machine

/-- Time passes by free amounts (R25, R404; log 5), what queued commands wait for is noted (R184, R284), and memory takes the record
copies whose pages are mapped now (log 26); waits for pips that no start comes before are answered (R88). -/
def State.tick (s : State) : State :=
  ({ s with
    steps := s.steps + 1
    pkg := { s.pkg with frame := s.pkg.frame + Config.frameElapsed s.steps, cycles := s.pkg.cycles + Config.cyclesElapsed s.steps } }
    : State).noteEdges.noteEligible.noteWaits (Config.cyclesElapsed s.steps) |>.writeCopies.lateWatches.hostRetry

/-- The event happens to a package without power, or in RECOVERY (R293, R301). -/
def Instr.whenOff : Instr → Bool
  | .boot _ => true
  | _ => false

/-- One agent moves. A strand word stands on the agenda only as a turn of its engine. -/
def State.perform_ (s : State) : Turn → Host.Outcome State Fault Refusal
  | .word n e => if n < 4096 then s.wordTurn exec n e else .fault .noAgent
  | .land n e => if n < 4096 then s.landTurn exec n e else .fault .noAgent
  | .part n e => if n < 4096 then s.wordTurn partRun n e else .fault .noAgent
  | .trace k => .next (s.drainTrace k)
  | .event i => if (view i).isEvent && (s.pkg.power == .on || Instr.whenOff i) then s.eventTurn exec i else .next s

/-- One step: the head of the agenda moves, or the agent of the fixed rule when the agenda is empty (log 1). -/
def step (s : State) : Host.Outcome State Fault Refusal :=
  match s.agenda with
  | t :: rest => { s.tick with agenda := rest }.perform_ t
  | [] => match s.autoTurn with
    | some t => s.tick.perform_ t
    | none => .next s.tick

/-- The range register that lets a strand see tile 0's slice at VA 0 (R118). -/
def ownSliceRange : RangeReg := ⟨3, 0xF0000, 0⟩

/-- The strand that withFetchWord starts: as at launch (R38), with one token in each queue. -/
def fetchStrand : Strand :=
  { live := true, task := some 0, ranges := (Vector.replicate 16 {}).set 0 ownSliceRange, tokens := Vector.replicate 8 1 }

/-- Its task, running in slot 0 of tile 0 with its text at VA 0 (R35). -/
def fetchTask : Task :=
  { copy := 0x80000, state := .running, members := [{ slot := some 0 }], hasRun := true }

/-- The state in which the very next step fetches and performs the word or words of `w` (log 6): a strand runs in slot 0 of
tile 0, its text begins at chip-local IA 0, and its owning engine has the next turn. -/
def State.withFetchWord (s : State) (_nbits w : Nat) : State :=
  { s with
    mem := cellsWrite s.mem 0 (toBytes 8 w)
    strands := Tab.put s.strands 0 fetchStrand
    tasks := Tab.put s.tasks 0 fetchTask
    taskNext := max s.taskNext 1
    agenda := .word 0 (wordEngine (BitVec.ofNat 32 w)) :: s.agenda }

end Sys2Proof.Machine
end

