-- ==== Sys2Proof/Safety.lean ====
section
/-! DEFINITION. What claims about runs are stated in: safe runs, the canonical memory, registers read after a result, and what a
word leaves alone. -/

namespace Sys2Proof.Machine

/-- The state after n steps, while each gives a next state. -/
def State.after : Nat → State → Option State
  | 0, s => some s
  | n + 1, s => match step s with
    | .next t => t.after n
    | .fault _ => none
    | .refused _ => none

/-- A run of n steps meets no fault and no refusal. -/
def State.safeFor (n : Nat) (s : State) : Prop := (s.after n).isSome

/-- Memory stands in its canonical form. -/
def State.memoryCanonical (s : State) : Prop := Memory.wf s.mem = true

/-- Agents on the agenda exist: a strand number lies below 4,096. -/
def Turn.exists_ : Turn → Prop
  | .word n _ => n < 4096
  | .land n _ => n < 4096
  | .part n _ => n < 4096
  | .trace _ => True
  | .event _ => True

/-- The last word of an instruction of `len` words at engine S. -/
def Strand.lastWord (t : Strand) (len : Nat) : W32 := t.pc .s + BitVec.ofNat 32 len - 1

/-- Count registers of the LOOPs that close behind a word of `len` words of S (R82). -/
def Strand.loopCounts (t : Strand) (len : Nat) : List (BitVec 5) := (t.closingLoops (t.lastWord len)).map (smallAt t.loopRegs)

/-- A word of engine e with DQ nibble q may end: no signal finds a queue of 8 tokens (R72), or an older result of its engine is still to
come, so that it signals later. -/
def State.maySignal (s : State) (e : Engine) (q : BitVec 4) : Prop :=
  (∃ f ∈ s.cur.flights, f.engine = e) ∨ ((s.cur.takeTokens e q).signal e (q.getLsbD 1) (q.getLsbD 0)).isSome

/-- A result stands in its register, full (R75); a scalar that the closing of a LOOP decrements as well is left out (R82). -/
def State.written (s t : State) (v : View) : Dest → Prop
  | .none => True
  | .s r x => (v.engine = .s → r ∉ s.cur.loopCounts v.len) → t.cur.sreg r = x ∧ t.cur.isFull (.s r) = true
  | .v r x => t.cur.vreg r = x ∧ t.cur.isFull (.v r) = true
  | .p r x => r ≠ 0#3 → t.cur.preg r = x
  | .b r x => t.cur.breg r = x

/-- A result is still to come: its register is empty, and the value stands last in the engine's order (R64, R75). -/
def State.inFlight (s t : State) (v : View) : Dest → Prop
  | .s r x => ∃ f, t.cur.flights = s.cur.flights ++ [f] ∧ f.engine = v.engine ∧ f.dest = some (.s r) ∧ f.sval = x ∧
      t.cur.isFull (.s r) = false
  | .v r x => ∃ f, t.cur.flights = s.cur.flights ++ [f] ∧ f.engine = v.engine ∧ f.dest = some (.v r) ∧ f.vval = x ∧
      t.cur.isFull (.v r) = false
  | _ => ∃ f, t.cur.flights = s.cur.flights ++ [f] ∧ f.engine = v.engine ∧ f.dest = none

/-- Tiles are the same but for their counters (R286). -/
def Tile.sameBut (a b : Tile) : Prop := { a with perf := [] } = { b with perf := [] }

/-- What a word with a result leaves alone (R64): memory, the other strands, every tile but its counters, the package, tasks,
jobs and messages; and of its strand every register but the destination, the count and branch registers of LOOPs that close
behind it (R82), tokens, walk counts and branch outcomes. -/
structure State.Keeps (s t : State) (v : View) (d : Dest) : Prop where
  mem : t.mem = s.mem
  pkg : t.pkg = s.pkg
  tasks : t.tasks = s.tasks
  jobs : t.jobs = s.jobs
  msgs : t.msgs = s.msgs
  toDispatch : t.toDispatch = s.toDispatch
  watches : t.watches = s.watches
  unacked : t.unacked = s.unacked
  out : t.out = s.out
  focus : t.focus = s.focus
  others : ∀ n, n ≠ s.focus → t.strand n = s.strand n
  tiles : ∀ k, (t.tile k).sameBut (s.tile k)
  sregs : ∀ r, (∀ x, d ≠ .s r x) → (v.engine = .s → r ∉ s.cur.loopCounts v.len) → t.cur.sreg r = s.cur.sreg r
  vregs : ∀ r, (∀ x, d ≠ .v r x) → t.cur.vreg r = s.cur.vreg r
  pregs : ∀ r, (∀ x, d ≠ .p r x) → t.cur.preg r = s.cur.preg r
  bregs : ∀ r, (∀ x, d ≠ .b r x) → (v.engine = .s → r ∉ s.cur.closingLoops (s.cur.lastWord v.len)) → t.cur.breg r = s.cur.breg r
  special : t.cur.livemask = s.cur.livemask ∧ t.cur.window = s.cur.window ∧ t.cur.ranges = s.cur.ranges ∧
    t.cur.trapCause = s.cur.trapCause ∧ t.cur.trapPc = s.cur.trapPc ∧ t.cur.trapAddr = s.cur.trapAddr ∧ t.cur.super = s.cur.super ∧
    t.cur.live = s.cur.live ∧ t.cur.task = s.cur.task ∧ t.cur.rank = s.cur.rank

/-- The instruction completes from `b`, the state that its further effect gives: it answers a next state with its result in
place, and leaves the rest of `b` alone. -/
def Completes (i : Instr) (s b : State) (d : Dest) : Prop :=
  ∃ t, exec i s = .next t ∧ b.written t (view i) d ∧ b.Keeps t (view i) d

/-- The same for an instruction whose result comes later (R76). -/
def CompletesLater (i : Instr) (s b : State) (d : Dest) : Prop :=
  ∃ t, exec i s = .next t ∧ b.inFlight t (view i) d ∧ b.Keeps t (view i) d

/-- The state is reached from `s` with a trap of engine e taken instead of the word (R268). -/
def Traps (i : Instr) (s : State) (e : Engine) (r : TrapReq) : Prop := exec i s = .next (s.takeTrap e r)

/-- The instruction answers a next state of which `p` holds. -/
def Does (i : Instr) (s : State) (p : State → Prop) : Prop := ∃ t, exec i s = .next t ∧ p t

/-- The word departs from `b` (R47): nothing but the departure is noted, with its engine, walk count, REASON, wait key, DEP,
destination and place to resume. -/
def Departs (i : Instr) (s b : State) (reason : Byte) (key : W64) (past : Bool) (dep : Nat) (dest : Option RegRef) : Prop :=
  ∃ d, exec i s = .next (b.modCur fun t => { t with departing := some d }) ∧ d.engine = (view i).engine ∧
    d.walk = s.cur.walk (view i).engine ∧ d.reason = reason ∧ d.key = key ∧ d.past = past ∧ d.dep = dep ∧ d.dest = dest ∧
    d.len = (view i).len ∧ d.q = (view i).q

/-- Bits n - 1 to 0. -/
def lowMask (n : Nat) : W64 := (1#64 <<< n) - 1#64

/-- What the words of class "S simple" write to a scalar register, from the operands (R76, R339, R348, R350, R354, R385, R390,
R392, R396, R399, R404, R409, R411, R416, R449). -/
def State.simpleResult (s : State) : Instr → Option Dest
  | .add o => some (.s o.d (s.cur.sreg o.a + s.cur.sreg o.b))
  | .sub o => some (.s o.d (s.cur.sreg o.a - s.cur.sreg o.b))
  | .andW o => some (.s o.d (s.cur.sreg o.a &&& s.cur.sreg o.b))
  | .orW o => some (.s o.d (s.cur.sreg o.a ||| s.cur.sreg o.b))
  | .xorW o => some (.s o.d (s.cur.sreg o.a ^^^ s.cur.sreg o.b))
  | .shl o => some (.s o.d (s.cur.sreg o.a <<< (s.cur.sreg o.b &&& 63#64)))
  | .shrl o => some (.s o.d (s.cur.sreg o.a >>> (s.cur.sreg o.b &&& 63#64)))
  | .shra o => some (.s o.d ((s.cur.sreg o.a).sshiftRight' (s.cur.sreg o.b &&& 63#64)))
  | .minW o => some (.s o.d (if (s.cur.sreg o.a).slt (s.cur.sreg o.b) then s.cur.sreg o.a else s.cur.sreg o.b))
  | .minu o => some (.s o.d (if (s.cur.sreg o.a).ult (s.cur.sreg o.b) then s.cur.sreg o.a else s.cur.sreg o.b))
  | .maxW o => some (.s o.d (if (s.cur.sreg o.a).slt (s.cur.sreg o.b) then s.cur.sreg o.b else s.cur.sreg o.a))
  | .maxu o => some (.s o.d (if (s.cur.sreg o.a).ult (s.cur.sreg o.b) then s.cur.sreg o.b else s.cur.sreg o.a))
  | .clz o => some (.s o.d (BitVec.ofNat 64 (((List.range 64).find? fun n => (s.cur.sreg o.a).getLsbD (63 - n)).getD 64)))
  | .popc o => some (.s o.d (BitVec.ofNat 64 ((List.range 64).countP fun k => (s.cur.sreg o.a).getLsbD k)))
  | .sel o => some (.s o.d (if (s.cur.preg o.fn).getLsbD 0 then s.cur.sreg o.a else s.cur.sreg o.b))
  | .addi o => some (.s o.d (s.cur.sreg o.a + o.imm.signExtend 64))
  | .andi o => some (.s o.d (s.cur.sreg o.a &&& o.imm.signExtend 64))
  | .ori o => some (.s o.d (s.cur.sreg o.a ||| o.imm.signExtend 64))
  | .xori o => some (.s o.d (s.cur.sreg o.a ^^^ o.imm.signExtend 64))
  | .shli o => if o.imm < 64#9 then some (.s o.d (s.cur.sreg o.a <<< o.imm)) else none
  | .movi _ d imm => some (.s d (imm.signExtend 64))
  | .movhi o => some (.s o.d ((o.imm.setWidth 64 <<< 36) ||| (s.cur.sreg o.a &&& lowMask 36)))
  | .lea _ d _ a imm => some (.s d (s.cur.sreg a + imm.signExtend 64))
  | .bfx o =>
    let len := o.len1.toNat + 1
    if o.pos.toNat + len ≤ 64 then some (.s o.d ((s.cur.sreg o.a >>> o.pos) &&& lowMask len)) else none
  | .bfi o =>
    let len := o.len1.toNat + 1
    if o.pos.toNat + len ≤ 64 then
      some (.s o.d ((s.cur.sreg o.d &&& ~~~(lowMask len <<< o.pos)) ||| ((s.cur.sreg o.a &&& lowMask len) <<< o.pos)))
    else none
  | .rdcyc _ d => some (.s d (s.tileCycles s.here))
  | .rdfrm _ d => some (.s d s.frame)
  | _ => none

/-- What the slow S words write to a scalar register (R76, R360, R377, R395, R398, R405); a GETC names an assigned number. -/
def State.slowResult (s : State) : Instr → Option Dest
  | .mul o => some (.s o.d (s.cur.sreg o.a * s.cur.sreg o.b))
  | .mulh o => some (.s o.d (((s.cur.sreg o.a).signExtend 128 * (s.cur.sreg o.b).signExtend 128).extractLsb' 64 64))
  | .mulhu o => some (.s o.d (((s.cur.sreg o.a).setWidth 128 * (s.cur.sreg o.b).setWidth 128).extractLsb' 64 64))
  | .div o => some (.s o.d (if s.cur.sreg o.b = 0 then BitVec.allOnes 64 else (s.cur.sreg o.a).sdiv (s.cur.sreg o.b)))
  | .divu o => some (.s o.d (if s.cur.sreg o.b = 0 then BitVec.allOnes 64 else s.cur.sreg o.a / s.cur.sreg o.b))
  | .rem o => some (.s o.d (if s.cur.sreg o.b = 0 then s.cur.sreg o.a
      else s.cur.sreg o.a - s.cur.sreg o.b * (s.cur.sreg o.a).sdiv (s.cur.sreg o.b)))
  | .remu o => some (.s o.d (if s.cur.sreg o.b = 0 then s.cur.sreg o.a else s.cur.sreg o.a % s.cur.sreg o.b))
  | .getc _ d imm => if ctlAssigned imm.toNat then some (.s d (s.getCtl s.focus imm.toNat)) else none
  | .perfrd _ d imm => some (.s d (s.perfCounter s.here imm.toNat))
  | _ => none

/-- A vector from its lanes. -/
def laneVec (g : Nat → W32) : VReg := Vector.ofFn fun l : Fin 64 => g l.val

/-- An integer element of width w = 8 × 2^t in its lane, for type codes 0 to 2 (R309, R418). -/
def intElem (t : BitVec 3) (x : W32) : BitVec (8 * 2 ^ t.toNat) := x.setWidth (8 * 2 ^ t.toNat)

/-- An access of n bytes at a VA by a strand of the package is one of the own slice, first IA `a`, that every check of R370 passes:
it translates, lies in the slice outside flag window, live regions and filled ring slots as its kind requires, and reads no uncorrectable
unit. No access of its word has been performed yet (R151). -/
structure State.OwnAccess (s : State) (e : Engine) (va : W64) (n : Nat) (write : Bool) (a : Nat) : Prop where
  slot : s.focus < 4096
  whole : (e = .l → s.cur.partL = []) ∧ (e = .w → s.cur.partW = 0)
  translates : s.iaOf e va n write = some a
  first : s.inSlice s.here a = true
  last : s.inSlice s.here (a + n - 1) = true
  window : write = true → touchesWindow (localOf a) n = false
  live : s.cur.super = true ∨ touches (s.liveRegions s.here) (localOf a) n = false
  ring : write = true → s.inFilledSlot s.here (localOf a) n = false
  units : s.uncorrectable a n = none

/-- The same for 64 lanes of 4 bytes. -/
def State.OwnLanes (s : State) (e : Engine) (va : Nat → W64) (write : Bool) (a : Nat → Nat) : Prop :=
  ∀ l < 64, s.OwnAccess e (va l) 4 write (a l)

/-- A departure waits for `n` bytes of the own slice that its key names: from the failed test on, every write to them is noted (R56). -/
def State.noteKey (s : State) (key : W64) (n : Nat) : State :=
  s.modTile s.here fun t => { t with early := Tab.put t.early (s.focus % 8) (wfield key 3 53 * 8, n, false) }

/-- A read by engine e of `n` bytes at an IA, with the event that a pending shadow leaves (R162). -/
def State.reads (s : State) (e : Engine) (ia n : Nat) : State := s.noteRead s.here false (s.cur.pc e) ia n

/-- Nothing waits for a write to the slice of tile k, and no ring of it is open: a store there changes bytes only. -/
def State.quietSlice (s : State) (k : Nat) : Prop :=
  (s.tile k).waitTable = [] ∧ (s.tile k).early = [] ∧ s.watches = [] ∧ (s.tile k).rings = [] ∧ s.pkg.badUnits = []

end Sys2Proof.Machine
end

