-- ==== Sys2Proof/Certificates/Slice0/Obligations.lean ====
section
/-! DEFINITION. The statements for the provers: each formalises what its docstring says, from the rules it names. -/

open Sys2Proof Sys2Proof.Machine

/-- Every word of class S simple with a scalar destination (ADD to RDFRM), at every operand, answers a next state in which s_d holds
the value that its rule gives and is full, unless its signals would overflow a token queue; nothing but s_d, the engine's
progress, tokens and counters changes: no flag, no other register, no memory, no special register. (R348, R354, R385, R390,
R396, R399, R409, R416, R449.) -/
def Obligations.SimpleScalarWordsWriteTheirResults : Prop :=
  ∀ (i : Instr) (s : State) (d : Dest), s.simpleResult i = some d → s.maySignal .s (view i).q → Completes i s s d

/-- CMP.cc with cc 0 to 5 answers a next state in which p_d holds all ones when the condition holds and zero when it does not (a
write to p0 is ignored), and nothing else changes; with fn 6 or 7 it raises ILLEGAL with subcode RESERVED_OP. (R355.) -/
def Obligations.CompareWritesAPredicate : Prop :=
  ∀ (o : RCmp) (s : State),
    let a := s.cur.sreg o.a
    let b := s.cur.sreg o.b
    let holds := match o.cc.toNat with
      | 0 => a == b
      | 1 => a != b
      | 2 => a.slt b
      | 3 => !a.slt b
      | 4 => a.ult b
      | _ => !a.ult b
    (o.cc.toNat < 6 → s.maySignal .s o.q → Completes (.cmp o) s s (.p o.d (if holds then BitVec.allOnes 64 else 0))) ∧
      (6 ≤ o.cc.toNat → Traps (.cmp o) s .s { cause := 1, sub := 0 })

/-- When pos + len is at most 64, BFX writes s_a[pos + len - 1 : pos] zero-extended and BFI writes that field of s_d from the low
bits of s_a and keeps the other bits, bit by bit, at once, nothing else changing; BFI reads s_d as may-wait; when pos + len
exceeds 64 each raises ILLEGAL with subcode OPERAND. (R350.) -/
def Obligations.BitFieldWordsMoveTheirField : Prop :=
  ∀ (o : RBits) (s : State),
    let pos := o.pos.toNat
    let len := o.len1.toNat + 1
    let a := s.cur.sreg o.a
    (pos + len ≤ 64 → s.maySignal .s o.q →
      (∃ x, Completes (.bfx o) s s (.s o.d x) ∧ ∀ k < 64, x.getLsbD k = (decide (k < len) && a.getLsbD (pos + k))) ∧
      (∃ x, Completes (.bfi o) s s (.s o.d x) ∧ ∀ k < 64, x.getLsbD k =
        if pos ≤ k ∧ k < pos + len then a.getLsbD (k - pos) else (s.cur.sreg o.d).getLsbD k)) ∧
    (64 < pos + len → Traps (.bfx o) s .s { cause := 1, sub := 3 } ∧ Traps (.bfi o) s .s { cause := 1, sub := 3 }) ∧
    (.s o.d, true) ∈ (view (.bfi o)).srcs

/-- MUL, MULH, MULHU, DIV, DIVU, REM, REMU (with the results that their rules give for a zero divisor and for -2^63 / -1), GETC of
an assigned number and PERFRD answer a next state in which s_d is empty and the value stands last in the order of S, and nothing
else changes. RDCYC and RDFRM, at user and supervisor level, answer a next state in which s_d is time-tainted; GETC of FRAME
leaves a tainted result in flight. (R75, R76, R360, R377, R395, R398, R405, R404, R287.) -/
def Obligations.SlowScalarWordsFinishLater : Prop :=
  (
    ∀ (i : Instr) (s : State) (d : Dest), s.slowResult i = some d → CompletesLater i s s d) ∧
  (
    ∀ (s : State) (q : BitVec 4) (d : BitVec 5), s.maySignal .s q →
      (∃ t, exec (.rdcyc q d) s = .next t ∧ t.cur.isTainted (.s d) = true) ∧
      (∃ t, exec (.rdfrm q d) s = .next t ∧ t.cur.isTainted (.s d) = true) ∧
      (∃ t f, exec (.getc q d 0x013) s = .next t ∧ t.cur.flights = s.cur.flights ++ [f] ∧ f.dest = some (.s d) ∧ f.sval = s.pkg.frame ∧
        f.taint = true))

/-- SHLI by 64 or more, TRAP with a code above 255, VEXT and VROT with an immediate above 63, GETC and SETC of an unassigned number,
PBR, PBRX, BR taken and CALL on a b register that holds an active LOOP, and LOOP with LEN 0 or on a b register in which another
LOOP is active, take the ILLEGAL trap with subcode OPERAND instead of the word. (R411, R421, R430, R441, R317, R397, R352, R353,
R387, R82.) -/
def Obligations.OperandLimitsTrap : Prop :=
  ∀ (s : State),
    let operand (i : Instr) (e : Engine) : Prop := Traps i s e { cause := 1, sub := 3 }
    (∀ o : RI, 64 ≤ o.imm.toNat → operand (.shli o) .s ∧ operand (.vext o) .a ∧ operand (.vrot o) .a) ∧
    (∀ q imm, 256 ≤ imm.toNat → operand (.trapW q imm) .s) ∧
    (∀ q d fa a imm, ctlAssigned imm.toNat = false → operand (.getc q d imm) .s ∧ operand (.setc q fa a imm) .s) ∧
    (∀ q b, (s.cur.breg b).getLsbD 63 = true →
      (∀ off, operand (.pbr q b off) .s) ∧ (∀ imm, operand (.pbrxImm q b imm) .s) ∧
      (∀ fa a imm, operand (.pbrxReg q b fa a imm) .s) ∧ (∀ hint, operand (.call q b hint) .s) ∧
      (∀ p pol hint, (s.cur.preg p).getLsbD 0 ≠ pol → operand (.br q b p pol hint) .s) ∧
      ((s.cur.breg b).setWidth 32 ≠ s.cur.pc .s + 2 → ∀ fa a len, operand (.loopW q b fa a len) .s)) ∧
    (∀ q b fa a, operand (.loopW q b fa a 0) .s)

/-- SKIP 0 on each of the four engines, with nothing of the engine in flight and room in the queues it signals, takes one token from
each queue its WP and WN name and adds one to each queue its SP and SN name, by the table of the ring in the order of TOKENS,
and changes no other count. SKIP n with n above 0, on each engine, answers a next state with nothing written and its signals
still to come, last in the engine's order. SKIP 0 on each engine, with nothing of the engine in flight and a queue that it
signals holding 8 tokens, retires with its effect (its tokens are taken, nothing else of the strand's registers changes) and
then the schedule-violation trap with subcode TOKEN_FULL is taken on its engine, no token having been added to any queue. (R71,
R52, R413, R72, R74.) -/
def Obligations.TokensMoveAroundTheRing : Prop :=
  (
    (
      ∀ (s : State) (q : BitVec 4) (tag : BitVec 2),
        let e := skipEngine tag
        let ring : Nat × Nat × Nat × Nat := match e with
          | .s => (3, 4, 7, 0)
          | .l => (0, 5, 4, 1)
          | .a => (1, 6, 5, 2)
          | .w => (2, 7, 6, 3)
        let (wp, wn, sp, sn) := ring
        let held (k : Nat) := s.cur.tokens.toList.getD k 0
        (∀ f ∈ s.cur.flights, f.engine ≠ e) → (q.getLsbD 1 = true → held sp < 8) → (q.getLsbD 0 = true → held sn < 8) →
        ∃ t, exec (.skip q tag 0) s = .next t ∧ s.Keeps t (view (.skip q tag 0)) .none ∧
          ∀ k < 8, t.cur.tokens.toList.getD k 0 =
            held k - (if q.getLsbD 3 = true ∧ k = wp then 1 else 0) - (if q.getLsbD 2 = true ∧ k = wn then 1 else 0) +
              (if q.getLsbD 1 = true ∧ k = sp then 1 else 0) + (if q.getLsbD 0 = true ∧ k = sn then 1 else 0)) ∧
    (
      ∀ (s : State) (q : BitVec 4) (tag : BitVec 2) (n : BitVec 9), n ≠ 0 →
        CompletesLater (.skip q tag n) s s .none ∧
          ∃ t f, exec (.skip q tag n) s = .next t ∧ t.cur.flights = s.cur.flights ++ [f] ∧ f.engine = skipEngine tag ∧
            f.sp = q.getLsbD 1 ∧ f.sn = q.getLsbD 0)) ∧
  (
    ∀ (s : State) (q : BitVec 4) (tag : BitVec 2),
      let e := skipEngine tag
      (∀ f ∈ s.cur.flights, f.engine ≠ e) → (s.cur.takeTokens e q).signal e (q.getLsbD 1) (q.getLsbD 0) = none →
      ∃ u, exec (.skip q tag 0) s = .next (u.takeTrap e { cause := 2, sub := 1, after := true }) ∧
        s.Keeps u (view (.skip q tag 0)) .none ∧ u.cur.tokens = (s.cur.takeTokens e q).tokens ∧ u.cur.walk e = s.cur.walk e + 1)

/-- On a b register without an active LOOP, PBR writes its own index plus the sign-extended offset, PBRX its zero-extended immediate
or s_a[31:0] plus the sign-extended immediate, as TARGET with LOOP and LEN zero, and nothing else changes. (R397, R80.) -/
def Obligations.BranchTargetsArePrepared : Prop :=
  ∀ (s : State) (q : BitVec 4) (b : BitVec 3), (s.cur.breg b).getLsbD 63 = false → s.maySignal .s q →
    (∀ off, Completes (.pbr q b off) s s (.b b ((s.cur.pc .s + off.signExtend 32).setWidth 64))) ∧
    (∀ imm, Completes (.pbrxImm q b imm) s s (.b b (imm.setWidth 64))) ∧
    (∀ fa a imm, Completes (.pbrxReg q b fa a imm) s s (.b b (((s.cur.sreg a).setWidth 32 + imm.signExtend 32).setWidth 64)))

/-- Where no LOOP closes at the word, a taken BR or a CALL (on a b register without an active LOOP) goes to its TARGET, RET to
s31[31:0], a BR not taken to the next word; L, A and W each get that outcome last in their queues; CALL writes the next index to
s31, full; a taken BR clears every active LOOP whose body its target lies outside; no other scalar, vector or predicate register
changes. (R352, R353, R406, R81, R69, R387.) -/
def Obligations.BranchesPostTheirOutcome : Prop :=
  ∀ (s : State) (q : BitVec 4), s.maySignal .s q → s.cur.closingLoops (s.cur.pc .s) = [] →
    let goes (i : Instr) (target : Option W32) (d : Dest) (more : State → Prop) : Prop :=
      ∃ t, exec i s = .next t ∧ t.cur.pc .s = target.getD (s.cur.pc .s + 1) ∧ t.cur.walk .s = s.cur.walk .s + 1 ∧
        (∀ e : Fin 4, e ≠ 0 → t.cur.outcomes[e] = s.cur.outcomes[e] ++ [⟨s.cur.walk .s, target⟩]) ∧
        s.written t (view i) d ∧ (∀ r, (∀ x, d ≠ .s r x) → t.cur.sreg r = s.cur.sreg r) ∧ (∀ r, t.cur.vreg r = s.cur.vreg r) ∧
        (∀ r, t.cur.preg r = s.cur.preg r) ∧ t.mem = s.mem ∧ more t
    (∀ b p pol hint, (s.cur.preg p).getLsbD 0 ≠ pol → (s.cur.breg b).getLsbD 63 = false →
      goes (.br q b p pol hint) (some ((s.cur.breg b).setWidth 32)) .none fun t =>
        ∀ c, (s.cur.breg c).getLsbD 63 = true →
          (((s.cur.breg b).setWidth 32 : W32) < (s.cur.breg c).setWidth 32 ∨
            ((s.cur.breg c).setWidth 32 : W32).toNat + bLen (s.cur.breg c) ≤ ((s.cur.breg b).setWidth 32 : W32).toNat) →
          (t.cur.breg c).getLsbD 63 = false) ∧
    (∀ b p pol hint, (s.cur.preg p).getLsbD 0 = pol →
      goes (.br q b p pol hint) none .none fun t => ∀ c, t.cur.breg c = s.cur.breg c) ∧
    (∀ b hint, (s.cur.breg b).getLsbD 63 = false →
      goes (.call q b hint) (some ((s.cur.breg b).setWidth 32)) (.s 31 ((s.cur.pc .s + 1).setWidth 64)) fun t =>
        ∀ c, t.cur.breg c = s.cur.breg c) ∧
    (∀ hint, goes (.ret q hint) (some ((s.cur.sreg 31).setWidth 32)) .none fun t => ∀ c, t.cur.breg c = s.cur.breg c)

/-- LOOP with LEN above 0 on a b register without an active LOOP, or with this one still active, with fewer than four other active
LOOPs and none around it that would close first, writes TARGET (the word after it), LEN and LOOP, names its count register,
enters the body and posts a not-taken outcome; with a count of zero it leaves LOOP clear and goes to TARGET + LEN with a taken
outcome. A fifth active LOOP and a body that closes beyond an enclosing one raise ILLEGAL with subcode OPERAND. Where one active
LOOP closes at the word of S (shown for SKIP of S), its count register, when full, falls by one: while it is not zero S goes
back to TARGET and posts that as taken; at zero LOOP is cleared, S goes on and posts a not-taken outcome. No other scalar or b
register changes. (R82, R387, R69.) -/
def Obligations.LoopsRun : Prop :=
  (
    ∀ (s : State) (q : BitVec 4) (b : BitVec 3) (fa : Bool) (a : BitVec 5) (len : BitVec 16),
      let i : Instr := .loopW q b fa a len
      let body := s.cur.pc .s + 2
      let others := s.cur.otherLoops b
      let around (c : BitVec 3) : Prop :=
        ((s.cur.breg c).setWidth 32 : W32).toNat ≤ (s.cur.pc .s).toNat ∧
          (s.cur.pc .s).toNat < ((s.cur.breg c).setWidth 32 : W32).toNat + bLen (s.cur.breg c) ∧
          ((s.cur.breg c).setWidth 32 : W32).toNat + bLen (s.cur.breg c) < body.toNat + len.toNat
      len ≠ 0 → (s.cur.breg b).getLsbD 63 = false ∨ (s.cur.breg b).setWidth 32 = body →
      ((4 ≤ others.length ∨ ∃ c ∈ others, around c) → Traps i s .s { cause := 1, sub := 3 }) ∧
      (others.length < 4 → (∀ c ∈ others, ¬ around c) → s.maySignal .s q → s.cur.closingLoops (s.cur.pc .s + 1) = [] →
        ∃ t, exec i s = .next t ∧
          (if s.cur.sreg a = 0 then
            t.cur.breg b = 0#16 ++ len ++ body ∧ t.cur.pc .s = body + len.setWidth 32 ∧
              ∀ e : Fin 4, e ≠ 0 → t.cur.outcomes[e] = s.cur.outcomes[e] ++ [⟨s.cur.walk .s, some (body + len.setWidth 32)⟩]
          else
            t.cur.breg b = 0x8000#16 ++ len ++ body ∧ smallAt t.cur.loopRegs b = a ∧ t.cur.pc .s = body ∧
              ∀ e : Fin 4, e ≠ 0 → t.cur.outcomes[e] = s.cur.outcomes[e] ++ [⟨s.cur.walk .s, none⟩]) ∧
          (∀ r, t.cur.sreg r = s.cur.sreg r) ∧ (∀ r, t.cur.vreg r = s.cur.vreg r) ∧ (∀ r, t.cur.preg r = s.cur.preg r) ∧
          (∀ c, c ≠ b → t.cur.breg c = s.cur.breg c) ∧ t.mem = s.mem)) ∧
  (
    ∀ (s : State) (q : BitVec 4) (b : BitVec 3), s.maySignal .s q → s.cur.closingLoops (s.cur.pc .s) = [b] →
      let r := smallAt s.cur.loopRegs b
      let target : W32 := (s.cur.breg b).setWidth 32
      let count := s.cur.sreg r - 1
      s.cur.isFull (.s r) = true →
      ∃ t, exec (.skip q 0 0) s = .next t ∧ t.cur.sreg r = count ∧ (∀ x, x ≠ r → t.cur.sreg x = s.cur.sreg x) ∧
        (∀ c, c ≠ b → t.cur.breg c = s.cur.breg c) ∧
        (if count = 0 then
          t.cur.pc .s = s.cur.pc .s + 1 ∧ t.cur.breg b = s.cur.breg b &&& 0x7FFFFFFFFFFFFFFF ∧
            ∀ e : Fin 4, e ≠ 0 → t.cur.outcomes[e] = s.cur.outcomes[e] ++ [⟨s.cur.walk .s, none⟩]
        else
          t.cur.pc .s = target ∧ t.cur.breg b = s.cur.breg b ∧
            ∀ e : Fin 4, e ≠ 0 → t.cur.outcomes[e] = s.cur.outcomes[e] ++ [⟨s.cur.walk .s, some target⟩]))

/-- LIVE.s replaces bits 31:0 of LIVEMASK and LIVE.v bits 63:32, keeping the other half and everything else; an engine whose walk
count has not passed the word still departs with the old mask, and one past it with the new. (R386, R50, R51.) -/
def Obligations.LiveSetIsWrittenInProgramOrder : Prop :=
  ∀ (s : State) (q : BitVec 4) (half : Bool) (mask : W32), s.maySignal .s q →
    let old := s.cur.livemask
    let new : W64 := if half then mask ++ old.setWidth 32 else old.extractLsb' 32 32 ++ mask
    let b := s.modCur fun t => t.setLive new
    Completes (.live q half mask) s b .none ∧ b.cur.livemask = new ∧
      (∀ k, s.cur.walk .s < k → b.cur.liveAt k = new) ∧
      (∀ k, s.cur.leastWalk ≤ k → k ≤ s.cur.walk .s → b.cur.liveAt k = s.cur.liveAt k)

/-- YIELD departs with REASON 0x0A, key 0 and DEP 0; BAR of a user strand with REASON 0x06, the key {generation, TASK_ID} and DEP 1,
of a supervisor strand it raises ILLEGAL OPERAND; QWAIT with REASON 0x07, JOB_ID, DEP 1 and s_d as destination; ACCSWAP on a
bank that is not quiescent with REASON 0x09, the tile number and DEP 1. All resume at the next word, and nothing else changes.
ACCSWAP on a quiescent accumulator bank answers a next state in which every entry of VIS is what WORK held and every entry of
WORK what VIS held, and nothing else of the state but progress and counters changes. (R47, R451, R349, R34, R403, R338, R210,
R211.) -/
def Obligations.WordsThatDepart : Prop :=
  (
    ∀ (s : State) (q : BitVec 4) (d : BitVec 5),
      let task := s.task (s.cur.task.getD 0)
      Departs (.yield q) s s 0xA 0 true 0 none ∧
      (s.cur.super = false → Departs (.bar q) s s 6 (0#16 ++ BitVec.ofNat 16 task.barGen ++ task.id) true 1 none) ∧
      (s.cur.super = true → Traps (.bar q) s .s { cause := 1, sub := 3 }) ∧
      Departs (.qwait q d) s s 7 (task.job.setWidth 64) true 1 (some (.s d)) ∧
      (s.quiescent s.here (s.cur.task.getD 0) s.cur.rank = false →
        Departs (.accswap q) s s 9 (BitVec.ofNat 64 (s.focus / 8)) true 1 none)) ∧
  (
    ∀ (s : State) (q : BitVec 4), s.quiescent s.here (s.cur.task.getD 0) s.cur.rank = true → s.maySignal .s q →
      ∃ t, exec (.accswap q) s = .next t ∧ (s.modTile s.here fun k => { k with visBank := !k.visBank }).Keeps t (view (.accswap q)) .none ∧
        ∀ e, t.visEntry s.here e = Tab.get 0 (s.tile s.here).banks ((s.tile s.here).bankIndex false e) ∧
          Tab.get 0 (t.tile s.here).banks ((t.tile s.here).bankIndex false e) = s.visEntry s.here e)

/-- END of a user strand answers a next state in which its slot holds no strand and no tokens, its member has ended, a task of gang
1 has given the slot up, a running task is RETIRING exactly when every member has ended and it has no commands left, and every
other strand keeps its registers. END in a handler ends the task with RESULT TRAP. (R366, R33, R241, R272.) -/
def Obligations.EndEndsItsStrand : Prop :=
  ∀ (s : State) (q : BitVec 4) (tid : Nat), s.cur.task = some tid →
    (s.cur.super = false → s.cur.snapshot = none →
      let members := (s.task tid).members.mapIdx fun i m => if i = s.cur.rank then { m with slot := none, ended := true } else m
      ∃ t, exec (.endW q) s = .next t ∧ (t.strand s.focus).live = false ∧ (t.strand s.focus).tokens = Vector.replicate 8 0 ∧
        ((s.task tid).gang ≤ 1 → (t.strand s.focus).task = none) ∧ (t.task tid).members = members ∧
        ((s.task tid).state = .running → (t.task tid).state =
          if members.all (·.ended) ∧ ∀ k ∈ s.tiles, ∀ c ∈ k.2.cmds, c.task ≠ tid then .retiring else .running) ∧
        ∀ n, n ≠ s.focus → (t.strand n).regs = (s.strand n).regs ∧ (t.strand n).live = (s.strand n).live) ∧
    (s.cur.super = true → ∃ t, exec (.endW q) s = .next t ∧ (t.task tid).state = .done ∧ (t.task tid).result = 4 ∧
      (t.strand s.focus).live = false)

/-- IDEM of a strand without a snapshot, where the continuation queue has room, answers a next state with a snapshot: four PCs at
the word after IDEM, empty token queues, the live set's scalars and vectors with zero for the others, all branch targets and the
set predicates, and LIVEMASK; the queue's tail has advanced by its granules; nothing else of the strand changes. Without room it
takes the continuation-overflow trap. (R383, R50, R53, R59.) -/
def Obligations.IdemTakesASnapshot : Prop :=
  ∀ (s : State) (q : BitVec 4), s.cur.snapshot = none →
    let need := (s.contBytes 0 0 s.cur.livemask 0 []).length / 64 + s.cur.block.granules
    (s.contFree s.here < need → Traps (.idem q) s .s { cause := 8 }) ∧
    (need ≤ s.contFree s.here → s.maySignal .s q →
      ∃ t snap num, exec (.idem q) s = .next t ∧ t.cur.snapshot = some (snap, num) ∧
        snap.pcs = Vector.replicate 4 (s.cur.pc .s + 1) ∧ snap.tokens = Vector.replicate 8 0 ∧ snap.livemask = s.cur.livemask ∧
        (∀ r : BitVec 5, regAt snap.regs.s r = if s.cur.livemask.getLsbD r.toNat then s.cur.sreg r else 0) ∧
        (∀ r : BitVec 5, regAt snap.regs.v r =
          if s.cur.livemask.getLsbD (32 + r.toNat) then s.cur.vreg r else Vector.replicate 64 0) ∧
        (∀ r : BitVec 3, smallAt snap.regs.p r = s.cur.preg r ∧ smallAt snap.regs.b r = s.cur.breg r) ∧
        (t.tile s.here).contTail = (s.tile s.here).contTail + need ∧
        (∀ r, t.cur.vreg r = s.cur.vreg r) ∧ (∀ r, t.cur.preg r = s.cur.preg r) ∧
        ∀ r, r ∉ s.cur.loopCounts 1 → t.cur.sreg r = s.cur.sreg r)

/-- Where no LOOP closes at the word and its signals have room, TRAP with a code up to 255 and BKPT with BKPT_STOP clear retire (S
stands at the next word, nothing else changed) and take the SOFTWARE trap with the code as subcode, or the BREAK trap with
subcode 0; BKPT with BKPT_STOP set stops the tile with S at the next word and no trap taken. (R421, R351, R268, R280.) -/
def Obligations.SoftwareTrapsRetireFirst : Prop :=
  ∀ (s : State) (q : BitVec 4), s.cur.closingLoops (s.cur.pc .s) = [] →
    ((s.cur.takeTokens .s q).signal .s (q.getLsbD 1) (q.getLsbD 0)).isSome = true →
    let traps (i : Instr) (cause sub : Nat) : Prop :=
      ∃ u, exec i s = .next (u.takeTrap .s { cause := cause, sub := sub, after := true }) ∧ u.cur.pc .s = s.cur.pc .s + 1 ∧
        s.Keeps u (view i) .none
    (∀ imm : BitVec 9, imm.toNat < 256 → traps (.trapW q imm) 0xC imm.toNat) ∧
    ((s.tile s.here).bkptStop = false → traps (.bkpt q) 0xD 0) ∧
    ((s.tile s.here).bkptStop = true →
      ∃ t, exec (.bkpt q) s = .next t ∧ (t.tile s.here).stopped = true ∧ t.cur.pc .s = s.cur.pc .s + 1 ∧
        t.cur.regs = s.cur.regs ∧ t.cur.super = s.cur.super ∧ t.cur.trapCause = s.cur.trapCause ∧ t.mem = s.mem)

/-- A trap whose cause enters a handler, taken by a strand of a task without a posted failure while TRAP_BASE and TRAP_FRAMES are
valid and the slot's frame has LIVE clear (and not the overflow of the overflow handler itself), leaves in the slot a supervisor
strand of the same member: all PCs at 16 times the cause, s1 the IA of the frame, s2 to s4 the cause word, address and saved PC,
s5 and s6 as they stood, every other register zero and full, LIVEMASK all ones, WINDOW 256; TRAP_CAUSE, TRAP_PC and TRAP_ADDR of
the slot hold the trap; the task keeps its state. A trap whose cause enters no handler, or with TRAP_BASE or TRAP_FRAMES not
valid, ends the strand's task at once: DONE with RESULT LEASE, MEMERR or TRAP, its strands gone from their slots and the slot's
trap registers holding the trap; a trap while the slot's frame has LIVE set ends it with RESULT TRAP, TRAP_CAUSE holding DOUBLE
with the trap's own cause as subcode. (R266, R267, R270, R272, R273, R241.) -/
def Obligations.TrapsAreTaken : Prop :=
  (
    ∀ (s : State) (e : Engine) (r : TrapReq),
      let tid := s.cur.task.getD 0
      let old := s.cur.landAll
      let t := s.takeTrap e r
      let word := BitVec.ofNat 64 (r.cause + 2 ^ 8 * r.sub + 2 ^ 18 * (engineIdx e).val)
      (s.task tid).failure = none → s.frameLive s.focus = false → (r.cause = 8 → s.inOverflowHandler = false) →
      r.cause ∈ [1, 2, 5, 8, 0xB, 0xC, 0xD] → (s.tile s.here).trapBase.getLsbD 0 = true → (s.tile s.here).trapFrames.getLsbD 0 = true →
      t.cur.live = true ∧ t.cur.super = true ∧ t.cur.task = s.cur.task ∧ t.cur.rank = s.cur.rank ∧
        (∀ f, t.cur.pc f = BitVec.ofNat 32 (16 * r.cause)) ∧ t.cur.sreg 1 = BitVec.ofNat 64 (s.frameIA s.focus) ∧ t.cur.sreg 2 = word ∧
        t.cur.sreg 3 = r.addr ∧ t.cur.sreg 4 = (s.cur.pc e).setWidth 64 ∧ t.cur.sreg 5 = old.sreg 5 ∧ t.cur.sreg 6 = old.sreg 6 ∧
        (∀ x, x = 0 ∨ 6 < x → t.cur.sreg x = 0) ∧ (∀ x, t.cur.vreg x = Vector.replicate 64 0) ∧ (∀ x, x ≠ 0 → t.cur.preg x = 0) ∧
        (∀ x, t.cur.breg x = 0) ∧ t.cur.sFull = BitVec.allOnes 32 ∧ t.cur.vFull = BitVec.allOnes 32 ∧
        t.cur.livemask = BitVec.allOnes 64 ∧ t.cur.window = 256 ∧ t.cur.tokens = Vector.replicate 8 0 ∧ t.cur.ranges = s.cur.ranges ∧
        t.cur.trapCause = word ∧ t.cur.trapPc = (s.cur.pc e).setWidth 64 ∧ t.cur.trapAddr = r.addr ∧
        (t.task tid).state = (s.task tid).state) ∧
  (
    ∀ (s : State) (e : Engine) (r : TrapReq) (tid : Nat),
      let t := s.takeTrap e r
      let gone (result : Byte) (cause sub : Nat) : Prop :=
        let word := BitVec.ofNat 64 (cause + 2 ^ 8 * sub + 2 ^ 18 * (engineIdx e).val)
        (t.task tid).state = .done ∧ (t.task tid).result = result ∧ (∀ n, (t.strand n).task ≠ some tid) ∧
          (t.strand s.focus).live = false ∧ (t.strand s.focus).trapCause = word ∧
          (t.strand s.focus).trapPc = (s.cur.pc e).setWidth 64 ∧ (t.strand s.focus).trapAddr = r.addr
      s.cur.task = some tid → (s.task tid).failure = none → (r.cause = 8 → s.inOverflowHandler = false) →
      ((s.tile s.here).trapFrames.getLsbD 0 = false ∨ s.frameLive s.focus = false →
        (r.cause ∉ [1, 2, 5, 8, 0xB, 0xC, 0xD] ∨ (s.tile s.here).trapBase.getLsbD 0 = false ∨
          (s.tile s.here).trapFrames.getLsbD 0 = false) →
        gone (if r.cause = 4 then 2 else if r.cause = 0xA then 3 else 4) r.cause r.sub) ∧
      ((s.tile s.here).trapFrames.getLsbD 0 = true → s.frameLive s.focus = true → gone 4 0xF r.cause))

/-- When the departure of a strand that runs the handler of the continuation-overflow cause commits and its tile's continuation
queue is short, the package error is raised, and the slot's trap registers, the task and the handler's registers stay as they
are. (R60.) -/
def Obligations.SecondOverflowIsAPackageError : Prop :=
  ∀ (s : State) (n : Nat) (d : Departure) (sv : TrapSave),
    let f : State := { s with focus := n }
    f.cur.departing = some d → s.commitsNow n = true → s.commitTurn n = true → (∀ j < n % 8, s.commitsNow (n / 8 * 8 + j) = false) →
    f.cur.trapSave = some sv → sv.cause = 8 → (f.task (f.cur.task.getD 0)).failure = none → f.contFree (n / 8) < f.departNeeds d →
    ∃ t, exec (.departureCommit n) s = .next t ∧ t.pkg.packageError = true ∧ (t.strand n).trapCause = (s.strand n).trapCause ∧
      (t.strand n).trapPc = (s.strand n).trapPc ∧ (t.strand n).trapSave = some sv ∧ (t.strand n).regs = (s.strand n).regs ∧
      t.tasks = s.tasks

/-- RTE at user level raises ILLEGAL with subcode PRIVILEGE. In a handler whose accesses are performed, with WINDOW of the frame
from 16 to 1024, and SKIP clear or the trapping word retired, it answers a next state at user level with every register from the
frame and full, LIVEMASK and WINDOW from the frame, PCs, tokens, walk counts and outcomes as the frame took them, the handler's
range registers kept; while an access is outstanding it waits; a WINDOW outside its limits raises ILLEGAL OPERAND in the
handler. (That PCs, tokens, walk counts and outcomes come from the save of the entry and not from the frame, and that SKIP
passes nothing after a word that had retired, is the choice of the model, log 33.) (R274, R408, R266.) -/
def Obligations.ReturnFromTrapRestoresTheFrame : Prop :=
  ∀ (s : State) (q : BitVec 4),
    (s.cur.super = false → Traps (.rte q) s .s { cause := 1, sub := 2 }) ∧
    (s.cur.super = true →
      (s.outstanding (s.cur.task.getD 0) s.cur.rank = true → exec (.rte q) s = .next s) ∧
      (s.outstanding (s.cur.task.getD 0) s.cur.rank = false → ∀ sv, s.cur.trapSave = some sv →
        let bs := s.readLocal sv.frame 0x21C0
        let window := fieldAt bs 0x1C 4 % 2 ^ 11
        (16 ≤ window ∧ window ≤ 1024 → fieldAt bs 0x14 1 % 2 = 0 ∨ sv.after = true →
          ∃ t, exec (.rte q) s = .next t ∧ t.cur.super = false ∧ t.cur.live = true ∧ t.cur.task = s.cur.task ∧ t.cur.rank = s.cur.rank ∧
            t.cur.regs = frameRegs bs ∧ t.cur.sFull = BitVec.allOnes 32 ∧ t.cur.vFull = BitVec.allOnes 32 ∧
            t.cur.livemask = wordAt bs 0x38 ∧ t.cur.window.toNat = window ∧ t.cur.pcs = sv.pcs ∧ t.cur.tokens = sv.tokens ∧
            t.cur.walks = sv.block.walks ∧ t.cur.outcomes = sv.block.outcomes ∧ t.cur.ranges = s.cur.ranges ∧ t.cur.snapshot = sv.snapshot ∧ t.cur.trapSave = none) ∧
        (window < 16 ∨ 1024 < window →
          exec (.rte q) s = .next ((s.modCur fun t => t.takeTokens .s q).takeTrap .s { cause := 1, sub := 3 }))))

/-- For every user strand on every tile, in a state with canonical memory, handlers installed, the frame area inside its slice, the
slot's frame with LIVE clear, a legal WINDOW and no write of the strand outstanding: a trap that enters its handler, followed by
an RTE of that handler, restores every scalar, vector, predicate and branch register, PCs, tokens, LIVEMASK, WINDOW, walk
counts, outcomes, snapshot and range registers as they stood once results in flight had landed, at user level. (R268, R271,
R272, R274.) -/
def Obligations.TrapAndReturnRestoreTheStrand : Prop :=
  ∀ (s : State) (e : Engine) (r : TrapReq) (q : BitVec 4),
    let old := s.cur.landAll
    let t := s.takeTrap e r
    s.memoryCanonical → s.focus < 4096 → (s.task (s.cur.task.getD 0)).failure = none → s.frameLive s.focus = false →
    (r.cause = 8 → s.inOverflowHandler = false) → s.cur.super = false → r.cause ∈ [1, 2, 5, 8, 0xB, 0xC, 0xD] → (s.tile s.here).trapBase.getLsbD 0 = true →
    (s.tile s.here).trapFrames.getLsbD 0 = true → wfield (s.tile s.here).trapFrames 6 14 * 64 + 110592 ≤ 0xFFE00 →
    16 ≤ s.cur.window.toNat → s.cur.window.toNat ≤ 1024 → t.outstanding (s.cur.task.getD 0) s.cur.rank = false →
    ∃ u, exec (.rte q) t = .next u ∧ u.cur.super = false ∧ (∀ x, u.cur.sreg x = old.sreg x) ∧ (∀ x, u.cur.vreg x = old.vreg x) ∧
      (∀ x, u.cur.preg x = old.preg x) ∧ (∀ x, u.cur.breg x = old.breg x) ∧ u.cur.pcs = s.cur.pcs ∧ u.cur.tokens = old.tokens ∧
      u.cur.livemask = s.cur.livemask ∧ u.cur.window = s.cur.window ∧ u.cur.walks = s.cur.walks ∧ u.cur.outcomes = s.cur.outcomes ∧
      u.cur.ranges = s.cur.ranges ∧ u.cur.snapshot = s.cur.snapshot

/-- SETC of WINDOW (16 to 1024), ARITH_FLAGS (bits written as 1 clear), LIVEMASK, SEED (the tile's copy, and a write on its way to
the controller), ROW_LAG (not 0), ROWQ_POLICY (not 3) has that one effect, at either level; a register whose fields are all
read-only is left as it is. GETC of WINDOW, ARITH_FLAGS, FRAME, LIVEMASK, ROW_LAG, TRAP_BASE, TRAP_FRAMES, TRAP_CAUSE, TRAP_PC,
TRAP_ADDR, STOP_AT and of a range register leaves in flight the value that the register holds. (R410, R317, R68, R94, R198,
R377.) -/
def Obligations.ControlRegistersAtUserLevel : Prop :=
  (
    ∀ (s : State) (q : BitVec 4) (fa : Bool) (a : BitVec 5), s.maySignal .s q →
      let v := s.cur.sreg a
      let job := (s.task (s.cur.task.getD 0)).job
      let writes (num : Nat) (b : State) : Prop := Completes (.setc q fa a (BitVec.ofNat 9 num)) s b .none
      (16 ≤ wfield v 0 11 → wfield v 0 11 ≤ 1024 → writes 0x011 (s.modCur fun t => { t with window := v.setWidth 11 })) ∧
      writes 0x012 (s.modTile s.here fun t => { t with arithFlags := t.arithFlags &&& ~~~(v.setWidth 8) }) ∧
      writes 0x020 (s.modCur fun t => t.setLive v) ∧
      writes 0x021 { s.modTile s.here (fun t => { t with seeds := Tab.put t.seeds job.toNat v }) with
        toDispatch := s.toDispatch ++ [.seedWrite job v] } ∧
      (wfield v 0 8 ≠ 0 → writes 0x030 (s.modTile s.here fun t => { t with rowLag := v.setWidth 8 })) ∧
      (wfield v 0 2 ≠ 3 → writes 0x031 (s.modTile s.here fun t => { t with rowqPolicy := v.setWidth 2 })) ∧
      ∀ num, (num ∈ [0x013, 0x040, 0x041, 0x042, 0x043, 0x044, 0x045, 0x047, 0x062, 0x063, 0x064, 0x065, 0x070] ∨
        (0x080 ≤ num ∧ num ≤ 0x0DF)) → writes num s) ∧
  (
    ∀ (s : State) (q : BitVec 4) (d : BitVec 5),
      let k := s.tile s.here
      let reads (num : Nat) (x : W64) : Prop := CompletesLater (.getc q d (BitVec.ofNat 9 num)) s s (.s d x)
      reads 0x011 (s.cur.window.setWidth 64) ∧ reads 0x012 (k.arithFlags.setWidth 64) ∧ reads 0x013 s.pkg.frame ∧
        reads 0x020 s.cur.livemask ∧ reads 0x030 (k.rowLag.setWidth 64) ∧ reads 0x060 k.trapBase ∧ reads 0x061 k.trapFrames ∧
        reads 0x062 s.cur.trapCause ∧ reads 0x063 s.cur.trapPc ∧ reads 0x064 s.cur.trapAddr ∧ reads 0x069 k.stopAt ∧
        ∀ n : Fin 16, reads (0x100 + n.val) s.cur.ranges[n].base ∧ reads (0x110 + n.val) s.cur.ranges[n].limit ∧
          reads (0x120 + n.val) s.cur.ranges[n].offset)

/-- At supervisor level SETC of STRAND_CTL, ENVELOPE, SCHED_AGE, STEAL_CTL, WAVE_PERIOD, TRAP_BASE, DBG_CTL, TRACE_CTL, TRACE_BASE,
STOP_AT, a range register and DETCAUSE_n or DETCAUSE_SUM (0 only), with a value that keeps the register's rule, writes it and
nothing else. SETC of a supervisor-only register at user level raises ILLEGAL with subcode PRIVILEGE; a value outside the rule
of WINDOW, ROW_LAG, ROWQ_POLICY, SCHED_AGE, STEAL_CTL, WAVE_PERIOD, TRAP_BASE, TRAP_FRAMES, TRACE_CTL, TRACE_BASE, a range
register or DETCAUSE raises ILLEGAL with subcode OPERAND, and nothing is written. (That a write of ENVELOPE clears REFUSED
before it tests whether a transition is pending is the choice of the model, log 50.) (R410, R317, R118, R245, R256, R270, R288,
R26, R23, R68, R198, R266.) -/
def Obligations.ControlRegistersAtSupervisorLevel : Prop :=
  (
    ∀ (s : State) (q : BitVec 4) (fa : Bool) (a : BitVec 5), s.cur.super = true → s.maySignal .s q →
      let v := s.cur.sreg a
      let writes (num : Nat) (b : State) : Prop := Completes (.setc q fa a (BitVec.ofNat 9 num)) s b .none
      let tile (f : Tile → Tile) := s.modTile s.here f
      writes 0x010 (tile fun t => { t with chk := v.getLsbD 0, viol := v.extractLsb' 16 16 }) ∧
      writes 0x046 (s.modPkg fun p => { p with envRefused := p.envRefused && !v.getLsbD 6 }.requestMode (v.setWidth 2)) ∧
      (1024 ≤ wfield v 0 32 → writes 0x050 (s.modPkg fun p => { p with schedAge := v.setWidth 32 })) ∧
      (wfield v 0 16 ≠ 0 → writes 0x051 (s.modPkg fun p => { p with stealCtl := v.setWidth 18 })) ∧
      (500 ≤ wfield v 0 16 → writes 0x052 (s.modPkg fun p => { p with wavePeriod := v.setWidth 16 })) ∧
      (v &&& 0xFF00000000000002 = 0 → writes 0x060 (tile fun t => { t with trapBase := v })) ∧
      (s.trapFramesOk s.here v = true → writes 0x061 (tile fun t => { t with trapFrames := v &&& 0xFFFC1 })) ∧
      writes 0x066 (tile fun t => { t with bkptStop := v.getLsbD 1 }) ∧
      (wfield v 11 5 = 0 ∨ 10 ≤ wfield v 11 5 → writes 0x067 (tile fun t => { t with traceCtl := v.setWidth 32 &&& 0xFF87E })) ∧
      (v &&& 0xFF0000000000003E = 0 → writes 0x068 (tile fun t => { t with traceBase := v })) ∧
      writes 0x069 (tile fun t => { t with stopAt := v }) ∧
      (∀ n : Fin 16,
        (v &&& 0xFE0000000000FFFC = 0 → writes (0x100 + n.val) (s.modCur fun t => t.setRanges (t.ranges.set n { t.ranges[n] with base := v }))) ∧
        (v &&& 0xFE0000000000FFFF = 0 →
          writes (0x110 + n.val) (s.modCur fun t => t.setRanges (t.ranges.set n { t.ranges[n] with limit := v }))) ∧
        (v &&& 0xFF0000000000FFFF = 0 →
          writes (0x120 + n.val) (s.modCur fun t => t.setRanges (t.ranges.set n { t.ranges[n] with offset := v }))) ∧
        (v = 0 → writes (0x140 + n.val) (tile fun t => { t with detcause := t.detcause.set n 0 }))) ∧
      (v = 0 → writes 0x150 (s.modPkg fun p => { p with detSum := 0 }))) ∧
  (
    ∀ (s : State) (q : BitVec 4) (fa : Bool) (a : BitVec 5),
      let v := s.cur.sreg a
      let operand (num : Nat) : Prop := Traps (.setc q fa a (BitVec.ofNat 9 num)) s .s { cause := 1, sub := 3 }
      (∀ num, s.cur.super = false → ctlSuper num = true → num < 512 →
        Traps (.setc q fa a (BitVec.ofNat 9 num)) s .s { cause := 1, sub := 2 }) ∧
      (wfield v 0 11 < 16 ∨ 1024 < wfield v 0 11 → operand 0x011) ∧ (wfield v 0 8 = 0 → operand 0x030) ∧
      (wfield v 0 2 = 3 → operand 0x031) ∧
      (s.cur.super = true →
        (wfield v 0 32 < 1024 → operand 0x050) ∧ (wfield v 0 16 = 0 → operand 0x051) ∧ (wfield v 0 16 < 500 → operand 0x052) ∧
        (v &&& 0xFF00000000000002 ≠ 0 → operand 0x060) ∧ (s.trapFramesOk s.here v = false → operand 0x061) ∧
        (0 < wfield v 11 5 ∧ wfield v 11 5 < 10 → operand 0x067) ∧ (v &&& 0xFF0000000000003E ≠ 0 → operand 0x068) ∧
        (∀ n : Fin 16,
          (v &&& 0xFE0000000000FFFC ≠ 0 → operand (0x100 + n.val)) ∧ (v &&& 0xFE0000000000FFFF ≠ 0 → operand (0x110 + n.val)) ∧
          (v &&& 0xFF0000000000FFFF ≠ 0 → operand (0x120 + n.val)) ∧ (v ≠ 0 → operand (0x140 + n.val))) ∧
        (v ≠ 0 → operand 0x150)))

/-- TRMARK answers a next state with no register, flag or result changed; when TRACE_CTL.MARKS is 0 or TRACE_BASE is not valid
nothing at all changes but progress and counters; otherwise a MARK record has entered the tile's trace buffer, 32 bytes whose
head holds KIND 2, the slot, the tile, the package and FRAME, or is counted as lost, and nothing else changes. (Where the 16
bytes of its payload hold the tag, the word index and s_a is left open by the spec: log 14.) XPF of a hint block of the own
slice, 8-byte aligned, with COUNT up to 256 and zero reserved fields, whose layer fits 16 bits, answers a next state in which
the layer and the pairs stand last among the predictor's hints, or nothing is noted while TOPN is 0; a layer of more than 16
bits raises ILLEGAL OPERAND. exec answers a next state with this effect, under conditions on the state and operands alone, for:
xpf, trmark. (R422, R284, R285, R450, R143.) -/
def Obligations.MarksAndHintsAreTaken : Prop :=
  (
    ∀ (s : State) (q : BitVec 4) (fa : Bool) (a : BitVec 5) (imm : BitVec 9), s.maySignal .s q →
      ((s.tile s.here).traceCtl.getLsbD 1 = false ∨ (s.tile s.here).traceBase.getLsbD 0 = false →
        Completes (.trmark q fa a imm) s s .none) ∧
      let b := if (s.tile s.here).traceCtl.getLsbD 1 then s.trace s.here 2 (s.focus % 8) (markPayload imm (s.cur.pc .s) (s.cur.sreg a)) else s
      Completes (.trmark q fa a imm) s b .none ∧ b.strands = s.strands ∧ b.tasks = s.tasks ∧ b.pkg = s.pkg ∧ b.mem = s.mem ∧
        ((s.tile s.here).traceCtl.getLsbD 1 = true → (s.tile s.here).traceBase.getLsbD 0 = true → (s.tile s.here).traceRoom = true →
          s.here < 512 → s.chip < 512 →
          ∃ bs, bs.length = 32 ∧ (b.tile s.here).traceBuf = (s.tile s.here).traceBuf ++ [bs] ∧ fieldAt bs 0 1 = 2 ∧
            fieldAt bs 1 1 = s.focus % 8 ∧ fieldAt bs 2 2 = s.here ∧ fieldAt bs 4 2 = s.chip ∧ fieldAt bs 6 2 = 0 ∧ wordAt bs 8 = s.frame ∧
            bs.drop 16 = markPayload imm (s.cur.pc .s) (s.cur.sreg a))) ∧
  (
    ∀ (s : State) (o : RAB) (a : Nat),
      let layer := s.cur.sreg o.b
      let va := s.cur.sreg o.a
      let count := s.readNum a 2
      let bs := s.readIA (a + 8) (8 * count)
      (layer.toNat / 2 ^ 16 ≠ 0 → Traps (.xpf o) s .s { cause := 1, sub := 3 }) ∧
      (layer.toNat / 2 ^ 16 = 0 → s.iaOf .s va 8 false = some a → s.iaOf .s va (8 + 8 * count) false = some a → s.inSlice s.here a = true →
        s.inSlice s.here (a + 7) = true → s.inSlice s.here (a + (8 + 8 * count) - 1) = true → a % 8 = 0 → s.uncorrectable a 8 = none →
        s.uncorrectable a (8 + 8 * count) = none → count ≤ 256 → s.readNum (a + 2) 6 = 0 →
        (∀ e < count, fieldAt bs (8 * e + 2) 2 = 0) → s.maySignal .s o.q →
        let u := s.reads .s a (8 + 8 * count)
        Completes (.xpf o) s
          (if field (s.readNum 0x180002008 8) 12 8 = 0 then u
           else u.modPkg fun p => { p with hints := p.hints ++ [(layer.toNat, hintPairs bs count)] }) .none))

/-- SPAWN of 256 bytes of the own slice at a 64-byte aligned IA, readable and with fields that the check accepts, answers a next
state with a new task of the strand's job that holds the record's entry, text base, gang and dependences, STAGING without
dependences and else WAITING, and leaves every register but tokens and progress alone; a record that the check refuses becomes a
task that is DONE with RESULT 1. TDEC of a 64-byte aligned IA of this package puts one decrement, with the strand's job, on its
way to the controller; of another package it leaves as a message that INJ counts. AMSG of a record of the own slice counts in
INJ and puts the record, the job and its SEED on the way to the controller of this chip, or sends them to that of another chip
of the domain. A misaligned TDEC raises ILLEGAL with subcode ALIGN, an AMSG to no package of the domain ILLEGAL with subcode
OPERAND. (That AMSG lets the SEED writes on their way reach the controller first is log 18, and what its message carries log 19:
choices of the model.) (R414, R35, R37, R241, R420, R345, R254, R39.) -/
def Obligations.TaskWordsReachTheController : Prop :=
  (
    ∀ (s : State) (o : RA) (a : Nat),
      let n := s.taskNext
      let bs := s.readIA a 256
      s.iaOf .s (s.cur.sreg o.a) 256 false = some a → s.inSlice s.here a = true → s.inSlice s.here (a + 255) = true → a % 64 = 0 →
      s.uncorrectable a 256 = none → s.maySignal .s o.q →
      ∃ t, exec (.spawn o) s = .next t ∧ t.taskNext = n + 1 ∧ (t.task n).job = s.curTask.job ∧
        (t.task n).entry = BitVec.ofNat 32 (fieldAt bs 0x18 4) ∧ (t.task n).gang = fieldAt bs 0x07 1 ∧
        (t.task n).textBase = wordAt bs 0x10 ∧ (t.task n).deps = BitVec.ofNat 32 (fieldAt bs 8 4) ∧
        (t.task n).counted = s.curTask.counted ∧
        ((t.task n).state, (t.task n).result) =
          (if recordOk bs = false then (.done, 1) else if fieldAt bs 8 4 = 0 then (.staging, 0) else (.waiting, 0)) ∧
        (∀ m < n, (t.task m).state = (s.task m).state) ∧
        (∀ r, r ∉ s.cur.loopCounts 1 → t.cur.sreg r = s.cur.sreg r) ∧ (∀ r, t.cur.vreg r = s.cur.vreg r)) ∧
  (
    ∀ (s : State),
      let job := (s.task (s.cur.task.getD 0)).job
      (∀ (o : RA) (a : Nat), s.iaOf .s (s.cur.sreg o.a) 1 true = some a →
        (a % 64 = 0 → s.maySignal .s o.q →
          (chipOf a = s.chip → Completes (.tdec o) s { s with toDispatch := s.toDispatch ++ [.decrement a job] } .none) ∧
          (chipOf a ≠ s.chip → Completes (.tdec o) s
            (((s.bumpSlot (s.job job).track 0 1).emit (.decrement (chipOf a) a job true)).noteSent s.originNow (.tdec a)) .none)) ∧
        (a % 64 ≠ 0 → Traps (.tdec o) s .s { cause := 1, sub := 4, addr := s.cur.sreg o.a })) ∧
      (∀ (o : RAB) (a : Nat), (s.cur.sreg o.b).toNat ≤ 511 → s.inDomain (s.cur.sreg o.b).toNat = true →
        s.iaOf .s (s.cur.sreg o.a) 256 false = some a → s.inSlice s.here a = true → s.inSlice s.here (a + 255) = true → a % 64 = 0 →
        s.uncorrectable a 256 = none → s.maySignal .s o.q →
        let u := (s.reads .s a 256).drainSeeds
        let m : TaskMsg :=
          { record := s.readIA a 256, job := job, seed := (u.job job).seed.getD (s.task (s.cur.task.getD 0)).seed
            cluster := s.here / 16, fromChip := s.chip, track := (u.job job).track, errq := (u.job job).errq, counted := true, succs := none }
        let v := u.bumpSlot (u.job job).track 0 1
        (s.cur.sreg o.b = BitVec.ofNat 64 s.chip → Completes (.amsg o) s { v with toDispatch := v.toDispatch ++ [.amsg m] } .none) ∧
        ((s.cur.sreg o.b).toNat ≠ s.chip → Completes (.amsg o) s
          ((v.emit (.taskMessage (s.cur.sreg o.b).toNat m)).noteSent v.originNow (.task (s.cur.sreg o.b).toNat)) .none)) ∧
      (∀ o : RAB, (511 < (s.cur.sreg o.b).toNat ∨ s.inDomain (s.cur.sreg o.b).toNat = false) →
        Traps (.amsg o) s .s { cause := 1, sub := 3 }))

/-- ECMD of a 128-byte record of the own slice at a 128-byte aligned IA with a header that fits an engine 0 to 6, on a valid queue,
answers a next state with the command last among the tile's commands: its bytes, its issuer, queued; TAIL has advanced and the
bytes stand in the slot. While the queue is full S holds, and the cycle it began is noted. A user strand that names KIND 0x0A
raises ILLEGAL PRIVILEGE; an unassigned engine or a queue not valid raises ILLEGAL OPERAND. (R83, R84, R86, R92, R365.) -/
def Obligations.EngineCommandsAreAccepted : Prop :=
  ∀ (s : State) (q : BitVec 4) (eng : BitVec 4) (fa : Bool) (a : BitVec 5) (queue : BitVec 2) (ia : Nat),
    let i : Instr := .ecmd q eng fa a queue
    let qw := s.tileQcw s.here (4 * eng.toNat + queue.toNat)
    let bs := s.readIA ia 128
    (7 ≤ eng.toNat ∨ qw.valid = false → Traps i s .s { cause := 1, sub := 3 }) ∧
    (eng.toNat < 7 → qw.valid = true → s.iaOf .s (s.cur.sreg a) 128 false = some ia → s.inSlice s.here ia = true →
      s.inSlice s.here (ia + 127) = true → ia % 128 = 0 → s.uncorrectable ia 128 = none →
      (s.cur.super = false → fieldAt bs 0 1 = 0xA → Traps i s .s { cause := 1, sub := 2 }) ∧
      (s.cur.super = true ∨ fieldAt bs 0 1 ≠ 0xA → headerOk eng.toNat bs = false → Traps i s .s { cause := 1, sub := 3 }) ∧
      (s.cur.super = true ∨ fieldAt bs 0 1 ≠ 0xA → headerOk eng.toNat bs = true → qw.occupancy = qw.depth →
        s.cur.ecmdSince = none → exec i s = .next (s.modCur fun t =>
          { t with ecmdSince := some (s.tileCycles s.here), ecmdQueue := 4 * eng.toNat + queue.toNat })) ∧
      (s.cur.super = true ∨ fieldAt bs 0 1 ≠ 0xA → headerOk eng.toNat bs = true → qw.occupancy ≠ qw.depth →
        s.maySignal .s q →
        ∃ t c, exec i s = .next t ∧ (t.tile s.here).cmds = (s.tile s.here).cmds ++ [c] ∧ c.bytes = bs ∧ c.engine = eng.toNat ∧
          c.queue = queue.toNat ∧ c.state = .queued ∧ c.task = s.cur.task.getD 0 ∧ c.rank = s.cur.rank ∧ c.super = s.cur.super ∧
          c.ranges = s.cur.ranges ∧ c.wordIndex = s.cur.pc .s ∧ (((s.reads .s ia 128).noteTaint (view i)).acceptCommand eng.toNat queue.toNat bs).Keeps t (view i) .none))

/-- VADD, VSUB, VMUL, VFMA, VFMS, VMIN, VMAX, VABS, VNEG and VBCAST of type .i8, .i16 and .i32 leave in flight for v_d, in each
lane, the result modulo 2^w of the elements as they stood at issue, sign-extended to 32 bits; no flag is raised and nothing else
changes; a type code above 5 raises ILLEGAL with subcode RESERVED_OP. (R418, R424, R423, R426, R309, R310.) -/
def Obligations.IntegerLanesWrap : Prop :=
  ∀ (s : State) (o : RRF) (u : RDAT),
    (o.fn.toNat < 3 →
      let a (l : Nat) := intElem o.fn (lane (s.cur.vreg o.a) l)
      let b (l : Nat) := intElem o.fn (lane (s.cur.vreg o.b) l)
      let d (l : Nat) := intElem o.fn (lane (s.cur.vreg o.d) l)
      let gives (i : Instr) (g : Nat → BitVec (8 * 2 ^ o.fn.toNat)) : Prop :=
        CompletesLater i s s (.v o.d (laneVec fun l => (g l).signExtend 32))
      gives (.vadd o) (fun l => a l + b l) ∧ gives (.vsub o) (fun l => a l - b l) ∧ gives (.vmul o) (fun l => a l * b l) ∧
        gives (.vfma o) (fun l => a l * b l + d l) ∧ gives (.vfms o) (fun l => d l - a l * b l) ∧
        gives (.vmin o) (fun l => if (a l).slt (b l) then a l else b l) ∧
        gives (.vmax o) (fun l => if (a l).slt (b l) then b l else a l)) ∧
    (u.t.toNat < 3 →
      let a (l : Nat) := intElem u.t (lane (s.cur.vreg u.a) l)
      let gives (i : Instr) (g : Nat → BitVec (8 * 2 ^ u.t.toNat)) : Prop :=
        CompletesLater i s s (.v u.d (laneVec fun l => (g l).signExtend 32))
      gives (.vabs u) (fun l => if (a l).slt 0 then -a l else a l) ∧ gives (.vneg u) (fun l => -a l) ∧
        gives (.vbcast u) (fun _ => (s.cur.sreg u.a).setWidth (8 * 2 ^ u.t.toNat))) ∧
    (6 ≤ o.fn.toNat →
      let reserved (i : Instr) : Prop := Traps i s .a { cause := 1, sub := 0 }
      reserved (.vadd o) ∧ reserved (.vsub o) ∧ reserved (.vmul o) ∧ reserved (.vfma o) ∧ reserved (.vfms o) ∧ reserved (.vmin o) ∧
        reserved (.vmax o)) ∧
    (6 ≤ u.t.toNat →
      let reserved (i : Instr) : Prop := Traps i s .a { cause := 1, sub := 0 }
      reserved (.vabs u) ∧ reserved (.vneg u) ∧ reserved (.vbcast u))

/-- VAND, VOR, VXOR, VSHL, VSHR.L, VSHR.A (by v_b[4:0]), VSEL (by the predicate's bit), VMOV, VIOTA, VPERM (by v_b[5:0], from before
the word) and VROT (up to 63) leave in flight for v_d the lanes that their rules give; nothing else changes and no flag is
raised. (R425, R445, R444, R434, R433, R435, R441, R418.) -/
def Obligations.UntypedLanesMoveBits : Prop :=
  ∀ (s : State) (o : RRR) (f : RRF) (m : RDA) (r : RI),
    let a (l : Nat) := lane (s.cur.vreg o.a) l
    let b (l : Nat) := lane (s.cur.vreg o.b) l
    let gives (i : Instr) (d : BitVec 5) (g : Nat → W32) : Prop := CompletesLater i s s (.v d (laneVec g))
    gives (.vand o) o.d (fun l => a l &&& b l) ∧ gives (.vor o) o.d (fun l => a l ||| b l) ∧
      gives (.vxor o) o.d (fun l => a l ^^^ b l) ∧ gives (.vshl o) o.d (fun l => a l <<< (b l &&& 31#32)) ∧
      gives (.vshrL o) o.d (fun l => a l >>> (b l &&& 31#32)) ∧
      gives (.vshrA o) o.d (fun l => (a l).sshiftRight' (b l &&& 31#32)) ∧
      gives (.vsel f) f.d (fun l => if (s.cur.preg f.fn).getLsbD l then lane (s.cur.vreg f.a) l else lane (s.cur.vreg f.b) l) ∧
      gives (.vmov m) m.d (fun l => lane (s.cur.vreg m.a) l) ∧
      gives (.viota m) m.d (fun l => (s.cur.sreg m.a).setWidth 32 + BitVec.ofNat 32 l) ∧
      gives (.vperm o) o.d (fun l => lane (s.cur.vreg o.a) (b l &&& 63#32).toNat) ∧
      (r.imm.toNat < 64 → gives (.vrot r) r.d (fun l => lane (s.cur.vreg r.a) ((l + r.imm.toNat) % 64)))

/-- VCMP of an integer type writes bit l of p_d with the outcome of lane l under its condition and raises no flag; of .f16, .bf16
and .f32 under EQ, NE, LT and LE it writes the outcome of the numeric order (a NaN makes NE true and the others false) and
raises INVALID for a signalling NaN, under LT and LE for any NaN, and no other flag; of a floating-point type under LTU or LEU,
or with a reserved condition or type, raises ILLEGAL RESERVED_OP; VEXT of lane 0 to 63 leaves that lane zero-extended, and VPOPC
the number of 1 bits of the predicate, in flight for s_d; nothing else changes. (R427, R430, R436, R418, R310.) -/
def Obligations.LaneComparesAndExtracts : Prop :=
  ∀ (s : State) (o : RVCmp) (r : RI) (q : BitVec 4) (d : BitVec 5) (p : BitVec 3),
    (o.cc.toNat < 6 → o.t.toNat < 3 →
      let a (l : Nat) := intElem o.t (lane (s.cur.vreg o.a) l)
      let b (l : Nat) := intElem o.t (lane (s.cur.vreg o.b) l)
      let holds (l : Nat) : Bool := match o.cc.toNat with
        | 0 => a l == b l
        | 1 => a l != b l
        | 2 => (a l).slt (b l)
        | 3 => (a l).sle (b l)
        | 4 => (a l).ult (b l)
        | _ => (a l).ule (b l)
      ∃ t x, exec (.vcmp o) s = .next t ∧ s.Keeps t (view (.vcmp o)) (.p o.d x) ∧ (∀ l < 64, x.getLsbD l = holds l) ∧
        (o.d ≠ 0 → t.cur.preg o.d = x)) ∧
    (∀ f, o.cc.toNat < 4 → typeFp o.t = some f →
      let a (l : Nat) := readFp f (element (.fp f) (lane (s.cur.vreg o.a) l))
      let b (l : Nat) := readFp f (element (.fp f) (lane (s.cur.vreg o.b) l))
      let value (x : Sys2Proof.Machine.Num) : Int := match x with
        | .nan _ => 0
        | .inf n => if n then -(10 ^ 90) else 10 ^ 90
        | .fin n k e => (if n then -1 else 1) * ((k : Int) * 2 ^ (e + 149).toNat)
      let nan (l : Nat) : Prop := (a l).isNan = true ∨ (b l).isNan = true
      let bad (l : Nat) : Prop := (a l).isSig = true ∨ (b l).isSig = true ∨ (2 ≤ o.cc.toNat ∧ nan l)
      ∃ t x fl, exec (.vcmp o) s = .next t ∧ (s.setFlags s.here fl).Keeps t (view (.vcmp o)) (.p o.d x) ∧ (o.d ≠ 0 → t.cur.preg o.d = x) ∧
        ((∃ l < 64, bad l) → fl = Flag.invalid) ∧ ((∀ l < 64, ¬ bad l) → fl = 0) ∧
        ∀ l < 64, (nan l → x.getLsbD l = (o.cc.toNat == 1)) ∧
          (¬ nan l → x.getLsbD l = match o.cc.toNat with
            | 0 => decide (value (a l) = value (b l))
            | 1 => decide (value (a l) ≠ value (b l))
            | 2 => decide (value (a l) < value (b l))
            | _ => decide (value (a l) ≤ value (b l)))) ∧
    (6 ≤ o.cc.toNat ∨ 6 ≤ o.t.toNat ∨ (4 ≤ o.cc.toNat ∧ 3 ≤ o.t.toNat) → Traps (.vcmp o) s .a { cause := 1, sub := 0 }) ∧
    (r.imm.toNat < 64 → CompletesLater (.vext r) s s (.s r.d ((lane (s.cur.vreg r.a) r.imm.toNat).setWidth 64))) ∧
    CompletesLater (.vpopc q d p) s s (.s d (BitVec.ofNat 64 ((List.range 64).countP fun k => (s.cur.preg p).getLsbD k)))

/-- VADD, VSUB, VMUL, VFMA, VFMS, VMIN and VMAX of .f16, .bf16 and .f32 leave a result in flight for v_d and raise only arithmetic
flags; a lane of VADD, VSUB or VMUL with a NaN operand takes the canonical NaN, and of VMIN or VMAX with one NaN operand the
other operand; VABS clears and VNEG inverts the sign bit, with no flag. (R424, R423, R426, R97, R116, R418.) -/
def Obligations.FloatLanesRoundOnce : Prop :=
  ∀ (s : State) (o : RRF) (u : RDAT),
    (∀ f, typeFp o.fn = some f →
      let a (l : Nat) := element (.fp f) (lane (s.cur.vreg o.a) l)
      let b (l : Nat) := element (.fp f) (lane (s.cur.vreg o.b) l)
      let gives (i : Instr) (lanesHold : VReg → Prop) : Prop :=
        ∃ v fl, CompletesLater i s (s.setFlags s.here fl) (.v o.d v) ∧ lanesHold v
      let nans (v : VReg) : Prop := ∀ l < 64, (readFp f (a l)).isNan = true ∨ (readFp f (b l)).isNan = true →
        lane v l = BitVec.ofNat 32 f.canon
      let numbers (v : VReg) : Prop := ∀ l < 64,
        ((readFp f (a l)).isNan = true → (readFp f (b l)).isNan = false → lane v l = BitVec.ofNat 32 (b l)) ∧
        ((readFp f (a l)).isNan = false → (readFp f (b l)).isNan = true → lane v l = BitVec.ofNat 32 (a l)) ∧
        ((readFp f (a l)).isNan = true → (readFp f (b l)).isNan = true → lane v l = BitVec.ofNat 32 f.canon)
      gives (.vadd o) nans ∧ gives (.vsub o) nans ∧ gives (.vmul o) nans ∧ gives (.vfma o) nans ∧ gives (.vfms o) nans ∧
        gives (.vmin o) numbers ∧ gives (.vmax o) numbers) ∧
    (∀ f, typeFp u.t = some f →
      let a (l : Nat) : W32 := BitVec.ofNat 32 (element (.fp f) (lane (s.cur.vreg u.a) l))
      let sign := BitVec.ofNat 32 (2 ^ (f.ew + f.fw))
      CompletesLater (.vabs u) s s (.v u.d (laneVec fun l => a l &&& ~~~sign)) ∧
        CompletesLater (.vneg u) s s (.v u.d (laneVec fun l => a l ^^^ sign)) ∧
        CompletesLater (.vbcast u) s s (.v u.d (laneVec fun _ =>
          BitVec.ofNat 32 ((s.cur.sreg u.a).toNat % 2 ^ (1 + f.ew + f.fw)))))

/-- VFEXP, VFLOG, VRCP, VRSQ, VGETEXP, VSCALE and VRND (modes 0 to 3) of a floating-point type leave a result in flight for v_d and
raise only arithmetic flags, with the results of R431, R432, R440 and R442 for NaNs, infinities, zeros and negative operands;
any other type raises ILLEGAL RESERVED_OP, and a mode above 3 ILLEGAL OPERAND. (R431, R432, R440, R442, R97, R418, R310.) -/
def Obligations.FunctionLanesGiveTheirSpecialResults : Prop :=
  ∀ (s : State) (u : RDAT) (o : RRF) (m : RDAO),
    (∀ f, typeFp u.t = some f →
      let x (l : Nat) := readFp f (element (.fp f) (lane (s.cur.vreg u.a) l))
      let nan : W32 := BitVec.ofNat 32 f.canon
      let inf (neg : Bool) : W32 := BitVec.ofNat 32 (f.infBits neg)
      let zero (neg : Bool) : W32 := if neg then BitVec.ofNat 32 (2 ^ (f.ew + f.fw)) else 0
      let gives (i : Instr) (holds : Sys2Proof.Machine.Num → W32 → Prop) : Prop :=
        ∃ v fl, CompletesLater i s (s.setFlags s.here fl) (.v u.d v) ∧ ∀ l < 64, holds (x l) (lane v l)
      gives (.vfexp u) (fun x r => (x.isNan = true → r = nan) ∧ (x = .inf true → r = 0) ∧ (x = .inf false → r = inf false)) ∧
        gives (.vflog u) (fun x r => (x.isNan = true → r = nan) ∧ (x = .inf true → r = nan) ∧ (x = .inf false → r = inf false) ∧
          (∀ n e, x = .fin n 0 e → r = inf true) ∧ (∀ k e, x = .fin true k e → k ≠ 0 → r = nan)) ∧
        gives (.vrcp u) (fun x r => (x.isNan = true → r = nan) ∧ (∀ n, x = .inf n → r = zero n) ∧
          (∀ n e, x = .fin n 0 e → r = inf n)) ∧
        gives (.vrsq u) (fun x r => (x.isNan = true → r = nan) ∧ (x = .inf true → r = nan) ∧ (x = .inf false → r = 0) ∧
          (∀ n e, x = .fin n 0 e → r = inf n) ∧ (∀ k e, x = .fin true k e → k ≠ 0 → r = nan)) ∧
        gives (.vgetexp u) (fun x r => (x.isNan = true → r = 0x7FFFFFFF) ∧ (∀ n, x = .inf n → r = 0x7FFFFFFF) ∧
          (∀ n e, x = .fin n 0 e → r = 0x80000000) ∧
          (∀ n k e, x = .fin n k e → k ≠ 0 → r = BitVec.ofInt 32 ((Nat.log2 k : Int) + e)))) ∧
    (∀ f, typeFp o.fn = some f →
      ∃ v fl, CompletesLater (.vscale o) s (s.setFlags s.here fl) (.v o.d v) ∧ ∀ l < 64,
        let x := element (.fp f) (lane (s.cur.vreg o.a) l)
        ((readFp f x).isNan = true → lane v l = BitVec.ofNat 32 f.canon) ∧
          (∀ n, readFp f x = .inf n → lane v l = BitVec.ofNat 32 (f.infBits n)) ∧
          (∀ n e, readFp f x = .fin n 0 e → lane v l = BitVec.ofNat 32 x)) ∧
    (∀ f, typeFp m.t = some f →
      (m.op.toNat < 4 → ∃ v fl, CompletesLater (.vrnd m) s (s.setFlags s.here fl) (.v m.d v) ∧ ∀ l < 64,
        let x := element (.fp f) (lane (s.cur.vreg m.a) l)
        ((readFp f x).isNan = true → lane v l = BitVec.ofNat 32 f.canon) ∧
          (∀ n k e, readFp f x = .fin n k e → 0 ≤ e → lane v l = BitVec.ofNat 32 x)) ∧
      (4 ≤ m.op.toNat → Traps (.vrnd m) s .a { cause := 1, sub := 3 })) ∧
    (typeFp u.t = none →
      let reserved (i : Instr) : Prop := Traps i s .a { cause := 1, sub := 0 }
      reserved (.vfexp u) ∧ reserved (.vflog u) ∧ reserved (.vrcp u) ∧ reserved (.vrsq u) ∧ reserved (.vgetexp u))

/-- VRAND leaves in flight for v_d, in lane l, the first word of kx128 under the task's seed snapshot and TASK_ID for element s_a +
l and draw s_b[31:0]; VDEQ with a width b of 2 to 8 leaves in each lane the FP32 value of its b-bit mantissa under the exponent
of its half, which is zero for a zero mantissa, and raises only arithmetic flags; a width of 9 raises ILLEGAL RESERVED_OP. With
a well-formed record at a 16-byte aligned address of the own slice whose format they accept (VCVT also ROUND RNE), VCVT, VSRND
and VQUANT of any type code up to 5 leave a result in flight for v_d and raise only arithmetic flags: VCVT each lane converted
under the record, VSRND each lane converted with the draw of its element, VQUANT the mantissas of two blocks under their
exponents; a zero lane of VCVT and VSRND to an integer format gives zero. Every other record, and a misaligned address, raises
ILLEGAL OPERAND; a type code above 5 raises ILLEGAL RESERVED_OP. exec answers a next state with this effect, under conditions on
the state and operands alone, for: vcvt, vrand, vsrnd, vquant, vdeq. (R438, R114, R115, R429, R112, R428, R437, R446, R419,
R109, R110.) -/
def Obligations.ConversionsAndRandomLanes : Prop :=
  (
    ∀ (s : State) (o : RRR) (u : RRF),
      let task := s.task (s.cur.task.getD 0)
      CompletesLater (.vrand o) s s (.v o.d (laneVec fun l =>
        BitVec.ofNat 32 ((kx128 task.seed task.id (s.cur.sreg o.a + BitVec.ofNat 64 l).toNat
          ((s.cur.sreg o.b).toNat % 2 ^ 32)).getD 0 0))) ∧
      (u.fn.toNat ≤ 6 → ∃ v fl, CompletesLater (.vdeq u) s (s.setFlags s.here fl) (.v u.d v) ∧
        (∀ l < 64,
          let m := sgn (u.fn.toNat + 2) (lane (s.cur.vreg u.a) l).toNat
          let e := if l < 32 then wfield (s.cur.sreg u.b) 0 8 else wfield (s.cur.sreg u.b) 8 8
          lane v l = BitVec.ofNat 32 (cvt (.fin (decide (m < 0)) m.natAbs ((e : Int) - 127)) (.fp Fp.fp32) pFp32 0).1) ∧
        ∀ l < 64, (lane (s.cur.vreg u.a) l).toNat % 2 ^ (u.fn.toNat + 2) = 0 → lane v l = 0) ∧
      (u.fn = 7 → Traps (.vdeq u) s .a { cause := 1, sub := 0 })) ∧
  (
    ∀ (s : State) (o : RRF) (u : RPair) (a b : Nat) (p r : Tpr),
      let base := s.cur.sreg (u.bp ++ 1#1)
      let task := s.task (s.cur.task.getD 0)
      let takes (f : Nat) : Prop := f ∈ [0x00, 0x01, 0x02, 0x08, 0x09, 0x0A, 0x0B, 0x0C]
      let bad : TrapReq := { cause := 1, sub := 3 }
      (o.fn.toNat < 6 → (s.cur.sreg o.b).toNat % 16 = 0 → s.OwnAccess .a (s.cur.sreg o.b) 16 false a →
        (Tpr.parse (s.readIA a 16) = none → Traps (.vcvt o) s .a bad) ∧
        (Tpr.parse (s.readIA a 16) = some p → ¬ takes p.fmt ∨ p.stoch = true → Traps (.vcvt o) s .a bad) ∧
        (Tpr.parse (s.readIA a 16) = some p → takes p.fmt → p.stoch = false →
        ∃ v fl, CompletesLater (.vcvt o) s ((s.reads .a a 16).setFlags s.here fl) (.v o.d v) ∧
          (∀ src dst, typeFmt o.fn = some src → Fmt.ofCode p.fmt = some dst → ∀ l < 64,
            lane v l = placeFmt dst (cvt (readFmt src (element src (lane (s.cur.vreg o.a) l))) dst p 0).1) ∧
          (p.fmt < 3 → ∀ l < 64, lane (s.cur.vreg o.a) l = 0 → lane v l = 0))) ∧
      (o.fn.toNat < 6 → (s.cur.sreg o.b).toNat % 16 ≠ 0 → Traps (.vcvt o) s .a bad) ∧
      (6 ≤ o.fn.toNat → Traps (.vcvt o) s .a { cause := 1, sub := 0 }) ∧
      (6 ≤ u.t.toNat → Traps (.vsrnd u) s .a { cause := 1, sub := 0 } ∧ Traps (.vquant u) s .a { cause := 1, sub := 0 }) ∧
      (u.t.toNat < 6 → (s.cur.sreg (u.bp ++ 0#1)).toNat % 16 ≠ 0 → Traps (.vsrnd u) s .a bad ∧ Traps (.vquant u) s .a bad) ∧
      (u.t.toNat < 6 → (s.cur.sreg (u.bp ++ 0#1)).toNat % 16 = 0 → s.OwnAccess .a (s.cur.sreg (u.bp ++ 0#1)) 16 false b →
        (Tpr.parse (s.readIA b 16) = none → Traps (.vsrnd u) s .a bad ∧ Traps (.vquant u) s .a bad) ∧
        (Tpr.parse (s.readIA b 16) = some r →
        (¬ takes r.fmt → Traps (.vsrnd u) s .a bad) ∧
        (takes r.fmt →
          ∃ v fl, CompletesLater (.vsrnd u) s ((s.reads .a b 16).setFlags s.here fl) (.v u.d v) ∧
            (∀ src dst, typeFmt u.t = some src → Fmt.ofCode r.fmt = some dst → ∀ l < 64,
              lane v l = placeFmt dst (cvt (readFmt src (element src (lane (s.cur.vreg u.a) l))) dst { r with stoch := true }
                (kxDraw task.seed task.id (base + BitVec.ofNat 64 l).toNat r.stream)).1) ∧
            (r.fmt < 3 → ∀ l < 64, lane (s.cur.vreg u.a) l = 0 → lane v l = 0)) ∧
        (0x12 ≤ r.fmt → r.fmt ≤ 0x18 →
          ∃ v fl, CompletesLater (.vquant u) s ((s.reads .a b 16).setFlags s.here fl) (.v u.d v) ∧
            ∀ src w, typeFmt u.t = some src → bfpOfCode r.fmt = some w → ∀ h < 2,
              let block := bfpBlock w r ((List.range 32).map fun i => readFmt src (element src (lane (s.cur.vreg u.a) (32 * h + i))))
                ((List.range 32).map fun i => kxDraw task.seed task.id (base + BitVec.ofNat 64 (32 * h + i)).toNat r.stream)
              ∀ i < 32, lane v (32 * h + i) = BitVec.ofNat 32 (block.1 % 256 * 2 ^ 24 + wrapInt 24 (block.2.1.getD i 0))) ∧
        (r.fmt < 0x12 ∨ 0x18 < r.fmt → Traps (.vquant u) s .a bad))))

/-- VRED of an integer type under ADD gives the exact sum of the signed elements, under MIN and MAX their extreme, under AND, OR and
XOR the bitwise result sign-extended, in flight for s_d, with no flag; under ADD, MIN and MAX of a floating-point type it leaves
a result in flight and raises only arithmetic flags; VSCAN under ADD of an integer type gives in lane l the sum of lanes 0 to l
modulo 2^w, and completes under ADD, MIN and MAX of every type; an op that a type excludes raises ILLEGAL OPERAND. (R439, R443,
R418, R108.) -/
def Obligations.ReductionsCombineAllLanes : Prop :=
  ∀ (s : State) (o : RDAO),
    let e (l : Nat) := intElem o.t (lane (s.cur.vreg o.a) l)
    (o.t.toNat < 3 →
      let gives (x : W64) : Prop := CompletesLater (.vred o) s s (.s o.d x)
      (o.op = 0 → gives (BitVec.ofInt 64 ((List.range 64).map fun l => (e l).toInt).sum)) ∧
      (o.op = 1 → ∃ x, gives x ∧ (∀ l < 64, x.toInt ≤ (e l).toInt) ∧ ∃ l < 64, x.toInt = (e l).toInt) ∧
      (o.op = 2 → ∃ x, gives x ∧ (∀ l < 64, (e l).toInt ≤ x.toInt) ∧ ∃ l < 64, x.toInt = (e l).toInt) ∧
      (o.op = 3 → ∃ x : BitVec (8 * 2 ^ o.t.toNat), gives (x.signExtend 64) ∧
        ∀ k < 8 * 2 ^ o.t.toNat, (x.getLsbD k = true ↔ ∀ l < 64, (e l).getLsbD k = true)) ∧
      (o.op = 4 → ∃ x : BitVec (8 * 2 ^ o.t.toNat), gives (x.signExtend 64) ∧
        ∀ k < 8 * 2 ^ o.t.toNat, (x.getLsbD k = true ↔ ∃ l < 64, (e l).getLsbD k = true)) ∧
      (o.op = 5 → ∃ x : BitVec (8 * 2 ^ o.t.toNat), gives (x.signExtend 64) ∧
        ∀ k < 8 * 2 ^ o.t.toNat, (x.getLsbD k = true ↔ ((List.range 64).countP fun l => (e l).getLsbD k) % 2 = 1)) ∧
      (o.op = 0 → CompletesLater (.vscan o) s s (.v o.d (laneVec fun l =>
        (BitVec.ofInt (8 * 2 ^ o.t.toNat) ((List.range (l + 1)).map fun j => (e j).toInt).sum).signExtend 32)))) ∧
    (o.t.toNat < 6 → o.op.toNat < 3 →
      (∃ v fl, CompletesLater (.vscan o) s (s.setFlags s.here fl) (.v o.d v)) ∧
        ∃ x fl, CompletesLater (.vred o) s (s.setFlags s.here fl) (.s o.d x)) ∧
    (o.t.toNat < 6 → (6 < o.op.toNat ∨ (o.op.toNat = 6 ∧ o.t.toNat < 2) ∨ (3 ≤ o.op.toNat ∧ o.op.toNat < 6 ∧ 3 ≤ o.t.toNat)) →
      Traps (.vred o) s .a { cause := 1, sub := 3 }) ∧
    (o.t.toNat < 6 → 3 ≤ o.op.toNat → Traps (.vscan o) s .a { cause := 1, sub := 3 })

/-- Adding the elements of a list of any format to an XA gives the same XA for every permutation of the list, and adding two lists
one after the other is adding the lists joined. (R107.) -/
def Obligations.ExactSumsIgnoreOrder : Prop :=
  ∀ (x : Xa) (f : Fmt) (es fs : List Nat),
    (es.Perm fs → x.addAll f es = x.addAll f fs) ∧ (x.addAll f es).addAll f fs = x.addAll f (es ++ fs)

/-- With a 64-byte aligned XA of the own slice that the checks pass, XCLR writes zero, XADDV and VRED under XA add every lane, VXACC
the exact products of the scale and each lane, AMO.XADD one value: each performs one write of the 64 bytes and completes,
raising no flag but those of VXACC; AMO.XADD of an XA elsewhere leaves as one posted message; XRD of a floating-point type
leaves the rounded value in flight for s_d with the flags of reading; a misaligned XA of an A word raises ILLEGAL OPERAND, of
AMO.XADD ILLEGAL ALIGN. ACCRD of 64 entries within VIS leaves in flight for v_d their low words when ARRIVAL is set, and else
the FP32 values of the scaled readout, zero for a zero entry, raising only arithmetic flags; ACCCLR of a run within VIS sets
exactly its entries of VIS to zero, leaves every other entry of both banks, and completes; operands outside the bank raise
ILLEGAL OPERAND. exec answers a next state with this effect, under conditions on the state and operands alone, for: amoXadd,
vxacc, accrd, accclr, xclr, xaddv, xrd. (R106, R107, R344, R419, R439, R447, R448, R336, R337, R102, R105, R210.) -/
def Obligations.AccumulatorWordsComplete : Prop :=
  (
    ∀ (s : State) (c : RA) (v : RABF) (m : RDAO) (x : RRR) (r : RDAT) (n : RABF) (a : Nat),
      let xa := Xa.ofBytes (s.readIA a 64)
      let updates (i : Instr) (va : W64) (y : Xa) : Prop :=
        va.toNat % 64 = 0 → s.OwnAccess .a va 64 true a → CompletesLater i s (s.perform a y.toBytes) .none
      updates (.xclr c) (s.cur.sreg c.a) ⟨0, 0⟩ ∧
      (∀ f, 2 ≤ v.fn.toNat → typeFmt v.fn = some f → updates (.xaddv v) (s.cur.sreg v.a) (xa.addAll f (elements f (s.cur.vreg v.b)))) ∧
      (v.fn.toNat < 2 → Traps (.xaddv v) s .a { cause := 1, sub := 0 }) ∧
      (∀ f, m.op = 6 → 2 ≤ m.t.toNat → typeFmt m.t = some f →
        updates (.vred m) (s.cur.sreg m.d) (xa.addAll f (elements f (s.cur.vreg m.a)))) ∧
      ((s.cur.sreg x.d).toNat % 64 = 0 → s.OwnAccess .a (s.cur.sreg x.d) 64 true a →
        let scale := readFp Fp.fp32 (wfield (s.cur.sreg x.b) 0 32)
        let sum := (elements (.fp Fp.fp32) (s.cur.vreg x.a)).foldl (fun y e => xaccLane scale y (readFp Fp.fp32 e)) (xa, 0)
        CompletesLater (.vxacc x) s ((s.perform a sum.1.toBytes).setFlags s.here sum.2) .none) ∧
      (∀ f, typeFp r.t = some f → (s.cur.sreg r.a).toNat % 64 = 0 → s.OwnAccess .a (s.cur.sreg r.a) 64 false a →
        CompletesLater (.xrd r) s (s.setFlags s.here (xa.read f).2) (.s r.d (BitVec.ofNat 64 (xa.read f).1))) ∧
      (∀ y, xaddValue n.fn.toNat (s.cur.sreg n.b) = some y → (s.cur.sreg n.a).toNat % 64 = 0 →
        s.maySignal .w n.q →
        (s.OwnAccess .w (s.cur.sreg n.a) 64 true a →
          Completes (.amoXadd n) s ((s.noteTaint (view (.amoXadd n))).perform a (xa.add y).toBytes) .none) ∧
        (s.checkMem .w false true [(s.cur.sreg n.a, 64)] = .ok [⟨s.cur.sreg n.a, a, 64⟩] → s.inSlice s.here a = false →
          Completes (.amoXadd n) s ((s.noteTaint (view (.amoXadd n))).post a (.xadd a n.fn (s.cur.sreg n.b)) false) .none)) ∧
      ((s.cur.sreg c.a).toNat % 64 ≠ 0 → Traps (.xclr c) s .a { cause := 1, sub := 3 }) ∧
      (n.fn.toNat < 5 → (s.cur.sreg n.a).toNat % 64 ≠ 0 →
        Traps (.amoXadd n) s .w { cause := 1, sub := 4, addr := s.cur.sreg n.a }) ∧
      (5 ≤ n.fn.toNat → Traps (.amoXadd n) s .w { cause := 1, sub := 0 })) ∧
  (
    ∀ (s : State) (o : RRR) (c : RAB),
      let e := (s.cur.sreg o.a).toNat
      let w := s.cur.sreg o.b
      let first := (s.cur.sreg c.a).toNat
      let n := (s.cur.sreg c.b).toNat
      let entry (t : State) (vis : Bool) (k : Nat) := Tab.get 0 (t.tile s.here).banks ((t.tile s.here).bankIndex vis k)
      (e ≤ 4032 → w.toNat / 2 ^ 17 = 0 →
        (w.getLsbD 16 = true → CompletesLater (.accrd o) s s (.v o.d (laneVec fun l => (entry s true (e + l)).setWidth 32))) ∧
        (w.getLsbD 16 = false → ∃ v fl, CompletesLater (.accrd o) s (s.setFlags s.here fl) (.v o.d v) ∧
          (∀ l < 64, lane v l = BitVec.ofNat 32 (awRead (entry s true (e + l)) (sgn 16 w.toNat) (.fp Fp.fp32) pFp32 0).1) ∧
          ∀ l < 64, entry s true (e + l) = 0 → lane v l = 0)) ∧
      (4032 < e ∨ w.toNat / 2 ^ 17 ≠ 0 → Traps (.accrd o) s .a { cause := 1, sub := 3 }) ∧
      (first ≤ 4095 → n ≤ 4096 - first →
        ∃ t, exec (.accclr c) s = .next t ∧
          (∀ k < 4096, entry t true k = if first ≤ k ∧ k < first + n then 0 else entry s true k) ∧
          (∀ k < 4096, entry t false k = entry s false k) ∧ t.cur.regs = s.cur.regs ∧ t.mem = s.mem ∧ t.pkg = s.pkg) ∧
      (4095 < first ∨ 4096 - first < n → Traps (.accclr c) s .a { cause := 1, sub := 3 }))

/-- With every element an access of the own slice that the checks of R370 pass, and none of the word's accesses performed yet, LD
leaves in flight for s_d its 1, 2, 4 or 8 bytes zero-extended, LDV lanes of 4 bytes from 256 consecutive bytes, LDVS lanes at a
signed stride and LDVX at scaled indexes for v_d; nothing else changes but the log of a byte with a pending shadow; a scale
above 4 raises ILLEGAL RESERVED_OP. (R384, R370, R371, R4, R162.) -/
def Obligations.LocalLoadsReadTheirBytes : Prop :=
  ∀ (s : State) (o : RIS) (v : RI) (d : RRR) (x : RRF) (a : Nat) (b : Nat → Nat),
    let n := 2 ^ o.size.toNat
    let lanesAt : VReg := laneVec fun l => BitVec.ofNat 32 (ofBytes (s.readIA (b l) 4))
    let each : State := (List.range 64).foldl (fun u l => u.reads .l (b l) 4) s
    (s.OwnAccess .l (s.cur.sreg o.a + o.imm.signExtend 64 * BitVec.ofNat 64 n) n false a →
      CompletesLater (.ld o) s (s.reads .l a n) (.s o.d (BitVec.ofNat 64 (ofBytes (s.readIA a n))))) ∧
    (s.OwnLanes .l (fun l => s.cur.sreg v.a + v.imm.signExtend 64 * 256 + BitVec.ofNat 64 (4 * l)) false b →
      CompletesLater (.ldv v) s each (.v v.d lanesAt)) ∧
    (s.OwnLanes .l (fun l => s.cur.sreg d.a + BitVec.ofNat 64 l * s.cur.sreg d.b) false b →
      CompletesLater (.ldvs d) s each (.v d.d lanesAt)) ∧
    (x.fn.toNat ≤ 2 →
      s.OwnLanes .l (fun l => s.cur.sreg x.a + BitVec.ofNat 64 ((lane (s.cur.vreg x.b) l).toNat * 2 ^ x.fn.toNat)) false b →
      CompletesLater (.ldvx x) s each (.v x.d lanesAt)) ∧
    (2 < x.fn.toNat → Traps (.ldvx x) s .l { cause := 1, sub := 0 })

/-- GLD of a translated and leased address departs with REASON 0x01, the IA as key, DEP 1 and s_d as destination; GLDV with active
lanes that all pass the checks departs keyed to the lowest active lane's IA with DEP the number of active lanes and v_d as
destination; with no active lane it retires and v_d stands. (R379, R380, R47, R370.) -/
def Obligations.GlobalLoadsDepart : Prop :=
  ∀ (s : State) (o : RIS) (g : RRF) (xs : List Elem),
    let n := 2 ^ o.size.toNat
    let va := s.cur.sreg o.a + o.imm.signExtend 64 * BitVec.ofNat 64 n
    let lanesOn := (List.range 64).filter fun l => (s.cur.preg g.fn).getLsbD l
    (∀ ia, s.checkMem .l false false [(va, n)] = .ok [⟨va, ia, n⟩] →
      Departs (.gld o) s s 1 (BitVec.ofNat 64 ia) true 1 (some (.s o.d))) ∧
    (s.checkMem .l false false (lanesOn.map fun l =>
        (s.cur.sreg g.a + BitVec.ofNat 64 ((lane (s.cur.vreg g.b) l).toNat * 4), 4)) = .ok xs →
      (∀ x rest, xs = x :: rest → Departs (.gldv g) s s 1 (BitVec.ofNat 64 x.ia) true lanesOn.length (some (.v g.d))) ∧
      (lanesOn = [] → s.maySignal .l g.q → Completes (.gldv g) s s .none))

/-- GETF of a 16-byte aligned own-slice future that is full leaves VALUE in flight for s_d; an empty one departs with REASON 0x04,
DEP 1, to be performed again; one elsewhere departs too; FLRD of an own pip leaves its value in flight, of another tile's pip
departs with REASON 0x01 past the word. A misaligned address raises ILLEGAL ALIGN. (R378, R374, R373, R47, R58, R147.) -/
def Obligations.FuturesAndPipsAreRead : Prop :=
  ∀ (s : State) (o : RDA) (a : Nat),
    let va := s.cur.sreg o.a
    (va.toNat % 16 = 0 → s.checkMem .l false false [(va, 16)] = .ok [⟨va, a, 16⟩] →
      (s.inSlice s.here a = true → s.uncorrectable a 16 = none →
        let u := s.reads .l a 16
        let v := if s.cur.polled then u.logDet s.here 6 false (s.cur.pc .l) else u
        (s.readNum (a + 8) 8 ≠ 0 →
          CompletesLater (.getf o) s (v.modCur fun t => { t with backoff := 0, polled := false })
            (.s o.d (BitVec.ofNat 64 (s.readNum a 8)))) ∧
        (s.readNum (a + 8) 8 = 0 →
          Departs (.getf o) s (u.noteKey (BitVec.ofNat 64 a) 16) 4 (BitVec.ofNat 64 a) false 1 (some (.s o.d)))) ∧
      (s.inSlice s.here a = false → Departs (.getf o) s s 4 (BitVec.ofNat 64 a) false 1 (some (.s o.d)))) ∧
    (va.toNat % 16 ≠ 0 → Traps (.getf o) s .l { cause := 1, sub := 4, addr := va }) ∧
    (va.toNat % 8 = 0 → s.iaOf .l va 8 false = some a → s.inFlagWindow a = true →
      (s.inSlice s.here a = true → s.uncorrectable a 8 = none → CompletesLater (.flrd o) s s (.s o.d (BitVec.ofNat 64 (s.readNum a 8)))) ∧
      (s.inSlice s.here a = false → Departs (.flrd o) s s 1 (BitVec.ofNat 64 a) true 1 (some (.s o.d)))) ∧
    (va.toNat % 8 ≠ 0 → Traps (.flrd o) s .l { cause := 1, sub := 4, addr := va })

/-- On a ring of the own slice with no uncorrectable unit, open or opened by the word: RNGWAIT of a filled slot proceeds, of one not
filled departs with REASON 0x08 keyed to TAIL, and of one past DEPTH raises ILLEGAL OPERAND; RNGREL of a ring that is not empty
writes HEAD + 1 and of an empty one raises ILLEGAL OPERAND; on an open ring PUB of a count that fits writes TAIL + count (a
count of 0 writes nothing); a larger count, or a ring not open, raises ILLEGAL OPERAND. (R407, R400, R125, R165, R47.) -/
def Obligations.RingWordsMoveTheirPointers : Prop :=
  ∀ (s : State) (w : RAB) (r : RA) (a : Nat) (q : Qcw), s.ringAt s.here a = some q → s.uncorrectable a 32 = none →
    let u := s.openRing s.here a (s.cur.task.getD 0)
    let d := ((s.cur.sreg w.b).toNat + 2 ^ 32 - q.head) % 2 ^ 32
    let n := (s.cur.sreg w.b).toNat
    (s.iaOf .l (s.cur.sreg w.a) 32 false = some a →
      (q.depth ≤ d → Traps (.rngwait w) s .l { cause := 1, sub := 3 }) ∧
      (d < q.depth → d < q.occupancy → s.maySignal .l w.q →
        Completes (.rngwait w) s (u.modCur fun t => { t with backoff := 0, polled := false }) .none) ∧
      (d < q.depth → q.occupancy ≤ d → 
        Departs (.rngwait w) s (u.noteKey (BitVec.ofNat 64 (a + 20)) 8) 8 (BitVec.ofNat 64 (a + 20)) false 1 none)) ∧
    (s.iaOf .w (s.cur.sreg r.a) 32 true = some a →
      (q.tail ≠ q.head → s.maySignal .w r.q →
        Completes (.rngrel r) s (u.perform (a + 16) (toBytes 4 ((q.head + 1) % 2 ^ 32))) .none) ∧
      (q.tail = q.head → Traps (.rngrel r) s .w { cause := 1, sub := 3 })) ∧
    (s.iaOf .w (s.cur.sreg w.a) 32 true = some a →
      (q.depth - q.occupancy < n ∨ s.ringOpen s.here a = false → Traps (.pub w) s .w { cause := 1, sub := 3 }) ∧
      (s.ringOpen s.here a = true → n ≤ q.depth - q.occupancy → s.maySignal .w w.q →
        Completes (.pub w) s (if n = 0 then s else s.perform (a + 20) (toBytes 4 ((q.tail + n) % 2 ^ 32))) .none))

/-- A FENCE half of L that is not full, or whose W half is not behind, and a MARK half whose partner is not behind, once counted,
complete; a full one whose W half is behind only counts itself; a MARK half whose partner has not been reached, or with an own-
slice write of the strand still held behind a release, only counts itself; the W half of a FENCE holds until its L half is
reached; then it departs with REASON 0x03 and the scope while a posted store is outstanding at a scope beyond the tile, of .rel
and .full holds for an own-slice write that is held behind a release, and else completes, of .acq whatever is held; an order
field of 0 raises ILLEGAL OPERAND. (R372, R389, R155, R157, R308.) -/
def Obligations.FencesAndMarksMeetTheirPartner : Prop :=
  ∀ (s : State) (q : BitVec 4) (ord scope : BitVec 2),
    let l2 := s.modCur fun t => t.countHalf 2 .l
    let l0 := s.modCur fun t => t.countHalf 0 .l
    let w3 := s.modCur fun t => t.countHalf 3 .w
    let w1 := s.modCur fun t => t.countHalf 1 .w
    let outstanding := s.outstanding (s.cur.task.getD 0) s.cur.rank
    let held := s.ownHeld (s.cur.task.getD 0) s.cur.rank s.here
    (Traps (.fenceL q 0 scope) s .l { cause := 1, sub := 3 } ∧ Traps (.fenceW q 0 scope) s .w { cause := 1, sub := 3 }) ∧
    (ord ≠ 0 → ord ≠ 3 ∨ l2.cur.halves[2] ≤ l2.cur.halves[3] → s.maySignal .l q → Completes (.fenceL q ord scope) s l2 .none) ∧
    (ord ≠ 0 → s.cur.halves[2] < s.cur.halves[3] + 1 → exec (.fenceW q ord scope) s = .next s) ∧
    (ord ≠ 0 → s.cur.halves[3] < s.cur.halves[2] → scope ≠ 0 → outstanding = true → Departs (.fenceW q ord scope) s s 3 (scope.setWidth 64) true 1 none) ∧
    (l2.cur.halves[3] < l2.cur.halves[2] → exec (.fenceL q 3 scope) s = .next l2) ∧
    (ord ≠ 0 → scope = 0 ∨ outstanding = false → ord = 1 ∨ held = false → s.cur.halves[3] < s.cur.halves[2] → s.maySignal .w q →
      Completes (.fenceW q ord scope) s w3 .none) ∧
    (ord = 2 ∨ ord = 3 → scope = 0 ∨ outstanding = false → held = true → s.cur.halves[3] < s.cur.halves[2] →
      exec (.fenceW q ord scope) s = .next s) ∧
    (l0.cur.halves[0] ≤ l0.cur.halves[1] → held = false → s.maySignal .l q → Completes (.markL q) s l0 .none) ∧
    (l0.cur.halves[1] < l0.cur.halves[0] ∨ held = true → exec (.markL q) s = .next l0) ∧
    (w1.cur.halves[1] ≤ w1.cur.halves[0] → held = false → s.maySignal .w q → Completes (.markW q) s w1 .none) ∧
    (w1.cur.halves[0] < w1.cur.halves[1] ∨ held = true → exec (.markW q) s = .next w1)

/-- With every element an access of the own slice that the checks of R370 pass, each of these stores performs its elements in lane
order and retires: the 1 to 8 bytes of s_b, the 64 lanes of v_b in a row, at a stride or at indexes, or the active lanes of a
scatter; nothing else changes but the log of a tainted operand. Where memory was canonical and nothing waits on the slice, every
byte outside the elements reads as before, and the bytes of a scalar store read as s_b. GST to another tile, memory or package
leaves as one posted store, and so does each element of a GSTV that lies there; the word retires. A scale above 4 raises ILLEGAL
RESERVED_OP. (R415, R381, R382, R370, R371, R64, R287.) -/
def Obligations.LocalStoresArePerformed : Prop :=
  ∀ (s : State) (o : RRS) (v : RRR) (x : RRF) (a : Nat) (b : Nat → Nat),
    let n := 2 ^ o.size.toNat
    let va := s.cur.sreg o.a + o.d.signExtend 64 * BitVec.ofNat 64 n
    let lanes (src : VReg) (ls : List Nat) : List (Nat × List Byte) := ls.map fun l => (b l, toBytes 4 (lane src l).toNat)
    let stores (i : Instr) (ws : List (Nat × List Byte)) (more : State → Prop) : Prop :=
      s.maySignal .w (view i).q →
      ∃ t, exec i s = .next t ∧ (ws.foldl (fun u w => u.storeOut w.1 w.2) (s.noteTaint (view i))).Keeps t (view i) .none ∧
        (s.memoryCanonical → s.quietSlice s.here →
          (∀ p, (∀ w ∈ ws, p < localOf w.1 ∨ localOf w.1 + w.2.length ≤ p) → t.readByte p = s.readByte p) ∧ more t)
    let scalar (i : Instr) : Prop := stores i [(a, toBytes n (s.cur.sreg o.b).toNat)] fun t =>
      t.readNum a n = (s.cur.sreg o.b).toNat % 2 ^ (8 * n)
    (s.OwnAccess .w va n true a → scalar (.st o) ∧ scalar (.gst o)) ∧
    (s.OwnLanes .w (fun l => s.cur.sreg v.a + v.d.signExtend 64 * 256 + BitVec.ofNat 64 (4 * l)) true b →
      stores (.stv v) (lanes (s.cur.vreg v.b) (List.range 64)) fun _ => True) ∧
    (s.OwnLanes .w (fun l => s.cur.sreg v.a + BitVec.ofNat 64 l * s.cur.sreg v.d) true b →
      stores (.stvs v) (lanes (s.cur.vreg v.b) (List.range 64)) fun _ => True) ∧
    (x.fn.toNat ≤ 2 →
      s.OwnLanes .w (fun l => s.cur.sreg x.a + BitVec.ofNat 64 ((lane (s.cur.vreg x.d) l).toNat * 2 ^ x.fn.toNat)) true b →
      stores (.stvx x) (lanes (s.cur.vreg x.b) (List.range 64)) fun _ => True) ∧
    ((∀ l < 64, (s.cur.preg x.fn).getLsbD l = true →
        s.OwnAccess .w (s.cur.sreg x.a + BitVec.ofNat 64 ((lane (s.cur.vreg x.d) l).toNat * 4)) 4 true (b l)) →
      stores (.gstv x) (lanes (s.cur.vreg x.b) ((List.range 64).filter fun l => (s.cur.preg x.fn).getLsbD l)) fun _ => True) ∧
    (2 < x.fn.toNat → Traps (.stvx x) s .w { cause := 1, sub := 0 }) ∧
    (s.checkMem .w false true [(va, n)] = .ok [⟨va, a, n⟩] → s.inSlice s.here a = false → s.cur.partW = 0 → s.maySignal .w o.q →
      Completes (.gst o) s ((s.noteTaint (view (.gst o))).post a (.store a (toBytes n (s.cur.sreg o.b).toNat)) false) .none) ∧
    (∀ xs, let ls := (List.range 64).filter fun l => (s.cur.preg x.fn).getLsbD l
      s.checkMem .w false true (ls.map fun l => (s.cur.sreg x.a + BitVec.ofNat 64 ((lane (s.cur.vreg x.d) l).toNat * 4), 4)) = .ok xs →
      s.firstBlocked xs = none → s.cur.partW = 0 → s.maySignal .w x.q →
      Completes (.gstv x) s ((ls.zip xs).foldl (fun u y => u.storeOut y.2.ia (toBytes 4 (lane (s.cur.vreg x.b) y.1).toNat))
        (s.noteTaint (view (.gstv x)))) .none)

/-- PUTF of a 16-byte aligned own-slice future, with no write of the strand outstanding and no earlier load left, writes s_b and
STATE 1; else it is posted as one release message, which names the word's place in program order. FLADD of an own pip, when its
order lets it, notes its setter and writes the sum modulo 2^64; else it is posted. FLWAIT of an own pip at or above the
threshold retires, with .sub subtracting; below it departs with REASON 0x05, DEP 1, to be performed again, and so for every pip
of another tile. A misaligned address raises ILLEGAL ALIGN; an address outside the flag windows, or an order field that the word
does not have, raises ILLEGAL OPERAND. (R401, R373, R375, R152, R47, R308.) -/
def Obligations.FuturesAndPipsAreWritten : Prop :=
  ∀ (s : State) (o : RAB) (f : ROrd) (sub : Bool) (a : Nat),
    let va := s.cur.sreg o.a
    let pv := s.cur.sreg f.a
    let v := s.cur.sreg f.b
    let outstanding := s.outstanding (s.cur.task.getD 0) s.cur.rank
    let release := f.ord == 2 && f.scope != 0
    let trail := s.cur.loadsTrail
    let held := release || (f.ord == 2 && trail)
    let now := !(release && outstanding) && !(f.ord == 2 && trail)
    let plain := f.ord = 0 ∧ f.scope = 0
    let pip (i : Instr) (write : Bool) (r : Prop) : Prop :=
      pv.toNat % 8 = 0 → s.iaOf .w pv 8 write = some a → s.inFlagWindow a = true → s.maySignal .w (view i).q → r
    let put := s.noteTaint (view (.putf o))
    let add := s.noteTaint (view (.fladd f))
    let p := BitVec.ofNat 64 (s.readNum a 8)
    let waiting := s.modCur fun t => { t with flagWaitSince :=
      if t.flagWaitSince.isSome then t.flagWaitSince else some (s.tileCycles s.here, localOf a % 512 / 8) }
    let waited := if sub then s.perform a (toBytes 8 (p - v).toNat) else s
    let traced := match s.cur.flagWaitSince with
      | some (since, _) => waited.traceWait s.here (s.focus % 8) (localOf a % 512 / 8) since (s.cur.pc .w)
      | none => waited
    let passed := traced.modCur fun t => { t with backoff := 0, polled := false, flagWaitSince := none }
    (va.toNat % 16 ≠ 0 → Traps (.putf o) s .w { cause := 1, sub := 4, addr := va }) ∧
    (va.toNat % 16 = 0 → s.maySignal .w o.q →
      (s.OwnAccess .w va 16 true a →
        (outstanding = false → trail = false →
          Completes (.putf o) s (put.perform a (toBytes 8 (s.cur.sreg o.b).toNat ++ toBytes 8 1)) .none) ∧
        (outstanding = true ∨ trail = true →
          Completes (.putf o) s (put.post a (.putf a (s.cur.sreg o.b) (s.cur.walk .w)) true) .none)) ∧
      (s.checkMem .w false true [(va, 16)] = .ok [⟨va, a, 16⟩] → s.inSlice s.here a = false →
        Completes (.putf o) s (put.post a (.putf a (s.cur.sreg o.b) (s.cur.walk .w)) true) .none)) ∧
    (¬ (f.ord = 2 ∨ plain) → Traps (.fladd f) s .w { cause := 1, sub := 3 }) ∧
    (f.ord = 2 ∨ plain → pv.toNat % 8 ≠ 0 → Traps (.fladd f) s .w { cause := 1, sub := 4, addr := pv }) ∧
    (f.ord = 2 ∨ plain → pv.toNat % 8 = 0 → s.iaOf .w pv 8 true = some a → s.inFlagWindow a = false →
      Traps (.fladd f) s .w { cause := 1, sub := 3 }) ∧
    (f.ord = 2 ∨ plain → pip (.fladd f) true
      ((s.inSlice s.here a = true → s.uncorrectable a 8 = none → now = true →
        Completes (.fladd f) s ((add.modTile (localOf a / 0x100000) fun k =>
          { k with setters := Tab.put k.setters (localOf a % 512 / 8) (s.here, s.chip, 0, s.focus % 8) }).perform a
            (toBytes 8 (p + v).toNat)) .none) ∧
      (s.inSlice s.here a = false ∨ (s.uncorrectable a 8 = none ∧ now = false) →
        Completes (.fladd f) s (add.post a (.fladd a v (if held then some (s.cur.walk .w) else none)) held) .none))) ∧
    (¬ (f.ord = 1 ∨ plain) → Traps (.flwait f sub) s .w { cause := 1, sub := 3 }) ∧
    (f.ord = 1 ∨ plain → pip (.flwait f sub) sub
      ((s.inSlice s.here a = true → s.uncorrectable a 8 = none →
        (v ≤ p → Completes (.flwait f sub) s passed .none) ∧
        (p < v → Departs (.flwait f sub) s (waiting.noteKey (BitVec.ofNat 64 a) 8) 5 (BitVec.ofNat 64 a) false 1 none)) ∧
      (s.inSlice s.here a = false → Departs (.flwait f sub) s s 5 (BitVec.ofNat 64 a) false 1 none)))

/-- With an address aligned to its size n, in the own slice, that the checks of R342 pass: ADD, AND, OR, XOR, MIN, MAX, MINU, MAXU,
SWAP write their result on n bytes, CAS writes s_b when the old value is s_d and nothing otherwise, and the old value is in
flight for s_d, sign-extended for ADD, MIN and MAX and else zero-extended; FMIN and FMAX give the other operand for one NaN;
FADD notes its event. An address elsewhere departs with REASON 0x02, DEP 1 and s_d as destination, past the word. A misaligned
one raises ILLEGAL ALIGN. (R340, R341, R342, R343, R116, R47.) -/
def Obligations.ReturningAtomicsGiveTheOldValue : Prop :=
  ∀ (s : State) (o : RRS) (r : RRR) (a : Nat),
    let n := 2 ^ o.size.toNat
    let va := s.cur.sreg o.a
    let fa := s.cur.sreg r.a
    let old : BitVec (8 * n) := BitVec.ofNat (8 * n) (s.readNum a n)
    let v : BitVec (8 * n) := (s.cur.sreg o.b).setWidth (8 * n)
    let read (u : State) (i : Instr) (n : Nat) : State := (u.noteTaint (view i)).reads .w a n
    let gives (i : Instr) (x : BitVec (8 * n)) (back : W64) : Prop :=
      CompletesLater i s ((read s i n).perform a (toBytes n x.toNat)) (.s o.d back)
    let all : List (Instr × W64 × Nat × BitVec 5) :=
      ([.amoAdd o, .amoAnd o, .amoOr o, .amoXor o, .amoMin o, .amoMax o, .amoMinu o, .amoMaxu o, .amoSwap o, .amoCas o].map
        fun i => (i, va, n, o.d)) ++ [.amoFmin r, .amoFmax r, .amoFadd r].map fun i => (i, fa, 4, r.d)
    (va.toNat % n = 0 → s.OwnAccess .w va n true a →
      (gives (.amoAdd o) (old + v) (old.signExtend 64) ∧
        gives (.amoAnd o) (old &&& v) (old.setWidth 64) ∧
        gives (.amoOr o) (old ||| v) (old.setWidth 64) ∧
        gives (.amoXor o) (old ^^^ v) (old.setWidth 64) ∧
        gives (.amoMin o) (if v.slt old then v else old) (old.signExtend 64) ∧
        gives (.amoMax o) (if old.slt v then v else old) (old.signExtend 64) ∧
        gives (.amoMinu o) (if v < old then v else old) (old.setWidth 64) ∧
        gives (.amoMaxu o) (if old < v then v else old) (old.setWidth 64) ∧
        gives (.amoSwap o) (v) (old.setWidth 64) ∧
        CompletesLater (.amoCas o) s
          (if old = (s.cur.sreg o.d).setWidth (8 * n) then (read s (.amoCas o) n).perform a (toBytes n v.toNat) else read s (.amoCas o) n)
          (.s o.d (old.setWidth 64)))) ∧
    (fa.toNat % 4 = 0 → s.OwnAccess .w fa 4 true a →
      let m := s.readNum a 4
      let w := (s.cur.sreg r.b).toNat % 2 ^ 32
      let nan (x : Nat) : Bool := (readFp Fp.fp32 x).isNan
      let numbers (i : Instr) : Prop := ∃ x fl, CompletesLater i s (((read s i 4).perform a (toBytes 4 x)).setFlags s.here fl)
          (.s r.d (BitVec.ofNat 64 m)) ∧
        (nan m = true → nan w = false → x = w) ∧ (nan m = false → nan w = true → x = m) ∧
        (nan m = true → nan w = true → x = Fp.fp32.canon)
      let noted := ((s.noteTaint (view (.amoFadd r))).logDet s.here 1 false (s.cur.pc .w)).reads .w a 4
      numbers (.amoFmin r) ∧ numbers (.amoFmax r) ∧
      ∃ x fl, CompletesLater (.amoFadd r) s ((noted.perform a (toBytes 4 x)).setFlags s.here fl)
          (.s r.d (BitVec.ofNat 64 m))) ∧
    ∀ x ∈ all,
      (x.2.1.toNat % x.2.2.1 ≠ 0 → Traps x.1 s .w { cause := 1, sub := 4, addr := x.2.1 }) ∧
      (x.2.1.toNat % x.2.2.1 = 0 → s.checkMem .w false true [(x.2.1, x.2.2.1)] = .ok [⟨x.2.1, a, x.2.2.1⟩] →
        s.inSlice s.here a = false →
        Departs x.1 s (s.noteTaint (view x.1)) 2 (BitVec.ofNat 64 a) true 1 (some (.s x.2.2.2)))

/-- With an aligned address that the checks of R342 pass, a non-returning AMO of the own slice writes the result of its operation on
its size and retires, writing no register; FMIN and FMAX give the other operand for one NaN; FADD notes its event. An address
elsewhere leaves as one posted message to its home with the operation, size and value, and the word retires. A misaligned
address raises ILLEGAL ALIGN. (R340, R341, R342, R116, R64.) -/
def Obligations.PostedAtomicsUpdateMemory : Prop :=
  ∀ (s : State) (m : RABS) (u : RAB) (a : Nat),
    let n := 2 ^ m.size.toNat
    let va := s.cur.sreg m.a
    let fa := s.cur.sreg u.a
    let old : BitVec (8 * n) := BitVec.ofNat (8 * n) (s.readNum a n)
    let v : BitVec (8 * n) := (s.cur.sreg m.b).setWidth (8 * n)
    let posted (s : State) (op : AmoOp) (n : Nat) (x : W64) : State := s.post a (.amo op n a x 0 false) false
    let puts (i : Instr) (op : AmoOp) (x : BitVec (8 * n)) : Prop :=
      (va.toNat % n ≠ 0 → Traps i s .w { cause := 1, sub := 4, addr := va }) ∧
      (va.toNat % n = 0 → s.maySignal .w (view i).q →
        (s.OwnAccess .w va n true a → Completes i s ((s.noteTaint (view i)).perform a (toBytes n x.toNat)) .none) ∧
        (s.checkMem .w false true [(va, n)] = .ok [⟨va, a, n⟩] → s.inSlice s.here a = false →
          Completes i s (posted (s.noteTaint (view i)) op n (s.cur.sreg m.b)) .none))
    let k := s.readNum a 4
    let w := (s.cur.sreg u.b).toNat % 2 ^ 32
    let nan (x : Nat) : Bool := (readFp Fp.fp32 x).isNan
    let noted := (s.noteTaint (view (.amoFaddNr u))).logDet s.here 1 false (s.cur.pc .w)
    let floats (i : Instr) (op : AmoOp) (b : State) (holds : Nat → Prop) : Prop :=
      (fa.toNat % 4 ≠ 0 → Traps i s .w { cause := 1, sub := 4, addr := fa }) ∧
      (fa.toNat % 4 = 0 → s.maySignal .w (view i).q →
        (s.OwnAccess .w fa 4 true a →
          ∃ x fl, Completes i s ((b.perform a (toBytes 4 x)).setFlags s.here fl) .none ∧ holds x) ∧
        (s.checkMem .w false true [(fa, 4)] = .ok [⟨fa, a, 4⟩] → s.inSlice s.here a = false →
          Completes i s (posted b op 4 (s.cur.sreg u.b)) .none))
    let numbers (x : Nat) : Prop := (nan k = true → nan w = false → x = w) ∧ (nan k = false → nan w = true → x = k) ∧
      (nan k = true → nan w = true → x = Fp.fp32.canon)
    puts (.amoAddNr m) .add (old + v) ∧
        puts (.amoAndNr m) .and (old &&& v) ∧
        puts (.amoOrNr m) .or (old ||| v) ∧
        puts (.amoXorNr m) .xor (old ^^^ v) ∧
        puts (.amoMinNr m) .min (if v.slt old then v else old) ∧
        puts (.amoMaxNr m) .max (if old.slt v then v else old) ∧
        puts (.amoMinuNr m) .minu (if v < old then v else old) ∧
        puts (.amoMaxuNr m) .maxu (if old < v then v else old) ∧
        puts (.amoSwapNr m) .swap (v) ∧
      floats (.amoFminNr u) .fmin (s.noteTaint (view (.amoFminNr u))) numbers ∧
      floats (.amoFmaxNr u) .fmax (s.noteTaint (view (.amoFmaxNr u))) numbers ∧
      floats (.amoFaddNr u) .fadd noted fun _ => True

/-- Words written out from the encodings of the spec, at least one for each family of the opcode table, decode to their instructions
with their operands; a head without its extension word, an extension word with a nonzero DQ nibble, unassigned opcodes, reserved
fn values and nonzero bits where a format has none are refused by name. (R304, R305, R306, R310, R312, R313, R314, R315.) -/
def Obligations.SampleWordsDecode : Prop :=
  decodeWords 0x00018210 none = .ok (.add ⟨0, 3, false, 1, false, 2⟩, 1) ∧
    decodeWords 0x00518A07 none = .ok (.addi ⟨0, 3, false, 5, 7⟩, 1) ∧
    decodeWords 0x90318245 none = .ok (.cmp ⟨9, 3, false, 1, false, 8, 5⟩, 1) ∧
    decodeWords 0x00A28089 (some 0x0ABCDEF0) = .ok (.movi 0 5 0x089ABCDEF0, 2) ∧
    decodeWords 0x01170E00 (some 0x00000004) = .ok (.pbrxReg 0 3 false 7 4, 2) ∧
    decodeWords 0x01C00000 none = .ok (.rte 0, 1) ∧
    decodeWords 0x03F00000 none = .ok (.skip 0 0 0, 1) ∧
    decodeWords 0x05900000 none = .ok (.markL 0, 1) ∧
    decodeWords 0x0D900000 none = .ok (.markW 0, 1) ∧
    decodeWords 0x00A28089 none = .error .truncated ∧
    decodeWords 0x00A28089 (some 0x1ABCDEF0) = .error .dqExt ∧
    decodeWords 0x00100007 none = .error .reservedOp ∧
    decodeWords 0x00200028 none = .ok (.div ⟨0, 0, false, 0, false, 5⟩, 1) ∧
    decodeWords 0x0020002C none = .error .operand

/-- Every instruction of a word that keeps the limits of its row, with every operand at every value, has an encoding of one or two
words, as many as its row says, and the decoder reads from it that instruction and that length, whatever word follows a one-word
instruction. (R304, R305, R306, R307, R308, R312, R313, R314, R315.) -/
def Obligations.EncodedWordsDecodeBack : Prop :=
  ∀ (i : Instr) (next : W32), i.wellFormed = true → (view i).isEvent = false →
    ∃ w x, encode i = some (w, x) ∧ x.isSome = ((view i).len == 2) ∧ decodeWords w (some (x.getD next)) = .ok (i, (view i).len)

/-- When the next turn is engine e of slot n, the strand stands there and may move, the words at its PC can be fetched and decode to
an instruction of that engine, and none of the holds of the slip limit, closing words, tokens, sources, order and departures
applies, the step is that instruction performed by that strand, after time has passed and the fetch is noted; an instruction
that is illegal whatever the registers hold is performed (and traps) before those holds. Nothing is done yet where the word
traps and an engine behind it stands at a trapping word too, or where it would drop a word of which some accesses are performed.
A turn to land is the landing of the oldest result of the engine, in the same way; a turn of an event performs the event while
the package is on, unless its unit is being replaced (a request is then held), a trap comes first, or it would drop such a word;
a turn of a trace buffer writes its oldest record. (R63, R64, R65, R75, R77, R268, R269, R285, R310.) -/
def Obligations.StepRunsTheDecodedWord : Prop :=
  ∀ (s : State) (n : Nat) (e : Engine) (rest : List Turn) (i : Instr),
    let later := { s.tick with agenda := rest }
    let u := { later with focus := n }
    let t := u.cur
    (s.agenda = .word n e :: rest → n < 4096 → t.live = true → u.halted (n / 8) = false → u.pkg.packageError = false →
      u.pkg.power = .on → t.stoppedByDeparture e = false → t.overflowRisk e = false → t.idles e = false → t.inPart e = false →
      t.closing[engineIdx e] = none → u.fetchWaits e = none →
      ∀ w ext len, u.fetchWord e (t.pc e) = .ok w → u.fetchExt e w = .ok ext → wordEngine w = e → decodeWords w ext = .ok (i, len) →
      let o := exec i (u.noteFetch e (view i).len)
      let waits := (trapped later (n / 8) o && later.trapWaits exec n e) || later.cuts exec (n, e) o
      let taken : Prop := (waits = false → step s = o) ∧ (waits = true → step s = .next u)
      (stands t.super i = false → taken) ∧
      (stands t.super i = true →
        ((view i).meeting = true → (∀ f : Engine, t.walk f = t.walk .s) ∧ (∀ k : Fin 4, t.closing[k] = none) ∧ t.flights = []) →
        t.windowHolds e (view i).len = false → ((view i).len = 2 → t.headCloses = false) →
        (e = .s → t.closeHolds (view i).len = false) → t.tokensReady e (view i).q = true →
        t.violates (view i) = false → t.waitsFor (view i) = false → u.orderHolds i = false → t.departing = none → taken)) ∧
    (s.agenda = .land n e :: rest → n < 4096 →
      (u.cuts exec noEngine (u.land e) = false → step s = u.land e) ∧ (u.cuts exec noEngine (u.land e) = true → step s = .next u)) ∧
    (∀ k, s.agenda = .trace k :: rest → step s = .next (later.drainTrace k)) ∧
    (s.agenda = .event i :: rest → (view i).isEvent = true → later.pkg.power = .on →
      let drops := !abrupt i && later.cuts exec noEngine (exec i later)
      (later.suspended i = true → step s = .next (later.holdRequest i)) ∧
      (later.suspended i = false →
        (later.trapFirst exec i = false → drops = false → step s = exec i later) ∧
        (later.trapFirst exec i = true ∨ drops = true → step s = .next later)))

/-- On a tile that is neither stopped nor due to stop, the landing of an engine takes the oldest of its results in flight, writes
the value to its register, makes it full, adds the tokens that the word signals, and leaves every other register, the other
results in their order, and memory as they are; where a signal finds a queue of 8 tokens the TOKEN_FULL trap is taken after the
register is written. (R64, R71, R72, R75, R76.) -/
def Obligations.ResultsLandInOrder : Prop :=
  ∀ (s : State) (e : Engine) (before after : List Flight) (f : Flight),
    let u := s.modCur fun t => { t with flights := before ++ after }
    let landed := u.cur.landWrite f
    let b := s.modCur fun _ => landed
    s.halted s.here = false → s.cur.flights = before ++ f :: after → (∀ g ∈ before, g.engine ≠ e) → f.engine = e →
    (∀ r, f.dest = some (.s r) → landed.sreg r = f.sval ∧ landed.isFull (.s r) = true) ∧
    (∀ r, f.dest = some (.v r) → landed.vreg r = f.vval ∧ landed.isFull (.v r) = true) ∧
    (∀ r, f.dest ≠ some (.s r) → landed.sreg r = s.cur.sreg r) ∧ (∀ r, f.dest ≠ some (.v r) → landed.vreg r = s.cur.vreg r) ∧
    (∀ r, landed.preg r = s.cur.preg r ∧ landed.breg r = s.cur.breg r) ∧
    ((landed.signal e f.sp f.sn).isSome = true →
      ∃ t, s.land e = .next t ∧ t.cur.flights = before ++ after ∧ t.cur.regs = landed.regs ∧ t.mem = s.mem ∧
        landed.signal e f.sp f.sn = some t.cur) ∧
    (landed.signal e f.sp f.sn = none → s.land e = .next (b.takeTrap e { cause := 2, sub := 1, after := true }))

/-- In a canonical memory a run of bytes written at an address reads back byte by byte, every other address reads as before and the
form stays canonical; two canonical memories that read the same everywhere are the same list; and a write performed in the slice
of a tile where nothing waits changes no byte outside it and reads back. (R95, R121, R150.) -/
def Obligations.MemoryReadsWhatWasWritten : Prop :=
  ∀ (m m' : List Host.Cell) (a : Nat) (bs : List Byte) (s : State),
    (Memory.wf m = true → Memory.wf (cellsWrite m a bs) = true ∧
      (∀ i < bs.length, cellRead (cellsWrite m a bs) (a + i) = bs.getD i 0) ∧
      ∀ p, p < a ∨ a + bs.length ≤ p → cellRead (cellsWrite m a bs) p = cellRead m p) ∧
    (Memory.wf m = true → Memory.wf m' = true → (∀ p, cellRead m p = cellRead m' p) → m = m') ∧
    (∀ k ia, s.memoryCanonical → k < 512 → s.inSlice k ia = true → s.inSlice k (ia + bs.length) = true → k < s.tileCount →
      s.quietSlice k → (s.perform ia bs).readLocal (localOf ia) bs.length = bs ∧
        ∀ p, p < localOf ia ∨ localOf ia + bs.length ≤ p → (s.perform ia bs).readByte p = s.readByte p)

/-- After reset no slot holds a strand, no tile holds a command, record or open ring, there is no task, job or message, memory is
canonical, every pip is zero, ARITH_FLAGS, TRAP_BASE, TRAP_FRAMES, TRACE_CTL, STOP_AT and DETCAUSE are zero, ROW_LAG is 16,
SCHED_AGE, STEAL_CTL and WAVE_PERIOD hold their stated values, FRAME is 0, and the envelope is FULL with nothing pending. (The
spec states the values of ROW_LAG, SCHED_AGE, STEAL_CTL, WAVE_PERIOD, ARITH_FLAGS, TRACE_CTL, STOP_AT, DETCAUSE and the pips.
The choice of the model are the registers of an empty slot and WINDOW 256, log 3; and, log 4, zero for TRAP_BASE, TRAP_FRAMES
and CHK, which firmware sets by R270 and R78, FRAME 0, the envelope FULL, the coordinate and the units.) (R85, R128, R94, R198,
R288.) -/
def Obligations.ResetLeavesTheReset : Prop :=
  State.reset.memoryCanonical ∧ (∀ n, (State.reset.strand n).live = false ∧ (State.reset.strand n).task = none) ∧
    (∀ k, let t := State.reset.tile k
      t.cmds = [] ∧ t.recs = [] ∧ t.rings = [] ∧ t.arithFlags = 0 ∧ t.trapBase = 0 ∧ t.trapFrames = 0 ∧ t.traceCtl = 0 ∧
        t.stopAt = 0 ∧ t.detcause = Vector.replicate 16 0 ∧ t.rowLag = 16 ∧ t.rowqPolicy = 0 ∧ t.chk = false ∧ t.stopped = false) ∧
    State.reset.tasks = [] ∧ State.reset.jobs = [] ∧ State.reset.msgs = [] ∧ State.reset.toDispatch = [] ∧
    (∀ k < 512, ∀ n < 64, State.reset.pip k n = 0) ∧
    State.reset.pkg.schedAge = 0x10000 ∧ State.reset.pkg.stealCtl = 0x30040 ∧ State.reset.pkg.wavePeriod = 2000 ∧
    State.reset.frame = 0 ∧ State.reset.pkg.envActive = 0 ∧ State.reset.pkg.envPending = false ∧ State.reset.pkg.packageError = false

/-- From every state whose memory stands in its canonical form (addresses strictly rising, no entry equal to what an unlisted
address reads as), whatever agent moves next and whatever instruction or event it performs, a step that gives a next state gives
one whose memory stands in that form. (That reset has it is ResetLeavesTheReset.) (R95, R121.) -/
def Obligations.EveryStepKeepsMemoryCanonical : Prop :=
  ∀ (s t : State), s.memoryCanonical → step s = .next t → t.memoryCanonical

/-- For every instruction and every state exec answers a next state: no instruction is refused and none ends a run. A step answers a
next state too, unless the agenda names a strand slot that no package has, where it ends in the fault noAgent. (The agenda,
which says who moves next, is the choice of the model, log 1, and so is this fault, log 7: the spec has no such slot.) (R63,
R310.) -/
def Obligations.EveryInstructionAnswersANextState : Prop :=
  (∀ (i : Instr) (s : State), ∃ t, exec i s = .next t) ∧
    ∀ s : State, (∃ t, step s = .next t) ∨
      ∃ n e rest, 4096 ≤ n ∧ (s.agenda = .word n e :: rest ∨ s.agenda = .land n e :: rest ∨ s.agenda = .part n e :: rest) ∧ step s = .fault .noAgent

/-- For each kind of command: the command that its engine starts next, when its checks pass, leaves its queue, takes its pips,
becomes running and does what its engine does at a start; refused by its checks it never runs, writes nothing, and ends by its
fault. A running command with an element left performs that element, and a stopped one restarts, taking no pip again. A command
that has reached its end, or faults, ends. What has to wait for a page, a ring slot or a member leaves the page fault that it
raised and is done again. (That a start check which meets such a page is made again is the choice of the model, log 23, and so
is what a COLL waits for, log 42.) exec answers a next state with this effect, under conditions on the state and operands alone,
for: cpy, cpyg, cpys, mma, epil, mrg, sisect, mskev, coll, qctlSpill. (R86, R87, R89, R90, R164, R191, R459.) -/
def Obligations.CommandsStartRunAndRestart : Prop :=
  ∀ (s : State) (ref : CmdRef) (c : Cmd) (i : Instr),
    (c.kind, i) ∈ [(1, Instr.cpy ref), (2, .cpyg ref), (3, .cpys ref), (4, .mma ref), (5, .mrg ref), (6, .sisect ref), (7, .mskev ref),
      (8, .epil ref), (9, .coll ref), (0xA, .qctlSpill ref)] →
    s.findCmd ref = some c → s.enginesRun ref.tile = true →
    let k := ref.tile
    let u := unitOf c.kind
    let bump (t : State) : State := t.modTile k fun x => { x with startNext := x.startNext + 1 }
    let checked := u.check { s := s.popQueue k c, k := k, c := c }
    let running : Cmd := { checked.c with state := .running, unset := false, started := (checked.s.tile k).startNext }
    let taken := bump (checked.s.takePips k running)
    let begins (t : State) (d : Cmd) : Prop :=
      let r := u.setup { s := t.setCmd k { d with unset := false }, k := k, c := { d with unset := false } }
      (r.fault.isSome = true ∨ r.waits = false ∧ r.c.work.total ≤ r.pos → exec i s = .next (r.settleEnd u)) ∧
        (r.fault = none → r.waits = true → exec i s = .next ((t.keepFault r.s).setCmd k { d with unset := true })) ∧
        (r.fault = none → r.waits = false → r.pos < r.c.work.total → exec i s = .next (r.s.setCmd k r.c))
    let next := Run.step u { s := s, k := k, c := c }
    let back : Cmd := { c with state := .running, started := (s.tile k).startNext }
    let again := u.resume { s := bump (s.setCmd k back), k := k, c := back }
    (c.state = .queued → (s.startsNext k c = true ∧ c.missed = false) ∨ (c.unset = true ∧ s.couldStart k c = true) →
      (∀ f, checked.fault = some f → exec i s = .next ((bump checked.s).endCommand k
        { checked.c with started := (checked.s.tile k).startNext, extent := [] } (some f) true (u.record checked.c))) ∧
      (checked.fault = none → checked.waits = true → exec i s = .next ((s.keepFault checked.s).setCmd k { c with unset := true })) ∧
      (checked.fault = none → checked.waits = false → begins taken running)) ∧
    (c.state = .running → c.unset = true → begins s c) ∧
    (c.state = .running → c.unset = false → c.progress.toNat < c.work.total → c.engine ≠ 3 ∨ laterInOrder (s.tile k).cmds c = false →
      (next.fault = none → next.waits = false → exec i s = .next (next.s.setCmd k next.c)) ∧
      (next.fault = none → next.waits = true → exec i s = .next (s.keepFault next.s)) ∧
      (next.fault.isSome = true → exec i s = .next (next.settleEnd u))) ∧
    (c.state = .stopped → s.resumes k c = true →
      (again.fault = none → again.waits = false → exec i s = .next (again.s.setCmd k again.c)) ∧
      (again.fault = none → again.waits = true → exec i s = .next (s.keepFault again.s)) ∧
      (again.fault.isSome = true → exec i s = .next (again.settleEnd u)))

/-- One element of a running dense transfer (CPY) whose source unit can be read and whose destination unit can be written: its UNIT
bytes, read at SRC + i0 UNIT + the sum of the strides, stand last in the command's shadow at the IA of DST + i0 UNIT + the sum
of its strides, PROGRESS is one more, COPY_BYTES counts them, and nothing else changes but the log of a pending read. One
position of a running CPYG whose batch has been read: the table row that its index names stands last in the shadow at its packed
row, with its 16-byte units exchanged under SWZ; for an index at or beyond TABLE_ROWS, FILL in every 8 bytes, and the row counts
as skipped. (That a command's own read of bytes which its publish at a pre-emption has replaced gives what they held before is
the choice of the model, log 67.) (R90, R161, R182, R187, R286, R321, R358, R359.) -/
def Obligations.CopyElementsMoveTheirBytes : Prop :=
  ∀ (s : State) (ref : CmdRef) (c : Cmd) (a b u : Nat) (from_ into : W64),
    let k := ref.tile
    let e := c.progress.toNat
    let B (n : Nat) := c.num (0x40 + 2 * n) 2
    let digit (n : Nat) := e / ((List.range n).map B).prod % B n
    let at_ (base : W64) (strides : Nat) : W64 :=
      base + BitVec.ofInt 64 ((digit 0 * u : Nat) + ((List.range 5).map fun n => (digit (n + 1) : Int) * sgn 32 (c.num (strides + 4 * n) 4)).sum)
    let t := if s.shadowedBut k c.seq a u then s.logDet k 3 true c.id else s
    let reads (va : W64) : Prop := Run.iaOf ⟨s, k, c, none, false⟩ va u false = some a ∧ s.stoppedSlice a = false ∧
      s.pageWaits a u false = false ∧ s.uncorrectable a u = none
    let writes (t : State) (va : W64) : Prop := Run.iaOf ⟨t, k, c, none, false⟩ va u true = some b ∧ t.stoppedSlice b = false ∧
      t.pageWaits b u true = false ∧ t.blockedUnit b u false = none
    let bytes := c.overlay a (s.readIA a u)
    let copied (bs : List Byte) (w : CmdWork) : Cmd :=
      { c with shadow := c.shadow ++ [(b, bs)], progress := BitVec.ofNat 64 (e + 1), work := w }
    s.findCmd ref = some c → s.enginesRun k = true → c.engine = 0 → c.state = .running → c.unset = false → e < c.work.total →
    (c.kind = 1 → c.srcTf = 0 → c.dstTf = 0 → c.srcFmt = c.dstFmt → u = c.num 0x78 2 → u ≠ 0 →
      from_ = at_ (c.va 0x20) 0x50 → into = at_ (c.va 0x28) 0x64 → reads from_ → writes t into →
      exec (.cpy ref) s = .next ((t.count k 0xE (BitVec.ofNat 64 u)).setCmd k (copied bytes c.work))) ∧
    (∀ x, c.kind = 2 → u = c.num 0x54 4 → c.work.srcOff = e / c.num 0x5C 1 * c.num 0x5C 1 + 1 → c.work.cursor ≠ [e] →
      x = c.work.index.getD (e % c.num 0x5C 1) 0 →
      from_ = c.va 0x20 + BitVec.ofNat 64 (x * c.num 0x4C 4) → into = c.va 0x30 + BitVec.ofNat 64 (e * c.num 0x50 4) →
      (x < c.num 0x48 4 → reads from_ → writes t into → (c.num 0x5D 1 = 1 → u % 128 = 0) →
        exec (.cpyg ref) s = .next ((t.count k 0xE (BitVec.ofNat 64 u)).setCmd k
          (copied (if c.num 0x5D 1 = 1 then
              (List.range (u / 16)).flatMap fun n => (bytes.drop (16 * (n ^^^ (e % 8)))).take 16 else bytes) c.work))) ∧
      (c.num 0x48 4 ≤ x → u % 8 = 0 → writes s into →
        exec (.cpyg ref) s = .next ((s.count k 0xE (BitVec.ofNat 64 u)).setCmd k
          (copied (List.replicate (u / 8) (toBytes 8 (c.va 0x40).toNat)).flatten
            { c.work with skipped := c.work.skipped + 1, firstSkipped := if c.work.firstSkipped = 0xFFFFFFFF then e else c.work.firstSkipped }))))

/-- A running command in its turn performs what is left of it and, where nothing faults or waits and no part of its publish goes to
another chip, publishes, signals and is gone from its tile; a collective completes on every member, and one whose publish was
held goes on with it. At its stamp edge a stamped command whose turn it is begins; one that would have to wait, or may not start
there, logs its event, leaves the queue and ends with the schedule-miss cause. A copy command that has been eligible for 65,536
FRAME cycles has SLACK 0 from then on, its record unchanged. S held for 4,096 cycles at a command queue that is still full takes
the schedule-violation trap with subcode 3. exec answers a next state with this effect, under conditions on the state and
operands alone, for: commandCompletion, stampEdge, copyAgePromotion, ecmdQueueTimeout. (R83, R89, R90, R92, R161, R184.) -/
def Obligations.CommandEventsComplete : Prop :=
  ∀ (s : State) (ref : CmdRef) (c : Cmd) (n : Nat),
    let k := ref.tile
    let u := unitOf c.kind
    let last := Run.rest u (c.work.total - c.progress.toNat) { s := s, k := k, c := c }
    let done : Cmd :=
      { last.c with state := .publishing, fault := none, refused := false, shadow := last.c.shadow ++ u.final last
                    records := (u.record last.c 0, u.record last.c 1) }
    let ws := done.shadow ++ match last.c.crec with
      | some a => [(a, u.record last.c 0)]
      | none => []
    (s.findCmd ref = some c →
      (c.state = .running → c.unset = false → s.enginesRun k = true → laterInOrder (s.tile k).cmds c = false →
        (c.kind = 9 → exec (.commandCompletion ref) s = .next (s.finishColl c)) ∧
        (c.kind ≠ 9 → exec (.commandCompletion ref) s = .next (last.settleEnd u)) ∧
        (c.kind ≠ 9 → last.fault = none → last.waits = false → last.c.work.total ≤ last.pos → last.k = k → last.c.seq = ref.seq →
          laterInOrder (last.s.tile k).cmds done = false → (last.s.awayChips done.shadow).isEmpty = true → last.c.acks = [] →
          last.s.blockedWrite done.shadow = none →
          Does (.commandCompletion ref) s fun t => t = (last.s.publishHere ws).finishCommand k done none ∧ t.findCmd ref = none)) ∧
      (c.state = .publishing → exec (.commandCompletion ref) s = .next (s.concludeCommand k c)) ∧
      (c.stamp ≠ 0 → c.state = .queued → s.enginesRun k = true → s.stampStarts k c = true → s.stampFirst k c = true →
        s.startTurn k c = true →
        let begun := (s.modTile k fun x => { x with stampStarts := Tab.put x.stampStarts c.engine s.frame }).beginCommand u k c
        ((∀ x ∈ (begun.tile k).cmds, x.seq = c.seq → x.state ≠ .queued) → Does (.stampEdge ref) s fun t => t = begun) ∧
        ((∃ x ∈ (begun.tile k).cmds, x.seq = c.seq ∧ x.state = .queued) → Does (.stampEdge ref) s fun t => t = s.missStamp k c)) ∧
      (c.stamp ≠ 0 → c.state = .queued → s.enginesRun k = true → c.missed = true ∨ s.stampLate c < 2 ^ 31 →
        s.stampStarts k c = false ∨ s.stampFirst k c = false →
        Does (.stampEdge ref) s fun t => t = s.missStamp k c) ∧
      (∀ since, c.eligibleAt = some since → c.engine = 0 → c.state = .queued → 65536 ≤ (s.frame - since).toNat →
        Does (.copyAgePromotion ref) s fun t => ∃ d, t.findCmd ref = some d ∧ d.slack = 0 ∧ d.bytes = c.bytes ∧ d.state = .queued)) ∧
    (∀ since, (s.strand n).ecmdSince = some since → (s.strand n).live = true → s.halted (n / 8) = false →
      ({ s with focus := n } : State).ecmdFull = true → 4096 ≤ (s.tileCycles (n / 8) - since).toNat →
      exec (.ecmdQueueTimeout n) s = .next ({ s with focus := n }.takeTrap .s { cause := 2, sub := 3 }))

/-- A mode request starts a transition, is refused while one is pending, and does nothing in its own mode; a transition that is done
makes the requested mode active; WINDOW, TRAP_FRAMES, STOP_AT, DETCAUSE, ARITH_FLAGS and a range register take a value that
keeps their rule, and nothing else changes; the controller takes the oldest SEED write that has reached it; a queue control word
that keeps the rules is stored whole. What it says of memory afterwards it says of a memory that was canonical before. exec
answers a next state with this effect, under conditions on the state and operands alone, for: envelopeModeWrite,
envelopeTransitionDone, windowWrite, seedWrite, trapFramesWrite, stopAtWrite, detcauseClear, rangeRegisterWrite,
arithFlagsWrite, qcwWrite. (R26, R39, R68, R94, R120, R126, R270, R279, R288, R301.) -/
def Obligations.RegisterEventsPerformTheirWrite : Prop :=
  ∀ (s : State) (n k : Nat) (v : W64) (m : BitVec 2) (job : W16) (rest : List DispatchMsg),
    let p := s.pkg
    (Does (.envelopeModeWrite m) s fun t => t.mem = s.mem ∧ t.tiles = s.tiles ∧
      t.pkg = if p.envPending then { p with envRefused := true } else if m = p.envActive then p else { p with envMode := m, envPending := true }) ∧
    (p.envPending = true → Does .envelopeTransitionDone s fun t => t.pkg.envActive = p.envMode ∧ t.mem = s.mem ∧ t.tiles = s.tiles ∧
      (p.thermalHeld = none → t.pkg.envPending = false) ∧
      (∀ h, p.thermalHeld = some h → h ≠ p.envMode → p.envMode ≠ 3 → t.pkg.envPending = true ∧ t.pkg.envMode = h)) ∧
    ((s.strand n).live = true → 16 ≤ wfield v 0 11 → wfield v 0 11 ≤ 1024 →
      exec (.windowWrite n v) s = .next (s.modStrand n fun x => { x with window := v.setWidth 11 })) ∧
    (s.toDispatch = .seedWrite job v :: rest → Does (.seedWrite job v) s fun t => t.toDispatch = rest ∧ (t.job job).seed = some v ∧
      t.mem = s.mem ∧ t.strands = s.strands) ∧
    (s.trapFramesOk (n / 8) v = true →
      exec (.trapFramesWrite n v) s = .next (s.modTile (n / 8) fun x => { x with trapFrames := v &&& 0xFFFC1 })) ∧
    exec (.stopAtWrite k v) s = .next (s.modTile k fun x => { x with stopAt := v }) ∧
    (∀ i : Fin 16, exec (.detcauseClear k (BitVec.ofNat 9 (0x140 + i.val))) s =
      .next (s.modTile k fun x => { x with detcause := x.detcause.set i 0 })) ∧
    exec (.detcauseClear k 0x150) s = .next (s.modPkg fun p => { p with detSum := 0 }) ∧
    (∀ i : Fin 16, (s.strand n).live = true →
      let puts (num : Nat) (f : RangeReg → RangeReg) : Prop :=
        exec (.rangeRegisterWrite n (BitVec.ofNat 9 (num + i.val)) v) s =
          .next (s.modStrand n fun x => x.setRanges (x.ranges.set i (f x.ranges[i])))
      (v &&& 0xFE0000000000FFFC = 0 → puts 0x100 fun r => { r with base := v }) ∧
        (v &&& 0xFE0000000000FFFF = 0 → puts 0x110 fun r => { r with limit := v }) ∧
        (v &&& 0xFF0000000000FFFF = 0 → puts 0x120 fun r => { r with offset := v })) ∧
    exec (.arithFlagsWrite k v) s = .next (s.modTile k fun x => { x with arithFlags := x.arithFlags &&& ~~~(v.setWidth 8) }) ∧
    (∀ i bytes, s.memoryCanonical → i < 31 → k < s.tileCount → s.tileCount ≤ 512 → bytes.length = 32 → (s.tileQcw k i).valid = false →
      (Qcw.ofBytes bytes).valid = true → s.queueOk k i (Qcw.ofBytes bytes) = true →
      Does (.qcwWrite (2 ^ 47 * s.chip + qcwTable k i) bytes) s fun t => t.readLocal (qcwTable k i) 32 = bytes ∧
        (∀ a, a < qcwTable k i ∨ qcwTable k i + 32 ≤ a → t.readByte a = s.readByte a) ∧ t.pkg = s.pkg ∧ t.strands = s.strands)

/-- Package reset leaves no strand, task, job or message, keeps FRAME, leaves every pip zero and, with no tile offline, every other
byte of the slices as it was, and derives the identity seed from the fused secret; boot accepts the vendor key and the images
and brings the package on with them, or leaves it in RECOVERY; a trip at 115 C removes power and all state; 110 C asks for
SERVICE and 100 C for COOL, later where a transition is pending; gating and power counts rise, saturating; a monitor entry is
published with its state once 2^32 FRAME cycles have passed; an image that the package holds and accepts is taken for its unit,
any other request is refused, and instance by instance the unit loads it, answering what it held, until it is in force (where
the digest no longer matches, the old one stays); a minimum SVN rises to an accepted one; an attestation report begins with its
nonce and is signed with the identity seed; a key load sets LOADED. What it says of memory afterwards it says of a memory that
was canonical before. (The choices of the model: how the identity seed is derived from the secret, log 63; memory after boot and
what a reset keeps, log 47; TRAP_BASE zero after a reset, log 4; the layout of the report and when an image is verified, log 48;
POWER_W capped at LIMIT_W, log 50.) exec answers a next state with this effect, under conditions on the state and operands
alone, for: packageReset, boot, thermalTrip, thermalModeRequest, powerGating, ageingMonitorUpdate, firmwareReplacement,
svnMinimumRaise, attestationRequest, keyLoad. (R85, R128, R141, R293, R294, R295, R296, R297, R299, R300, R301.) -/
def Obligations.PlatformEventsHaveTheirEffect : Prop :=
  ∀ (s : State) (temp gated watts m eol nonce index ia : Nat) (flash : Flash) (osc : W32) (margin : W16) (f : FwImage) (w : FwReplacing)
    (unit : Byte) (svn : W32),
    let p := s.pkg
    let keyed : Pkg := { p with vendorKey := flashKey flash }
    let found := if keyed.trusts (flashKey flash) then
        keyed.bootImages [5, 1, 2, 4, 3] (flash.images.map fun x => (imageOf x.1, imageOf x.2)) else none
    (Does .packageReset s fun t => t.strands = [] ∧ t.tasks = [] ∧ t.jobs = [] ∧ t.msgs = [] ∧ t.toDispatch = [] ∧ t.watches = [] ∧
      t.pkg.frame = s.frame ∧ t.pkg.packageError = false ∧ t.pkg.envPending = false ∧ t.pkg.envMode = p.envActive ∧
      t.pkg.secret = p.secret ∧ t.pkg.identity = shake256 p.secret 32 ∧
      (∀ k, (t.tile k).cmds = [] ∧ (t.tile k).arithFlags = 0 ∧ (t.tile k).trapBase = 0) ∧
      (s.memoryCanonical → ∀ a, a < 0x20000000 → 0xFFE00 ≤ a % 0x100000 → cellRead t.mem a = 0) ∧
      (s.memoryCanonical → (∀ k, (s.tile k).offline = false) → ∀ a, a < 0x20000000 → a < 0x100000 * s.tileCount →
        a % 0x100000 < 0xFFE00 → cellRead t.mem a = cellRead s.mem a)) ∧
    (p.power ≠ .on →
      (found = none → Does (.boot flash) s fun t => t.pkg.power = .recovery ∧ t.pkg.images = [] ∧ t.mem = [] ∧ t.strands = []) ∧
      (∀ x, found = some x → Does (.boot flash) s fun t => t.pkg.power = .on ∧ t.pkg.images = x ∧ t.pkg.vendorKey = flashKey flash ∧
        t.pkg.identity = shake256 p.secret 32 ∧ t.mem = [] ∧ t.strands = [] ∧ t.tasks = [])) ∧
    (115 ≤ temp → Does (.thermalTrip temp) s fun t => t.pkg.power = .off ∧ t.mem = [] ∧ t.strands = [] ∧ t.tasks = [] ∧ t.jobs = []) ∧
    (temp < 115 → Does (.thermalModeRequest temp) s fun t => t.pkg.tempC = BitVec.ofNat 8 (min temp 255) ∧
      (temp < 100 → t.pkg.envMode = p.envMode ∧ t.pkg.envPending = p.envPending ∧ t.pkg.thermalHeld = p.thermalHeld) ∧
      (100 ≤ temp → temp < 110 → p.envActive.toNat < 2 → p.envPending = false → t.pkg.envMode = 2 ∧ t.pkg.envPending = true) ∧
      (110 ≤ temp → p.envActive ≠ 3 → p.envPending = false → t.pkg.envMode = 3 ∧ t.pkg.envPending = true) ∧
      (110 ≤ temp → p.envPending = true → t.pkg.thermalHeld = some 3 ∧ t.pkg.envMode = p.envMode)) ∧
    (Does (.powerGating gated watts) s fun t => t.pkg.powerGated.toNat = min (p.powerGated.toNat + gated) 0xFFFFFFFF ∧
      t.pkg.powerW.toNat = min watts p.powerLimit.toNat ∧ t.mem = s.mem ∧ t.strands = s.strands ∧ t.tiles = s.tiles) ∧
    (115 ≤ temp → Does (.thermalModeRequest temp) s fun t => t.pkg.power = .off ∧ t.mem = [] ∧ t.strands = [] ∧ t.tasks = [] ∧ t.jobs = []) ∧
    (s.readNum (0x180008000 + 16 * m + 8) 4 = wfield s.frame 32 32 → exec (.ageingMonitorUpdate m osc margin eol) s = .next s) ∧
    (s.memoryCanonical → m < 604 → s.readNum (0x180008000 + 16 * m + 8) 4 ≠ wfield s.frame 32 32 → (∀ k ∈ s.tiles, k.2.offline = false) → Does (.ageingMonitorUpdate m osc margin eol) s fun t =>
      t.readLocal (0x180008000 + 16 * m) 16 = toBytes 4 osc.toNat ++ toBytes 2 margin.toNat ++ toBytes 2 (min eol 65535) ++
        toBytes 4 (wfield s.frame 32 32) ++ toBytes 4 (if eol < 30 then 2 else if eol < 365 then 1 else 0)) ∧
    (1 ≤ unit.toNat → unit.toNat ≤ 5 → s.imageAt ia = some f → p.accepts unit.toNat f = true → Tab.find p.replacing unit.toNat = none →
      Does (.firmwareReplacement (.request unit ia)) s fun t => Tab.find t.pkg.replacing unit.toNat = some ⟨ia, f, 0⟩ ∧
        (unit.toNat, f.svn) ∈ t.pkg.accepted ∧ t.pkg.images = p.images ∧ t.mem = s.mem ∧ t.tiles = s.tiles) ∧
    ((s.imageAt ia = none ∨ (s.imageAt ia = some f ∧ p.accepts unit.toNat f = false) ∨ (Tab.find p.replacing unit.toNat).isSome = true ∨
        unit.toNat = 0 ∨ 5 < unit.toNat) →
      exec (.firmwareReplacement (.request unit ia)) s = .next (s.emit (.notify 0x31))) ∧
    (Tab.find p.replacing unit.toNat = some w → s.imageAt w.ia = some f → shake256 f.body 64 = toBytes 64 w.image.digest.toNat →
      Does (.firmwareReplacement (.load unit)) s fun t => t.mem = s.mem ∧ t.tiles = s.tiles ∧ t.fwHeld = s.fwHeld.filter t.suspended ∧
        t.agenda = (s.fwHeld.filter fun i => !t.suspended i).map Turn.event ++ s.agenda ∧
        (w.number + 1 < fwInstances unit.toNat →
          t.pkg = { p with replacing := Tab.put p.replacing unit.toNat { w with number := w.number + 1 } }) ∧
        (fwInstances unit.toNat ≤ w.number + 1 →
          t.pkg = { p with images := Tab.put p.images unit.toNat w.image, replacing := Tab.del p.replacing unit.toNat })) ∧
    (Tab.find p.replacing unit.toNat = some w → (∀ i, s.imageAt w.ia = some i → shake256 i.body 64 ≠ toBytes 64 w.image.digest.toNat) →
      Does (.firmwareReplacement (.load unit)) s fun t => t.pkg = { p with replacing := Tab.del p.replacing unit.toNat } ∧
        t.out = s.out ++ [.notify 0x31] ∧ t.mem = s.mem) ∧
    (Tab.find p.replacing unit.toNat = none → exec (.firmwareReplacement (.load unit)) s = .next s) ∧
    (1 ≤ unit.toNat → unit.toNat ≤ 5 → (unit.toNat, svn) ∈ p.accepted → Tab.get 0 p.svnMin unit.toNat < svn →
      Does (.svnMinimumRaise unit svn) s fun t => Tab.get 0 t.pkg.svnMin unit.toNat = svn ∧ t.pkg.images = p.images ∧ t.mem = s.mem) ∧
    (Does (.attestationRequest nonce) s fun t => ∃ report, t.out = s.out ++ [.attestation report (Config.mldsaSign p.identity report s.steps)] ∧
      report.take 34 = toBytes 32 nonce ++ toBytes 2 s.chip ∧ t.mem = s.mem ∧ t.pkg = s.pkg) ∧
    (s.memoryCanonical → 1 ≤ index → index ≤ 511 → Does (.keyLoad index) s fun t => bitAt (t.readNum (0x180000800 + 8 * index + 2) 1) 0 = true ∧
      (∀ a < 0x180000000, cellRead t.mem a = cellRead s.mem a) ∧ t.pkg = s.pkg)

/-- A tile put in service while its die has a spare that no other tile in service is to take drains; a drained one is replaced by
the spare; a failing tile without such a spare goes offline, and with one drains; an enabled channel or linked CXL port drains
when the free frames suffice, and is refused otherwise (that a CXL port is refused too is the choice of log 49); a completed
drain takes its channel or port out; a recalibration raises MARGIN and changes its monitor alone (that it happens where a
channel has drained or a port has trained again, and by how much, is log 49); a fabric port goes UP, DRAINING, SERVICE, TRAINING
and UP; an Ethernet port loses and regains its link; a retrained link counts it; capacity is added up to the limit of the linked
ports. exec answers a next state with this effect, under conditions on the state and operands alone, for: tileFailure,
tileService, hbmChannelService, lpddrChannelService, cxlPortService, fabricPortService, drainComplete, hostPortDown,
linkRetraining, hostPortUp, dynamicCapacityExtent. (R10, R11, R13, R21, R22, R29, R30, R31.) -/
def Obligations.UnitsAreServiced : Prop :=
  ∀ (s : State) (k c port free : Nat) (lanes : BitVec 2) (state : BitVec 3) (gib : Int),
    let p := s.pkg
    let spares := p.spares.getD (s.dieOf k) 0
    let free_ := s.sparesFree (s.dieOf k)
    let st := portState (Tab.get 0 p.portMap port)
    let drains (i : Instr) (unit : Nat) (pages : Nat) : Prop :=
      (pages ≤ free → unit ∉ p.drains → Does i s fun t => t.pkg = { p with drains := p.drains ++ [unit] } ∧ t.mem = s.mem) ∧
      (free < pages ∨ unit ∈ p.drains → exec i s = .next (s.emit (.notify 0x31)))
    (k < s.tileCount → (s.tile k).offline = false → (s.tile k).draining = false →
      (free_ ≠ 0 → (Does (.tileService k) s fun t => (t.tile k).draining = true ∧ t.pkg = p ∧ t.mem = s.mem) ∧
        Does (.tileFailure k) s fun t => (t.tile k).draining = true ∧ t.pkg = p ∧ t.mem = s.mem) ∧
      (free_ = 0 → exec (.tileService k) s = .next (s.emit (.notify 0x31)) ∧
        (s.tasksOn k = [] → Does (.tileFailure k) s fun t => (t.tile k).offline = true ∧ t.pkg = p))) ∧
    (k < s.tileCount → (s.tile k).draining = true → s.drained k = true → s.dieOf k < p.spares.length →
      Does (.tileService k) s fun t => (t.tile k).draining = false ∧ (t.tile k).spareSubst = true ∧
        (t.tile k).sparePos = 127 + spares ∧ t.pkg.spares.getD (s.dieOf k) 0 = spares - 1 ∧ t.mem = s.mem) ∧
    (c < 384 → c ∉ p.hbmOff → drains (.hbmChannelService free c) c (Config.channelPages s.steps 0 c)) ∧
    (c < 16 → p.lpddrGib.getD c 0 ≠ 0 → drains (.lpddrChannelService free c) (1024 + c) (Config.channelPages s.steps 1 c)) ∧
    (c < 4 → p.cxlLinked.getLsbD c = true → drains (.cxlPortService free c) (2048 + c) (Config.channelPages s.steps 2 c)) ∧
    (c < 384 → c ∈ p.hbmOff → exec (.hbmChannelService free c) s = .next (s.emit (.notify 0x31))) ∧
    (c < 16 → p.lpddrGib.getD c 0 = 0 → exec (.lpddrChannelService free c) s = .next (s.emit (.notify 0x31))) ∧
    (∀ lost : Nat,
      let ends (u : DrainUnit) (unit : Nat) (q : Pkg) (more : State → State) : Prop :=
        unit ∈ p.drains → s.fits { s with pkg := q } = true → Does (.drainComplete u) s fun t => t = more { s with pkg := q }
      ends (.hbmChannel c) c { p with drains := p.drains.erase c, hbmOff := p.hbmOff ++ [c] } (fun t => t.recalibrate (544 + c / 32)) ∧
        ends (.lpddrChannel c) (1024 + c) { p with drains := p.drains.erase (1024 + c), lpddrGib := p.lpddrGib.set c 0 } id ∧
        ends (.cxlPort c lost) (2048 + c)
          (let q := { p with drains := p.drains.erase (2048 + c), cxlLinked := p.cxlLinked &&& ~~~(1#4 <<< c), cxlWidth := p.cxlWidth &&& ~~~(3#8 <<< (2 * c)) }
           { q with poolGib := min (p.poolGib - lost) (4096 * popCount 4 q.cxlLinked.toNat) }) id) ∧
    (∀ a, s.memoryCanonical → (a < monitorAt c ∨ monitorAt c + 16 ≤ a) → c < 604 → (s.recalibrate c).readByte a = s.readByte a) ∧
    (s.memoryCanonical → c < 604 → s.readNum (monitorAt c + 4) 2 ≤ (s.recalibrate c).readNum (monitorAt c + 4) 2) ∧
    (port < 96 →
      (3072 + port ∉ p.drains → st = 2 → Does (.fabricPortService port .drain) s fun t =>
        portState (Tab.get 0 t.pkg.portMap port) = 3 ∧ 3072 + port ∈ t.pkg.drains) ∧
      (3072 + port ∈ p.drains → st = 3 → Does (.fabricPortService port .service) s fun t => portState (Tab.get 0 t.pkg.portMap port) = 5) ∧
      (3072 + port ∈ p.drains → st = 5 → Does (.fabricPortService port .train) s fun t => portState (Tab.get 0 t.pkg.portMap port) = 1) ∧
      (3072 + port ∈ p.drains → st = 1 → Does (.fabricPortService port .up) s fun t => portState (Tab.get 0 t.pkg.portMap port) = 2) ∧
      (3072 + port ∉ p.drains → st ≠ 0 → lanes ≠ 3 → state = 1 ∨ state = 2 ∨ state = 4 → Does (.linkRetraining port lanes state) s fun t =>
        let v := Tab.get 0 t.pkg.portMap port
        portState v = state.toNat ∧ wfield v 32 16 = min (wfield (Tab.get 0 p.portMap port) 32 16 + 1) 0xFFFF)) ∧
    (∀ e : Fin 2,
      (Does (.hostPortDown e.val) s fun t => t.pkg.hostLink.getLsbD e = false ∧ ∀ d : Fin 2, d ≠ e → t.pkg.hostLink.getLsbD d = p.hostLink.getLsbD d) ∧
      Does (.hostPortUp e.val) s fun t => t.pkg.hostLink.getLsbD e = true ∧ ∀ d : Fin 2, d ≠ e → t.pkg.hostLink.getLsbD d = p.hostLink.getLsbD d) ∧
    (0 ≤ gib → p.poolGib + gib.toNat ≤ 4096 * popCount 4 p.cxlLinked.toNat → p.migrations = [] → s.leaves = [] →
      Does (.dynamicCapacityExtent gib) s fun t => t.pkg.poolGib = p.poolGib + gib.toNat ∧ t.mem = s.mem) ∧
    (gib < 0 → p.poolGib ≤ 4096 * popCount 4 p.cxlLinked.toNat → p.migrations = [] → s.leaves = [] →
      Does (.dynamicCapacityExtent gib) s fun t => t.pkg.poolGib = p.poolGib - gib.natAbs ∧ t.mem = s.mem)

/-- A TAIL within DEPTH is stored. The packet at HEAD of a live queue whose pages map is consumed: LAUNCH_TASK enqueues one task of
its job, LAUNCH_GRAPH one for each record of a well-formed template, TRACK_RESET clears the three counters of its slot and tells
the domain, END_JOB ends the job here, discards its SEED and tells the domain; one that another package forwards does the same
here; a packet that the rules refuse launches nothing. A host access that its window, regions and keys permit, at a page that
maps and a unit that reads, gets its data or is performed and acknowledged; one to another package is forwarded; one that no
window permits gets an error. One whose page moves, or that comes behind one held at its page, is held. What it says of memory
afterwards it says of a memory that was canonical before. (That an access of any length is performed in one step is log 46, and
that a forwarded TRACK_RESET or END_JOB comes as the same event is log 45: the choices of the model.) exec answers a next state
with this effect, under conditions on the state and operands alone, for: submissionTailWrite, launchTask, launchGraph,
trackReset, endJob, hostRdmaRead, hostRdmaWrite. (R137, R167, R234, R235, R236, R237, R238, R239.) -/
def Obligations.HostRequestsAreServed : Prop :=
  ∀ (s : State) (q : Nat) (tail rkey : W32) (ia len at_ : Nat) (bytes : List Byte) (job : W16),
    let p := s.controllerRead at_ 64
    let b := s.consume q p
    let pjob := BitVec.ofNat 16 (fieldAt p 2 2)
    let packet (op : Nat) (needs : List Byte → List (Nat × Nat × Bool)) : Prop :=
      s.pkg.packageError = false ∧ s.packetIA q = some at_ ∧ s.pageWaits at_ 64 false = false ∧ fieldAt p 0 1 = op ∧
        s.refuses p = false ∧ ∀ x ∈ needs p, s.pageWaits x.1 x.2.1 x.2.2 = false
    let window (n : Nat) (write : Bool) : Prop :=
      s.hostWindow rkey ia n write = some job ∧ 0 < n ∧ chipOf ia = s.chip ∧ (s.region (localOf ia)).isSome = true ∧
        (s.region (localOf (ia + n - 1))).isSome = true ∧ s.hostKeys job ia n = true ∧
        (s.region (localOf ia) = some .slice → s.portFree (localOf ia / 0x100000) (hostKey s.pkg.hostNext) = true)
    let goes (n : Nat) (write : Bool) : Prop :=
      window n write ∧ s.pageWaits ia n write = false ∧ s.behindHeld (true, s.pkg.hostNext) ia n = false
    let holds (n : Nat) (write : Bool) : Prop :=
      window n write ∧ ((s.pageWaits ia n write = true ∧ s.placed (localOf ia) n write = true) ∨ s.behindHeld (true, s.pkg.hostNext) ia n = true)
    let enters : State := { s with ports := s.ports.filter fun x => x.2 != hostKey s.pkg.hostNext }.leavePage (true, s.pkg.hostNext)
    let held (w : FaultWaiter) : State := (s.holdHost s.pkg.hostNext (ia, job, w)).queueAtPage (true, s.pkg.hostNext) ia
      (match w with
        | .hostRead n _ => n
        | _ => bytes.length)
    (s.memoryCanonical → q < 16 → (tail.toNat + 2 ^ 32 - s.readNum (0x180003000 + 32 * q + 0x10) 4) % 2 ^ 32 ≤ s.readNum (0x180003000 + 32 * q + 8) 4 →
      Does (.submissionTailWrite q tail) s fun t => t.readNum (0x180003000 + 32 * q + 0x14) 4 = tail.toNat ∧ t.pkg = s.pkg ∧
        t.tasks = s.tasks ∧ t.strands = s.strands) ∧
    (packet 1 (fun p => (fieldAt p 8 8, 256, false) :: outNeeds p 8) → Does (.launchTask q) s fun t =>
      t.taskNext = s.taskNext + 1 ∧ (t.task s.taskNext).job = pjob ∧ (t.job pjob).live = true) ∧
    (∀ bss, packet 2 s.graphNeeds → b.template (fieldAt p 8 8) = some bss → bss.all recordOk = true →
      (∀ x ∈ bss, (b.templateSuccs bss.length x).isSome = true) → Does (.launchGraph q) s fun t =>
        t.taskNext = s.taskNext + bss.length ∧ ∀ n, s.taskNext ≤ n → n < t.taskNext → (t.task n).job = pjob) ∧
    (s.memoryCanonical → packet 3 (fun _ => []) → Does (.trackReset (.queue q)) s fun t => t.out = s.out ++ [.trackReset (fieldAt p 1 1)] ∧ t.tasks = s.tasks ∧
      (fieldAt p 1 1 < 63 → ∀ off ∈ [0, 8, 16], t.slotCounter (fieldAt p 1 1) off = 0)) ∧
    (packet 4 (fun _ => []) → Does (.endJob (.queue q)) s fun t => (t.job pjob).live = false ∧ (t.job pjob).seed = none ∧
      t.out.getLast? = some (.endJob pjob)) ∧
    (s.memoryCanonical → q < 63 → Does (.trackReset (.forwarded q)) s fun t => t.tasks = s.tasks ∧ t.pkg = s.pkg ∧ ∀ off ∈ [0, 8, 16], t.slotCounter q off = 0) ∧
    (Does (.endJob (.forwarded job.toNat)) s fun t => (t.job job).live = false ∧ (t.job job).seed = none) ∧
    (s.pkg.packageError = false → s.packetIA q = some at_ → s.pageWaits at_ 64 false = false → fieldAt p 0 1 = 0 ∨ 4 < fieldAt p 0 1 →
      s.refuses p = true ∧ exec (.launchTask q) s = .next (b.refusePacket p at_)) ∧
    (goes len false → (s.uncorrectable ia len).isNone = true → exec (.hostRdmaRead (.window rkey) ia len) s =
      .next (enters.emit (.hostData (s.readIA ia len)))) ∧
    (goes bytes.length true → (s.blockedUnit ia bytes.length false).isNone = true → exec (.hostRdmaWrite (.window rkey) ia bytes) s =
      .next ((((enters.hostSets (localOf ia) bytes.length).store ia bytes).settle).emit .hostAck)) ∧
    (goes len false → (s.uncorrectable ia len).isNone = false → exec (.hostRdmaRead (.window rkey) ia len) s = .next (enters.emit .hostError)) ∧
    (goes bytes.length true → (s.blockedUnit ia bytes.length false).isNone = false → exec (.hostRdmaWrite (.window rkey) ia bytes) s =
      .next (enters.emit .hostError)) ∧
    (holds len false → exec (.hostRdmaRead (.window rkey) ia len) s = .next (held (.hostRead len none))) ∧
    (holds bytes.length true → exec (.hostRdmaWrite (.window rkey) ia bytes) s = .next (held (.hostWrite bytes none))) ∧
    (chipOf ia ≠ s.chip →
      let away (w : FaultWaiter) : State := (s.emit (.hostForward (chipOf ia) ia job w)).modPkg fun p => { p with hostAway := p.hostAway ++ [ia] }
      (s.hostWindow rkey ia len false = some job → exec (.hostRdmaRead (.window rkey) ia len) s = .next (away (.hostRead len none))) ∧
        (s.hostWindow rkey ia bytes.length true = some job → exec (.hostRdmaWrite (.window rkey) ia bytes) s = .next (away (.hostWrite bytes none)))) ∧
    (ia ∈ s.pkg.hostAway →
      let back := s.modPkg fun p => { p with hostAway := p.hostAway.erase ia }
      exec (.hostRdmaRead (.answered true bytes) ia len) s = .next (back.emit (.hostData bytes)) ∧
        exec (.hostRdmaRead (.answered false bytes) ia len) s = .next (back.emit .hostError)) ∧
    (s.hostWindow rkey ia len false = none → exec (.hostRdmaRead (.window rkey) ia len) s = .next (s.emit .hostError)) ∧
    (s.hostWindow rkey ia bytes.length true = none → exec (.hostRdmaWrite (.window rkey) ia bytes) s = .next (s.emit .hostError))

/-- A message of a strand of this package that may be performed, whose home is a slice byte of this package that passes the checks
of the home, is taken (a misaligned load or store one access at a time): a load and a returning atomic answer with the old
value, a posted store, atomic, FLADD and PUTF change their bytes, a wait that passes answers with the value and subtracts where
it says so, and one that fails leaves a watch where there is room. A publish of another package is performed whole and
acknowledged, or reported as failed. A flit loss changes nothing. A port that goes DOWN without a lost message only changes its
PORT_MAP. exec answers a next state with this effect, under conditions on the state and operands alone, for: linkFlitLoss,
portDown, remoteLoadRequest, remoteStoreArrival, remoteAmoArrival, remoteFladdArrival, remotePutfArrival, remoteWaitRequest.
(R56, R148, R151, R152, R260, R261, R342, R370, R373, R375, R379, R401.) -/
def Obligations.MessagesArePerformedAtTheirHome : Prop :=
  ∀ (s : State) (num : Nat) (o : Origin) (ia n : Nat) (bs : List Byte) (op : AmoOp) (v c : W64) (fmt : BitVec 3) (r : Option Nat) (trail : Nat) (sub : Bool)
    (ws : List (Nat × List Byte)) (lane : Option Nat) (port : Nat) (x : Sys2Proof.Machine.Num),
    let home (b : MsgBody) (write rmw : Bool) : Prop :=
      ⟨num, o, b⟩ ∈ s.msgs ∧ s.mayPerform ⟨num, o, b⟩ = true ∧ o.chip = s.chip ∧ chipOf ia = s.chip ∧
        s.region (localOf ia) = some .slice ∧ b.span.1 = ia ∧ s.shutPort ⟨num, o, b⟩ = none ∧ s.startsFirst ⟨num, o, b⟩ = false ∧
        s.behindHeld (false, (⟨num, o, b⟩ : Msg).key) ia b.span.2 = false ∧ s.homeCheck ⟨num, o, b⟩ write = none ∧
        s.blockedUnit ia b.span.2 rmw = none ∧ s.uncorrectable ia b.span.2 = none
    let taken (b : MsgBody) : State := s.takeUp ⟨num, o, b⟩
    let load : MsgBody := .load ia n lane
    let back : MsgBody := .amo op n ia v c true
    let store : MsgBody := .store ia bs
    let amo : MsgBody := .amo op n ia v c false
    let xadd : MsgBody := .xadd ia fmt v
    let fladd : MsgBody := .fladd ia v r
    let putf : MsgBody := .putf ia v trail
    let wait : MsgBody := .wait ia (.pip v sub)
    let m : Msg := ⟨num, o, .publish ws⟩
    let pip := BitVec.ofNat 64 (s.readNum ia 8)
    let setter := s.setterOf ia
    (home load false false → oneAccess ia n = true → exec (.remoteLoadRequest ⟨num, o, load⟩) s =
      .next (((taken load).noteRemoteRead ⟨num, o, load⟩ ia n).send s.chip o (.reply lane (BitVec.ofNat 64 (s.readNum ia n)) none 0))) ∧
    (home back true true → exec (.remoteLoadRequest ⟨num, o, back⟩) s =
      .next (let (t, old, f) := ((taken back).noteRemoteRead ⟨num, o, back⟩ ia n).amoPerform op n ia v c
        (t.send s.chip o (.reply none (amoReturn op n old) none f)).settle)) ∧
    (∀ t, home load false false → s.firstAccess ⟨num, o, load⟩ = some t → exec (.remoteLoadRequest ⟨num, o, load⟩) s = .next t) ∧
    (∀ t, home store true false → s.firstAccess ⟨num, o, store⟩ = some t → exec (.remoteStoreArrival ⟨num, o, store⟩) s = .next t) ∧
    (home store true false → oneAccess ia bs.length = true → exec (.remoteStoreArrival ⟨num, o, store⟩) s =
      .next (((((taken store).store ia bs).closeCleared (localOf ia / 0x100000) o.task (localOf ia) bs.length).setFlags o.tile 0).settle)) ∧
    (home amo true true → exec (.remoteAmoArrival ⟨num, o, amo⟩) s =
      .next (let (t, _, f) := (taken amo).amoPerform op n ia v c
        (t.setFlags o.tile f).settle)) ∧
    (home xadd true true → xaddValue fmt.toNat v = some x → exec (.remoteAmoArrival ⟨num, o, xadd⟩) s =
      .next ((((taken xadd).store ia ((Xa.ofBytes (s.readIA ia 64)).add x).toBytes).setFlags o.tile 0).settle)) ∧
    (home fladd true true → Does (.remoteFladdArrival ⟨num, o, fladd⟩) s fun t =>
      t = ((((taken fladd).modTile (localOf ia / 0x100000) fun k =>
        { k with setters := Tab.put k.setters (localOf ia % 512 / 8) (o.tile, o.chip, 0, o.slot) }).perform ia
          (toBytes 8 (pip + v).toNat)).setFlags o.tile 0).settle) ∧
    (home putf true false → exec (.remotePutfArrival ⟨num, o, putf⟩) s =
      .next ((((taken putf).store ia (toBytes 8 v.toNat ++ toBytes 8 1)).setFlags o.tile 0).settle)) ∧
    (home wait false false →
      (v ≤ pip → exec (.remoteWaitRequest ⟨num, o, wait⟩) s =
        .next ((if sub then (taken wait).perform ia (toBytes 8 (pip - v).toNat) else taken wait).send s.chip o (.answer true pip none none setter))) ∧
      (pip < v → (taken wait).watchRoom ia = true → exec (.remoteWaitRequest ⟨num, o, wait⟩) s =
        .next { taken wait with watches := s.watches ++ [⟨ia, o, .pip v sub, s.pkg.cycles⟩] }) ∧
      (pip < v → (taken wait).watchRoom ia = false → exec (.remoteWaitRequest ⟨num, o, wait⟩) s =
        .next ((taken wait).send s.chip o (.answer false 0 none (some s.pkg.cycles) setter)))) ∧
    (o.chip ≠ s.chip → s.pkg.packageError = false → ws ≠ [] → (∀ x ∈ ws, chipOf x.1 = s.chip) → s.shutPort m = none → s.waitsAt m = none →
      (∀ x ∈ ws, s.behindHeld (false, m.key) x.1 x.2.length = false) →
      let here : State := s.takeUp m
      let beyond (x : Nat × List Byte) : Prop := s.region (localOf x.1) = none ∨ s.region (localOf x.1 + (x.2.length - 1)) = none
      ((∀ x ∈ ws, ¬beyond x) → s.blockedWrite ws = none → exec (.remoteStoreArrival m) s = .next ((here.publishHere ws).respond m (.ack 0)).settle) ∧
      ((∀ x ∈ ws, ¬beyond x) → ∀ u, s.blockedWrite ws = some u → exec (.remoteStoreArrival m) s =
        .next (here.respond m (.failed 0xA 0 u.1 (toBytes 8 u.1 ++ toBytes 4 u.2)))) ∧
      (∀ x rest, ws = x :: rest → beyond x → exec (.remoteStoreArrival m) s = .next (here.respond m (.failed 4 0 x.1 [])))) ∧
    exec (.linkFlitLoss port) s = .next s ∧
    (port < 96 → portState (Tab.get 0 s.pkg.portMap port) ≠ 0 → Does (.portDown port []) s fun t => ∃ w,
      t = (s.modPkg fun p => { p with portMap := Tab.put p.portMap port w }).settle ∧ portState w = 4 ∧ wfield w 3 2 = 0 ∧
        ∀ i ≥ 5, w.getLsbD i = (Tab.get 0 s.pkg.portMap port).getLsbD i)

/-- A reply to a record with one event open is taken, writes its value into the image of the destination and makes the record ready;
a wait answer that passed makes its record ready, past its word; a refusal sends it to back-off; a failure report marks its
task, or ends the command whose publish failed; an acknowledgement closes its write. The controller takes the AMSG whose turn it
is, performs a decrement of a waiting task, sends its load and its oldest unpinned new task, and takes a stolen one; the root
starts a pass and its children hand it on, every package snapshots its counters when the pass reaches it and sends sums to its
parent, the root closes or abandons it, and a quiet signal readies the QWAIT records of its slot, with status and loss in their
image, and goes down the tree. (That the root is chip 0 is log 52, the choice of the model.) exec answers a next state with this
effect, under conditions on the state and operands alone, for: amsgArrival, taskDecrement, loadReport, packageStealRequest,
stolenTaskArrival, replyArrival, watchAnswer, postedFailureReport, wavePass, waveSnapshot, quietBroadcast. (R39, R54, R56, R242,
R251, R254, R257, R258, R346, R470.) -/
def Obligations.AnswersReachTheirRecord : Prop :=
  ∀ (s : State) (m : Msg) (r : ContRec) (chip load slot : Nat) (task : TaskMsg) (id : W32) (loss : W64)
    (others : List (Nat × W64 × W64 × W64)),
    let here := m ∈ s.msgs ∧ m.origin.chip = s.chip ∧ s.portOpen (s.recTile m.origin.record) m = true
    let taken : State := s.takeAnswer m
    let open_ := s.openRecord m.origin.record = some r
    (∀ lane v f, m.body = .reply lane v none f → here → open_ → r.dep ≤ 1 → Does (.replyArrival m) s fun t =>
      t = (((taken.setFlags m.origin.tile f).writeImage r lane v).eventCame r.num)) ∧
    (∀ f, m.body = .ack f → here → exec (.replyArrival m) s = .next ((taken.setFlags m.origin.tile f).ackPublish m.num).settle) ∧
    (∀ v at_ who, m.body = .answer true v none at_ who → here → open_ → exec (.watchAnswer m) s = .next (taken.waitPassed r v at_ who)) ∧
    (∀ v at_ who, m.body = .answer false v none at_ who → here → open_ → exec (.watchAnswer m) s =
      .next ((taken.modRecord r.num fun r => { r with flagWaitSince := taken.waitSince r at_ }).backOff (s.recTile r.num) r.num)) ∧
    (∀ c sub ia detail, m.body = .failed c sub ia detail → here →
      ((∀ k ∈ s.tiles, ∀ x ∈ k.2.cmds, m.num ∉ x.acks) → (s.task m.origin.task).failure = none → exec (.postedFailureReport m) s =
        .next (taken.modTask m.origin.task fun t => { t with failure := some (c, sub) }).settle) ∧
      ((∃ k ∈ s.tiles, ∃ x ∈ k.2.cmds, m.num ∈ x.acks) → exec (.postedFailureReport m) s =
        .next ((taken.failPublish m.num c ia detail).ackPublish m.num).settle)) ∧
    (∀ rest, s.toDispatch = .amsg task :: rest → task.fromChip = s.chip → task.record.length = 256 → Does (.amsgArrival task) s fun t =>
      t.toDispatch = rest ∧ t.taskNext = s.taskNext + 1 ∧ (t.task s.taskNext).job = task.job ∧ (t.task s.taskNext).counted = true) ∧
    (∀ tid rest, s.toDispatch = .decrement (s.task tid).copy (s.task tid).job :: rest → chipOf (s.task tid).copy = s.chip →
      s.taskAt (s.task tid).copy = some tid → (s.task tid).state = .waiting → Does (.taskDecrement (s.task tid).copy (s.task tid).job false) s fun t =>
        t.toDispatch = rest ∧ (t.task tid).deps = (s.task tid).deps - 1 ∧
        (t.task tid).state = if (s.task tid).deps = 1 then .staging else .waiting) ∧
    (s.pkg.stealCtl.getLsbD 17 = true → Does (.loadReport s.chip load) s fun t =>
      t.out = s.out ++ s.neighbours.map fun c => .loadReport c s.load) ∧
    (s.pkg.stealCtl.getLsbD 17 = true → chip ≠ s.chip → chip ∈ s.neighbours → Does (.loadReport chip load) s fun t =>
      Tab.find t.pkg.loads chip = some load ∧ t.tasks = s.tasks) ∧
    ((∀ t ∈ s.tasks, t.2.state ≠ .ready) → exec (.packageStealRequest chip) s = .next (s.emit (.stealRefused chip))) ∧
    (∀ tid t, s.tasks = [(tid, t)] → t.state = .ready → t.pinned = false → t.hasRun = false → Does (.packageStealRequest chip) s fun u =>
      u.tasks = [] ∧ ∃ m, u.out = s.out ++ [.stolenTask chip m t.id] ∧ m.job = t.job ∧ m.seed = t.seed) ∧
    (Does (.stolenTaskArrival task id) s fun t => t.taskNext = s.taskNext + 1 ∧ (t.task s.taskNext).id = id ∧
      (t.task s.taskNext).state = .staging ∧ (t.task s.taskNext).seed = task.seed ∧ (t.task s.taskNext).job = task.job) ∧
    (s.chip ≠ 0 ∨ s.pkg.wave.pass = 0 → Does .wavePass s fun t => t.pkg.wave.pass = s.pkg.wave.pass + 1 ∧ t.pkg.wave.startedAt = s.frame ∧
      t.pkg.wave.snap = s.slotSnapshot ∧ t.out = s.out ++ s.children.map .wavePass) ∧
    (s.chip = 0 → s.pkg.wave.snap ≠ [] → s.children ≠ [] → Does (.waveSnapshot true others) s fun t => t.pkg.wave.abandoned = true ∧ t.pkg.wave.snap = [] ∧
      t.out = s.out) ∧
    (s.chip = 0 → s.pkg.wave.snap ≠ [] → s.children ≠ [] → exec (.waveSnapshot false others) s = .next (s.endPass (addSums s.pkg.wave.snap others))) ∧
    (s.chip ≠ 0 → s.pkg.wave.snap ≠ [] → s.children ≠ [] → exec (.waveSnapshot false others) s =
      .next ((s.modPkg fun p => { p with wave := { p.wave with snap := [] } }).emit (.waveSums s.parent (some (addSums s.pkg.wave.snap others))))) ∧
    (s.chip ≠ 0 → slot < 64 →
      let status : W64 := BitVec.ofNat 64 ((if loss = 0 then 0 else 1) + 2 ^ 32 * min loss.toNat (2 ^ 32 - 1))
      let waiting := s.tiles.flatMap fun k => k.2.recs.filter fun r =>
        r.reason == 7#8 && r.readyAt.isNone && !r.gone && (s.job (s.task r.task).job).track == slot
      let sent : State := { s with out := s.out ++ s.children.map fun c => .quiet c slot loss }
      (waiting = [] → exec (.quietBroadcast slot loss) s = .next sent) ∧
      (∀ r, waiting = [r] → exec (.quietBroadcast slot loss) s = .next ((sent.writeImage r none status).readyRecord (sent.recTile r.num) r.num)) ∧
      (∃ t, exec (.quietBroadcast slot loss) s = .next t ∧ t = waiting.foldl (fun u r => (u.writeImage r none status).readyRecord (u.recTile r.num) r.num) sent))

/-- A staged task without leases becomes READY; a free slot takes the first new task of its cluster, with the registers of a launch;
a free slot relaunches the ready record that comes first; a task that waits longer than AGE_LIMIT rises a level, and at level 0
has a running task of lower priority pre-empted; a pre-empted task whose members all have records or have ended becomes READY,
unless a handler of it has departed; an idle cluster steals from its neighbour; a departure that has settled commits; a record
leaves the back-off list; the first waiting ACCSWAP exchanges the roles; a retiring task becomes DONE; a strand whose engines
all hold traps RING_DEADLOCK; a held error record is posted. exec answers a next state with this effect, under conditions on the
state and operands alone, for: stagingComplete, dispatch, relaunch, priorityAgeing, agePreemption, preemption,
preemptionComplete, clusterSteal, departureCommit, backoffExpiry, accswapAtQuiescence, taskRetirement, ringDeadlockDetect,
heldErrorRecordPost. (R33, R38, R42, R48, R54, R58, R73, R211, R243, R246, R247, R250.) -/
def Obligations.TheSchedulerMovesTasks : Prop :=
  ∀ (s : State) (tid n k num : Nat) (t : Task) (job : W16),
    let x := s.task tid
    (x.state = .staging → x.leases = [] → x.stolen = false → s.pageWaits x.rangePtr 384 false = false →
      rangeBlockOk (rangeBlock (s.readIA x.rangePtr 384)) = true → Does (.stagingComplete tid) s fun u =>
        (u.task tid).state = .ready ∧ (u.task tid).extents = []) ∧
    (s.pkg.power = .on → s.pkg.packageError = false → s.tasks = [(tid, t)] → t.state = .ready → t.cluster = k → t.hasRun = false →
      t.gang = 1 → s.rangesWait t = false → s.placeNew tid = some [n] → Does (.dispatch k) s fun u => (u.task tid).state = .running ∧ (u.strand n).live = true ∧
        (u.strand n).task = some tid ∧ (∀ e, (u.strand n).pc e = t.entry) ∧ (u.strand n).window = t.window ∧ (u.strand n).ranges = s.loadRanges t ∧
        (u.strand n).sreg 1 = t.args[0] ∧ (u.strand n).sreg 5 = 0x10000 ∧ (u.strand n).sreg 6 = BitVec.ofNat 64 t.copy ∧
        (u.strand n).super = false ∧ (u.strand n).tokens = Vector.replicate 8 0) ∧
    (∀ r, (s.strand n).live = false → s.halted (n / 8) = false → s.pkg.packageError = false → s.pkg.power = .on →
      (s.tile (n / 8)).draining = false → s.nextRecord n = some r → s.rangesWait (s.task r.task) = false → exec (.relaunch n) s = .next (s.relaunchInto n (n / 8) r)) ∧
    (x.state = .ready → 0 < x.level → s.pkg.schedAge.toNat < (s.frame - x.enteredAt).toNat → Does (.priorityAgeing tid) s fun u =>
      (u.task tid).level = x.level - 1 ∧ (u.task tid).order = s.orderNext ∧ (u.task tid).enteredAt = s.frame ∧ u.mem = s.mem) ∧
    (x.state = .ready → x.level = 0 → s.pkg.schedAge.toNat ≤ (s.frame - x.agedAt).toNat →
      let aged : State := s.modTask tid fun t => { t with agedAt := s.frame }
      (aged.canUse tid = true → exec (.agePreemption tid) s = .next aged) ∧
      (aged.canUse tid = false → ∀ v y, aged.victim x.cluster = some (v, y) → 0 < y.level → Does (.agePreemption tid) s fun u =>
        (u.task tid).agedAt = s.frame ∧ (u.task v).preempting = true)) ∧
    (∀ progress b, x.state = .running → x.preempting = true → s.withdraw tid progress = some b →
      exec (.preemption tid progress) s = .next (b.preemptMembers tid)) ∧
    (∀ progress b, x.state = .preempted → s.stopCommands tid progress = some b → exec (.preemption tid progress) s = .next (b.preemptMembers tid)) ∧
    (∀ b, x.state = .preempted → (∀ m ∈ x.members, (m.record.isSome = true ∧ s.inHandler m = false) ∨ m.ended = true) →
      s.rewriteMembers tid = some b → Does (.preemptionComplete tid) s fun u => (u.task tid).state = .ready ∧ (u.task tid).preempting = false) ∧
    (∀ v y, s.pkg.stealCtl.getLsbD 16 = true → Tab.find s.pkg.stoleAt k = none → s.idle k = true → k < s.pkg.clusters.length →
      s.adjacent k = [n] → s.queueOf n = [(v, y)] → s.readyTasks n = [(v, y)] → y = s.task v → stealable (v, y) = true → y.copiesIn = false →
      Does (.clusterSteal k) s fun u => (u.task v).cluster = k ∧ (u.task v).stolen = true ∧ Tab.find u.pkg.stoleAt k = some s.frame) ∧
    (∀ d, (s.strand n).departing = some d → s.commitsNow n = true → s.commitTurn n = true → (∀ j < n % 8, s.commitsNow (n / 8 * 8 + j) = false) →
      exec (.departureCommit n) s = .next (({ s with focus := n } : State).commitDeparture d)) ∧
    (∀ r due, (s.tile k).recs.find? (fun r => r.num == num && !r.gone) = some r → r.backoffAt = some due →
      (s.tileCycles k - due).toNat < 2 ^ 63 → exec (.backoffExpiry k num) s = .next (s.readyRecord k num)) ∧
    (∀ c rest r, (s.tile k).swaps = (num, c) :: rest → (s.tile k).recs.find? (fun r => r.num == num) = some r →
      (∀ c ∈ (s.tile k).cmds, c.engine = 1 → c.state ≠ .running ∧ ¬(c.task = r.task ∧ c.rank = r.rank)) → s.halted k = false → Does (.accswapAtQuiescence k) s fun u =>
        (u.tile k).visBank = !(s.tile k).visBank ∧ (u.tile k).swaps = rest ∧ (u.tile k).banks = (s.tile k).banks) ∧
    (∀ b, x.state = .retiring → (∀ m ∈ x.members, m.ended = true) → (∀ j < x.members.length, s.outstanding tid j = false) → s.failuresLeft tid = false →
      x.failure = none → x.succs.isSome = true → (chipOf x.complPtr = s.chip → x.complPtr ≠ 0 → s.queueWaits x.complPtr = none) →
      s.complete tid = some b → Does (.taskRetirement tid) s fun u => (u.task tid).state = .done ∧ (u.task tid).result = 0 ∧ (u.task tid).extents = []) ∧
    ((s.strand n).live = true → s.halted (n / 8) = false → (s.strand n).departing = none → (s.strand n).flights = [] →
      (∀ e, ({ s with focus := n } : State).engineHeld e = true ∧ ({ s with focus := n } : State).ringHeld e = true) →
      ∃ e, (∀ f, (s.strand n).walk e ≤ (s.strand n).walk f) ∧
        exec (.ringDeadlockDetect n) s = .next (({ s with focus := n } : State).takeTrap e { cause := 2, sub := 2 })) ∧
    (∀ errq bs rest, (s.job job).heldErrors = (errq, bs) :: rest → s.pageWaits errq 32 true = false → s.queueShut errq = false → (s.qcwAt errq).valid = true → (s.qcwAt errq).kind = 7 →
      (s.qcwAt errq).elem = 64 → (s.qcwAt errq).occupancy < (s.qcwAt errq).depth →
      Does (.heldErrorRecordPost job) s fun u => (u.job job).heldErrors = rest ∧ u.tasks = s.tasks)

/-- A page fault that is served puts its entry in place, under the key of the new leaf, and is gone; a migration is noted while its
entry is a leaf, and at its end the entry is the new one; an unpinned page is unmapped, a pinned one is not; a scrubbed unit is
uncorrectable from then on, and its home chip is told; a hint changes the scores of its layer, and an expert of the ranking that
fits is promoted; a tile whose STOP_AT has come stops with its cycle count standing; Heltis stops, resumes, reads and writes a
stopped tile and asks for a dump; a PC sample, a record of KIND 9, is written once in its period. What it says of memory
afterwards it says of a memory that was canonical before. (That a dump by Heltis names the tile of the first member is log 15,
and that a stop by Heltis takes its edge as a STOP_AT does is log 51: the choices of the model.) exec answers a next state with
this effect, under conditions on the state and operands alone, for: pageFaultMessage, pageMigration, migrationComplete,
scrubberError, expertHintApply, stopAtExpiry, heltisStopRequest, heltisResume, heltisAccess, heltisDumpRequest, traceSample,
pageUnmap. (R131, R133, R135, R136, R143, R147, R277, R280, R282, R283, R289.) -/
def Obligations.PagesAndDebugEventsAct : Prop :=
  ∀ (s : State) (k slot page ia : Nat) (r : BitVec 5) (p : BitVec 3) (v : W64) (w : VReg) (task : Nat),
    let at_ := s.strand (8 * k + slot % 8)
    let stopped := (s.tile k).stopped = true
    (∀ f e large b, s.pkg.pageFaults = [f] → (∀ len c, f.waiter ≠ .hostRead len c) → (∀ bs c, f.waiter ≠ .hostWrite bs c) → (∀ d, f.waiter ≠ .dump d) →
      (s.modPkg fun p => { p with pageFaults := [] }).installEntry f.ia e large = some b →
      exec (.pageFaultMessage f.num (.install e large)) s = .next ((b.walk f.ia).elim b b.mapFrames) ∧ b.pkg.pageFaults = []) ∧
    (∀ l entry, s.region page = some .memory → s.walk page = some l → s.pkg.migrations = [] →
      (s.leaf l.entryAt entry.toNat l.size).isSome = true → Does (.pageMigration page entry) s fun t =>
        t.pkg.migrations = [⟨page / l.size * l.size, entry⟩] ∧ t.mem = s.mem) ∧
    (∀ m l, s.memoryCanonical → s.pkg.migrations = [m] → m.page = page → s.walk page = some l → s.pkg.hostHeld = [] → s.pkg.dumps = [] →
      Does (.migrationComplete page) s fun t => t.pkg.migrations = [] ∧
        cellsRead t.mem (frameAt l.entryAt) 8 = toBytes 8 m.entry.toNat) ∧
    (∀ l, s.memoryCanonical → s.region page = some .memory → s.walk page = some l → s.pkg.migrations = [] →
      (s.pinned (page / l.size * l.size) l.size = true → exec (.pageUnmap page) s = .next s) ∧
      (s.pinned (page / l.size * l.size) l.size = false → Does (.pageUnmap page) s fun t => t.walk page = none ∧ t.tasks = s.tasks ∧
        ∃ ks, t.pkg = { s.pkg with frameKeys := ks })) ∧
    (chipOf ia = s.chip → s.region (localOf ia) = some .slice → (localOf ia / 16 * 16, 16) ∉ s.pkg.badUnits →
      Does (.scrubberError ia) s fun t => (localOf ia / 16 * 16, 16) ∈ t.pkg.badUnits ∧ (t.uncorrectable ia 1).isSome = true ∧
        t.out = s.out ++ [.scrubError (s.homeChip ia) (2 ^ 47 * s.chip + localOf ia / 16 * 16) 16] ∧ t.mem = s.mem) ∧
    (∀ layer pairs rest, s.pkg.hints = (layer, pairs) :: rest → s.pkg.toPromote = [] →
      let weight (x : Expert) : Nat := min ((pairs.filter fun y => y.1 == x.expert).foldl (fun n y => n + y.2) 0) (2 ^ 32 - 1)
      let score (x : Expert) : Nat := min (x.score - x.score / 4 + weight x) (2 ^ 32 - 1)
      let took : State := { s with pkg := { s.pkg with hints := rest } }
      let hinted : State := (took.experts.filter fun x => x.layer == layer).foldl
        (fun u x => u.perform (s.readNum 0x180002000 8 + 32 * x.index + 0x14) (toBytes 4 (score x))) took
      (∀ x ∈ hinted.experts, x.layer = layer + 1 → ∃ y ∈ hinted.pkg.promoted, y.1 = x.index) →
      Does .expertHintApply s fun t => t = hinted.modPkg fun p => { p with toPromote := [], chosen := [] }) ∧
    (∀ i b old, s.pkg.toPromote = [i] → s.pkg.promoted = [] →
      let x := s.experts.getD i default
      (x.length + 0x1FFFFF) / 0x200000 ≤ field (s.readNum 0x180002008 8) 20 16 →
      s.promotePages (s.expertPages (x.length / 0x10000 + 1) (localOf x.ia) (localOf x.ia + x.length)) = some (b, old) → Does .expertHintApply s fun t =>
        t.pkg.toPromote = [] ∧ t.pkg.chosen = [] ∧ t.pkg.promoted = b.pkg.promoted ++ [(x.index, old)] ∧ t.pkg.migrations = b.pkg.migrations ∧
        t.mem = b.mem) ∧
    ((s.tile k).stopped = false → (s.tile k).stopAt.getLsbD 63 = true → wfield (s.tile k).stopAt 0 63 ≤ s.frame.toNat →
      Does (.stopAtExpiry k) s fun t => (t.tile k).stopped = true ∧ (t.tile k).stopAt.getLsbD 63 = false ∧
        t.tileCycles k = s.tileCycles k ∧ t.strands = s.strands ∧ t.mem = s.mem) ∧
    (k < s.tileCount → (s.tile k).stopped = false → v ≤ s.frame → Does (.heltisStopRequest [k] v) s fun t => (t.tile k).stopped = true ∧ (t.tile k).stoppedAt = s.frame ∧
      t.tileCycles k = s.tileCycles k ∧ t.strands = s.strands ∧ t.mem = s.mem) ∧
    (k < s.tileCount → (s.tile k).stopped = false → s.frame < v → Does (.heltisStopRequest [k] v) s fun t => (t.tile k).stopEdge = some v ∧
      (t.tile k).stopped = false) ∧
    (stopped → s.pkg.packageError = false → s.pkg.hostHeld = [] → s.pkg.dumps = [] → Does (.heltisResume k) s fun t => (t.tile k).stopped = false ∧
      t.tileCycles k = s.tileCycles k ∧ t.strands = s.strands ∧ t.mem = s.mem) ∧
    (stopped →
      exec (.heltisAccess k (.readS slot r)) s = .next (s.emit (.heltisData (toBytes 8 (at_.sreg r).toNat))) ∧
      exec (.heltisAccess k (.readP slot p)) s = .next (s.emit (.heltisData (toBytes 8 (at_.preg p).toNat))) ∧
      exec (.heltisAccess k (.readB slot p)) s = .next (s.emit (.heltisData (toBytes 8 (at_.breg p).toNat))) ∧
      (Does (.heltisAccess k (.writeS slot r v)) s fun t => (t.strand (8 * k + slot % 8)).sreg r = v) ∧
      (Does (.heltisAccess k (.writeV slot r w)) s fun t => (t.strand (8 * k + slot % 8)).vreg r = w) ∧
      (p ≠ 0 → Does (.heltisAccess k (.writeP slot p v)) s fun t => (t.strand (8 * k + slot % 8)).preg p = v) ∧
      (Does (.heltisAccess k (.writeB slot p v)) s fun t => (t.strand (8 * k + slot % 8)).breg p = v) ∧
      exec (.heltisAccess k (.readMem ia 8)) s = .next (s.emit (.heltisData (s.readIA ia 8)))) ∧
    ((Tab.find s.tasks task).isSome = true → bitAt (s.readNum (0x180007000 + 32 * s.dumpSlot task + 16) 1) 0 = true → s.dumpBusy task = false →
      Does (.heltisDumpRequest task) s fun t => ∃ rec, rec.length = 64 ∧ t = s.dump task (s.task task).firstTile rec) ∧
    (∀ num, num = field (s.tile k).traceCtl.toNat 11 5 → 10 ≤ num → s.halted k = false →
      s.frame.toNat / 2 ^ num ≠ (s.tile k).sampledAt.toNat / 2 ^ num → Does (.traceSample k) s fun t =>
        (t.tile k).sampledAt = s.frame ∧ t.strands = s.strands ∧ t.tasks = s.tasks ∧
        ((s.tile k).traceBase.getLsbD 0 = true → (s.tile k).traceRoom = true → ∃ payload : List Byte, payload.length = 16 ∧
          (t.tile k).traceBuf = (s.tile k).traceBuf ++
            [toBytes 1 9 ++ toBytes 1 0 ++ toBytes 2 k ++ toBytes 4 s.chip ++ toBytes 8 s.frame.toNat ++ payload]))
end

