-- ==== Sys2Proof/Laws/State.lean ====
section
/-! SUPPORT. What each update of the state leaves alone: one lemma for each field and update. -/

namespace Sys2Proof.Machine.State

@[simp] theorem setStrand_tiles (s : State) (n : Nat) (x : Strand) : (s.setStrand n x).tiles = s.tiles := rfl
@[simp] theorem setStrand_pkg (s : State) (n : Nat) (x : Strand) : (s.setStrand n x).pkg = s.pkg := rfl
@[simp] theorem setStrand_mem (s : State) (n : Nat) (x : Strand) : (s.setStrand n x).mem = s.mem := rfl
@[simp] theorem setStrand_watches (s : State) (n : Nat) (x : Strand) : (s.setStrand n x).watches = s.watches := rfl
@[simp] theorem setStrand_tasks (s : State) (n : Nat) (x : Strand) : (s.setStrand n x).tasks = s.tasks := rfl
@[simp] theorem setStrand_taskNext (s : State) (n : Nat) (x : Strand) : (s.setStrand n x).taskNext = s.taskNext := rfl
@[simp] theorem setStrand_orderNext (s : State) (n : Nat) (x : Strand) : (s.setStrand n x).orderNext = s.orderNext := rfl
@[simp] theorem setStrand_readyNext (s : State) (n : Nat) (x : Strand) : (s.setStrand n x).readyNext = s.readyNext := rfl
@[simp] theorem setStrand_readyCycle (s : State) (n : Nat) (x : Strand) : (s.setStrand n x).readyCycle = s.readyCycle := rfl
@[simp] theorem setStrand_jobs (s : State) (n : Nat) (x : Strand) : (s.setStrand n x).jobs = s.jobs := rfl
@[simp] theorem setStrand_toDispatch (s : State) (n : Nat) (x : Strand) : (s.setStrand n x).toDispatch = s.toDispatch := rfl
@[simp] theorem setStrand_msgs (s : State) (n : Nat) (x : Strand) : (s.setStrand n x).msgs = s.msgs := rfl
@[simp] theorem setStrand_msgNext (s : State) (n : Nat) (x : Strand) : (s.setStrand n x).msgNext = s.msgNext := rfl
@[simp] theorem setStrand_ports (s : State) (n : Nat) (x : Strand) : (s.setStrand n x).ports = s.ports := rfl
@[simp] theorem setStrand_pageQueue (s : State) (n : Nat) (x : Strand) : (s.setStrand n x).pageQueue = s.pageQueue := rfl
@[simp] theorem setStrand_spillAway (s : State) (n : Nat) (x : Strand) : (s.setStrand n x).spillAway = s.spillAway := rfl
@[simp] theorem setStrand_fwHeld (s : State) (n : Nat) (x : Strand) : (s.setStrand n x).fwHeld = s.fwHeld := rfl
@[simp] theorem setStrand_unacked (s : State) (n : Nat) (x : Strand) : (s.setStrand n x).unacked = s.unacked := rfl
@[simp] theorem setStrand_out (s : State) (n : Nat) (x : Strand) : (s.setStrand n x).out = s.out := rfl
@[simp] theorem setStrand_focus (s : State) (n : Nat) (x : Strand) : (s.setStrand n x).focus = s.focus := rfl
@[simp] theorem setStrand_agenda (s : State) (n : Nat) (x : Strand) : (s.setStrand n x).agenda = s.agenda := rfl
@[simp] theorem setStrand_steps (s : State) (n : Nat) (x : Strand) : (s.setStrand n x).steps = s.steps := rfl

@[simp] theorem modStrand_tiles (s : State) (n : Nat) (f : Strand → Strand) : (s.modStrand n f).tiles = s.tiles := rfl
@[simp] theorem modStrand_pkg (s : State) (n : Nat) (f : Strand → Strand) : (s.modStrand n f).pkg = s.pkg := rfl
@[simp] theorem modStrand_mem (s : State) (n : Nat) (f : Strand → Strand) : (s.modStrand n f).mem = s.mem := rfl
@[simp] theorem modStrand_watches (s : State) (n : Nat) (f : Strand → Strand) : (s.modStrand n f).watches = s.watches := rfl
@[simp] theorem modStrand_tasks (s : State) (n : Nat) (f : Strand → Strand) : (s.modStrand n f).tasks = s.tasks := rfl
@[simp] theorem modStrand_taskNext (s : State) (n : Nat) (f : Strand → Strand) : (s.modStrand n f).taskNext = s.taskNext := rfl
@[simp] theorem modStrand_orderNext (s : State) (n : Nat) (f : Strand → Strand) : (s.modStrand n f).orderNext = s.orderNext := rfl
@[simp] theorem modStrand_readyNext (s : State) (n : Nat) (f : Strand → Strand) : (s.modStrand n f).readyNext = s.readyNext := rfl
@[simp] theorem modStrand_readyCycle (s : State) (n : Nat) (f : Strand → Strand) : (s.modStrand n f).readyCycle = s.readyCycle := rfl
@[simp] theorem modStrand_jobs (s : State) (n : Nat) (f : Strand → Strand) : (s.modStrand n f).jobs = s.jobs := rfl
@[simp] theorem modStrand_toDispatch (s : State) (n : Nat) (f : Strand → Strand) : (s.modStrand n f).toDispatch = s.toDispatch := rfl
@[simp] theorem modStrand_msgs (s : State) (n : Nat) (f : Strand → Strand) : (s.modStrand n f).msgs = s.msgs := rfl
@[simp] theorem modStrand_msgNext (s : State) (n : Nat) (f : Strand → Strand) : (s.modStrand n f).msgNext = s.msgNext := rfl
@[simp] theorem modStrand_ports (s : State) (n : Nat) (f : Strand → Strand) : (s.modStrand n f).ports = s.ports := rfl
@[simp] theorem modStrand_pageQueue (s : State) (n : Nat) (f : Strand → Strand) : (s.modStrand n f).pageQueue = s.pageQueue := rfl
@[simp] theorem modStrand_spillAway (s : State) (n : Nat) (f : Strand → Strand) : (s.modStrand n f).spillAway = s.spillAway := rfl
@[simp] theorem modStrand_fwHeld (s : State) (n : Nat) (f : Strand → Strand) : (s.modStrand n f).fwHeld = s.fwHeld := rfl
@[simp] theorem modStrand_unacked (s : State) (n : Nat) (f : Strand → Strand) : (s.modStrand n f).unacked = s.unacked := rfl
@[simp] theorem modStrand_out (s : State) (n : Nat) (f : Strand → Strand) : (s.modStrand n f).out = s.out := rfl
@[simp] theorem modStrand_focus (s : State) (n : Nat) (f : Strand → Strand) : (s.modStrand n f).focus = s.focus := rfl
@[simp] theorem modStrand_agenda (s : State) (n : Nat) (f : Strand → Strand) : (s.modStrand n f).agenda = s.agenda := rfl
@[simp] theorem modStrand_steps (s : State) (n : Nat) (f : Strand → Strand) : (s.modStrand n f).steps = s.steps := rfl

@[simp] theorem modCur_tiles (s : State) (f : Strand → Strand) : (s.modCur f).tiles = s.tiles := rfl
@[simp] theorem modCur_pkg (s : State) (f : Strand → Strand) : (s.modCur f).pkg = s.pkg := rfl
@[simp] theorem modCur_mem (s : State) (f : Strand → Strand) : (s.modCur f).mem = s.mem := rfl
@[simp] theorem modCur_watches (s : State) (f : Strand → Strand) : (s.modCur f).watches = s.watches := rfl
@[simp] theorem modCur_tasks (s : State) (f : Strand → Strand) : (s.modCur f).tasks = s.tasks := rfl
@[simp] theorem modCur_taskNext (s : State) (f : Strand → Strand) : (s.modCur f).taskNext = s.taskNext := rfl
@[simp] theorem modCur_orderNext (s : State) (f : Strand → Strand) : (s.modCur f).orderNext = s.orderNext := rfl
@[simp] theorem modCur_readyNext (s : State) (f : Strand → Strand) : (s.modCur f).readyNext = s.readyNext := rfl
@[simp] theorem modCur_readyCycle (s : State) (f : Strand → Strand) : (s.modCur f).readyCycle = s.readyCycle := rfl
@[simp] theorem modCur_jobs (s : State) (f : Strand → Strand) : (s.modCur f).jobs = s.jobs := rfl
@[simp] theorem modCur_toDispatch (s : State) (f : Strand → Strand) : (s.modCur f).toDispatch = s.toDispatch := rfl
@[simp] theorem modCur_msgs (s : State) (f : Strand → Strand) : (s.modCur f).msgs = s.msgs := rfl
@[simp] theorem modCur_msgNext (s : State) (f : Strand → Strand) : (s.modCur f).msgNext = s.msgNext := rfl
@[simp] theorem modCur_ports (s : State) (f : Strand → Strand) : (s.modCur f).ports = s.ports := rfl
@[simp] theorem modCur_pageQueue (s : State) (f : Strand → Strand) : (s.modCur f).pageQueue = s.pageQueue := rfl
@[simp] theorem modCur_spillAway (s : State) (f : Strand → Strand) : (s.modCur f).spillAway = s.spillAway := rfl
@[simp] theorem modCur_fwHeld (s : State) (f : Strand → Strand) : (s.modCur f).fwHeld = s.fwHeld := rfl
@[simp] theorem modCur_unacked (s : State) (f : Strand → Strand) : (s.modCur f).unacked = s.unacked := rfl
@[simp] theorem modCur_out (s : State) (f : Strand → Strand) : (s.modCur f).out = s.out := rfl
@[simp] theorem modCur_focus (s : State) (f : Strand → Strand) : (s.modCur f).focus = s.focus := rfl
@[simp] theorem modCur_agenda (s : State) (f : Strand → Strand) : (s.modCur f).agenda = s.agenda := rfl
@[simp] theorem modCur_steps (s : State) (f : Strand → Strand) : (s.modCur f).steps = s.steps := rfl

@[simp] theorem modTile_strands (s : State) (k : Nat) (f : Tile → Tile) : (s.modTile k f).strands = s.strands := rfl
@[simp] theorem modTile_pkg (s : State) (k : Nat) (f : Tile → Tile) : (s.modTile k f).pkg = s.pkg := rfl
@[simp] theorem modTile_mem (s : State) (k : Nat) (f : Tile → Tile) : (s.modTile k f).mem = s.mem := rfl
@[simp] theorem modTile_watches (s : State) (k : Nat) (f : Tile → Tile) : (s.modTile k f).watches = s.watches := rfl
@[simp] theorem modTile_tasks (s : State) (k : Nat) (f : Tile → Tile) : (s.modTile k f).tasks = s.tasks := rfl
@[simp] theorem modTile_taskNext (s : State) (k : Nat) (f : Tile → Tile) : (s.modTile k f).taskNext = s.taskNext := rfl
@[simp] theorem modTile_orderNext (s : State) (k : Nat) (f : Tile → Tile) : (s.modTile k f).orderNext = s.orderNext := rfl
@[simp] theorem modTile_readyNext (s : State) (k : Nat) (f : Tile → Tile) : (s.modTile k f).readyNext = s.readyNext := rfl
@[simp] theorem modTile_readyCycle (s : State) (k : Nat) (f : Tile → Tile) : (s.modTile k f).readyCycle = s.readyCycle := rfl
@[simp] theorem modTile_jobs (s : State) (k : Nat) (f : Tile → Tile) : (s.modTile k f).jobs = s.jobs := rfl
@[simp] theorem modTile_toDispatch (s : State) (k : Nat) (f : Tile → Tile) : (s.modTile k f).toDispatch = s.toDispatch := rfl
@[simp] theorem modTile_msgs (s : State) (k : Nat) (f : Tile → Tile) : (s.modTile k f).msgs = s.msgs := rfl
@[simp] theorem modTile_msgNext (s : State) (k : Nat) (f : Tile → Tile) : (s.modTile k f).msgNext = s.msgNext := rfl
@[simp] theorem modTile_ports (s : State) (k : Nat) (f : Tile → Tile) : (s.modTile k f).ports = s.ports := rfl
@[simp] theorem modTile_pageQueue (s : State) (k : Nat) (f : Tile → Tile) : (s.modTile k f).pageQueue = s.pageQueue := rfl
@[simp] theorem modTile_spillAway (s : State) (k : Nat) (f : Tile → Tile) : (s.modTile k f).spillAway = s.spillAway := rfl
@[simp] theorem modTile_fwHeld (s : State) (k : Nat) (f : Tile → Tile) : (s.modTile k f).fwHeld = s.fwHeld := rfl
@[simp] theorem modTile_unacked (s : State) (k : Nat) (f : Tile → Tile) : (s.modTile k f).unacked = s.unacked := rfl
@[simp] theorem modTile_out (s : State) (k : Nat) (f : Tile → Tile) : (s.modTile k f).out = s.out := rfl
@[simp] theorem modTile_focus (s : State) (k : Nat) (f : Tile → Tile) : (s.modTile k f).focus = s.focus := rfl
@[simp] theorem modTile_agenda (s : State) (k : Nat) (f : Tile → Tile) : (s.modTile k f).agenda = s.agenda := rfl
@[simp] theorem modTile_steps (s : State) (k : Nat) (f : Tile → Tile) : (s.modTile k f).steps = s.steps := rfl

@[simp] theorem modTask_strands (s : State) (t : Nat) (f : Task → Task) : (s.modTask t f).strands = s.strands := rfl
@[simp] theorem modTask_tiles (s : State) (t : Nat) (f : Task → Task) : (s.modTask t f).tiles = s.tiles := rfl
@[simp] theorem modTask_pkg (s : State) (t : Nat) (f : Task → Task) : (s.modTask t f).pkg = s.pkg := rfl
@[simp] theorem modTask_mem (s : State) (t : Nat) (f : Task → Task) : (s.modTask t f).mem = s.mem := rfl
@[simp] theorem modTask_watches (s : State) (t : Nat) (f : Task → Task) : (s.modTask t f).watches = s.watches := rfl
@[simp] theorem modTask_taskNext (s : State) (t : Nat) (f : Task → Task) : (s.modTask t f).taskNext = s.taskNext := rfl
@[simp] theorem modTask_orderNext (s : State) (t : Nat) (f : Task → Task) : (s.modTask t f).orderNext = s.orderNext := rfl
@[simp] theorem modTask_readyNext (s : State) (t : Nat) (f : Task → Task) : (s.modTask t f).readyNext = s.readyNext := rfl
@[simp] theorem modTask_readyCycle (s : State) (t : Nat) (f : Task → Task) : (s.modTask t f).readyCycle = s.readyCycle := rfl
@[simp] theorem modTask_jobs (s : State) (t : Nat) (f : Task → Task) : (s.modTask t f).jobs = s.jobs := rfl
@[simp] theorem modTask_toDispatch (s : State) (t : Nat) (f : Task → Task) : (s.modTask t f).toDispatch = s.toDispatch := rfl
@[simp] theorem modTask_msgs (s : State) (t : Nat) (f : Task → Task) : (s.modTask t f).msgs = s.msgs := rfl
@[simp] theorem modTask_msgNext (s : State) (t : Nat) (f : Task → Task) : (s.modTask t f).msgNext = s.msgNext := rfl
@[simp] theorem modTask_ports (s : State) (t : Nat) (f : Task → Task) : (s.modTask t f).ports = s.ports := rfl
@[simp] theorem modTask_pageQueue (s : State) (t : Nat) (f : Task → Task) : (s.modTask t f).pageQueue = s.pageQueue := rfl
@[simp] theorem modTask_spillAway (s : State) (t : Nat) (f : Task → Task) : (s.modTask t f).spillAway = s.spillAway := rfl
@[simp] theorem modTask_fwHeld (s : State) (t : Nat) (f : Task → Task) : (s.modTask t f).fwHeld = s.fwHeld := rfl
@[simp] theorem modTask_unacked (s : State) (t : Nat) (f : Task → Task) : (s.modTask t f).unacked = s.unacked := rfl
@[simp] theorem modTask_out (s : State) (t : Nat) (f : Task → Task) : (s.modTask t f).out = s.out := rfl
@[simp] theorem modTask_focus (s : State) (t : Nat) (f : Task → Task) : (s.modTask t f).focus = s.focus := rfl
@[simp] theorem modTask_agenda (s : State) (t : Nat) (f : Task → Task) : (s.modTask t f).agenda = s.agenda := rfl
@[simp] theorem modTask_steps (s : State) (t : Nat) (f : Task → Task) : (s.modTask t f).steps = s.steps := rfl

@[simp] theorem modJob_strands (s : State) (j : W16) (f : Job → Job) : (s.modJob j f).strands = s.strands := rfl
@[simp] theorem modJob_tiles (s : State) (j : W16) (f : Job → Job) : (s.modJob j f).tiles = s.tiles := rfl
@[simp] theorem modJob_pkg (s : State) (j : W16) (f : Job → Job) : (s.modJob j f).pkg = s.pkg := rfl
@[simp] theorem modJob_mem (s : State) (j : W16) (f : Job → Job) : (s.modJob j f).mem = s.mem := rfl
@[simp] theorem modJob_watches (s : State) (j : W16) (f : Job → Job) : (s.modJob j f).watches = s.watches := rfl
@[simp] theorem modJob_tasks (s : State) (j : W16) (f : Job → Job) : (s.modJob j f).tasks = s.tasks := rfl
@[simp] theorem modJob_taskNext (s : State) (j : W16) (f : Job → Job) : (s.modJob j f).taskNext = s.taskNext := rfl
@[simp] theorem modJob_orderNext (s : State) (j : W16) (f : Job → Job) : (s.modJob j f).orderNext = s.orderNext := rfl
@[simp] theorem modJob_readyNext (s : State) (j : W16) (f : Job → Job) : (s.modJob j f).readyNext = s.readyNext := rfl
@[simp] theorem modJob_readyCycle (s : State) (j : W16) (f : Job → Job) : (s.modJob j f).readyCycle = s.readyCycle := rfl
@[simp] theorem modJob_toDispatch (s : State) (j : W16) (f : Job → Job) : (s.modJob j f).toDispatch = s.toDispatch := rfl
@[simp] theorem modJob_msgs (s : State) (j : W16) (f : Job → Job) : (s.modJob j f).msgs = s.msgs := rfl
@[simp] theorem modJob_msgNext (s : State) (j : W16) (f : Job → Job) : (s.modJob j f).msgNext = s.msgNext := rfl
@[simp] theorem modJob_ports (s : State) (j : W16) (f : Job → Job) : (s.modJob j f).ports = s.ports := rfl
@[simp] theorem modJob_pageQueue (s : State) (j : W16) (f : Job → Job) : (s.modJob j f).pageQueue = s.pageQueue := rfl
@[simp] theorem modJob_spillAway (s : State) (j : W16) (f : Job → Job) : (s.modJob j f).spillAway = s.spillAway := rfl
@[simp] theorem modJob_fwHeld (s : State) (j : W16) (f : Job → Job) : (s.modJob j f).fwHeld = s.fwHeld := rfl
@[simp] theorem modJob_unacked (s : State) (j : W16) (f : Job → Job) : (s.modJob j f).unacked = s.unacked := rfl
@[simp] theorem modJob_out (s : State) (j : W16) (f : Job → Job) : (s.modJob j f).out = s.out := rfl
@[simp] theorem modJob_focus (s : State) (j : W16) (f : Job → Job) : (s.modJob j f).focus = s.focus := rfl
@[simp] theorem modJob_agenda (s : State) (j : W16) (f : Job → Job) : (s.modJob j f).agenda = s.agenda := rfl
@[simp] theorem modJob_steps (s : State) (j : W16) (f : Job → Job) : (s.modJob j f).steps = s.steps := rfl

@[simp] theorem modPkg_strands (s : State) (f : Pkg → Pkg) : (s.modPkg f).strands = s.strands := rfl
@[simp] theorem modPkg_tiles (s : State) (f : Pkg → Pkg) : (s.modPkg f).tiles = s.tiles := rfl
@[simp] theorem modPkg_mem (s : State) (f : Pkg → Pkg) : (s.modPkg f).mem = s.mem := rfl
@[simp] theorem modPkg_watches (s : State) (f : Pkg → Pkg) : (s.modPkg f).watches = s.watches := rfl
@[simp] theorem modPkg_tasks (s : State) (f : Pkg → Pkg) : (s.modPkg f).tasks = s.tasks := rfl
@[simp] theorem modPkg_taskNext (s : State) (f : Pkg → Pkg) : (s.modPkg f).taskNext = s.taskNext := rfl
@[simp] theorem modPkg_orderNext (s : State) (f : Pkg → Pkg) : (s.modPkg f).orderNext = s.orderNext := rfl
@[simp] theorem modPkg_readyNext (s : State) (f : Pkg → Pkg) : (s.modPkg f).readyNext = s.readyNext := rfl
@[simp] theorem modPkg_readyCycle (s : State) (f : Pkg → Pkg) : (s.modPkg f).readyCycle = s.readyCycle := rfl
@[simp] theorem modPkg_jobs (s : State) (f : Pkg → Pkg) : (s.modPkg f).jobs = s.jobs := rfl
@[simp] theorem modPkg_toDispatch (s : State) (f : Pkg → Pkg) : (s.modPkg f).toDispatch = s.toDispatch := rfl
@[simp] theorem modPkg_msgs (s : State) (f : Pkg → Pkg) : (s.modPkg f).msgs = s.msgs := rfl
@[simp] theorem modPkg_msgNext (s : State) (f : Pkg → Pkg) : (s.modPkg f).msgNext = s.msgNext := rfl
@[simp] theorem modPkg_ports (s : State) (f : Pkg → Pkg) : (s.modPkg f).ports = s.ports := rfl
@[simp] theorem modPkg_pageQueue (s : State) (f : Pkg → Pkg) : (s.modPkg f).pageQueue = s.pageQueue := rfl
@[simp] theorem modPkg_spillAway (s : State) (f : Pkg → Pkg) : (s.modPkg f).spillAway = s.spillAway := rfl
@[simp] theorem modPkg_fwHeld (s : State) (f : Pkg → Pkg) : (s.modPkg f).fwHeld = s.fwHeld := rfl
@[simp] theorem modPkg_unacked (s : State) (f : Pkg → Pkg) : (s.modPkg f).unacked = s.unacked := rfl
@[simp] theorem modPkg_out (s : State) (f : Pkg → Pkg) : (s.modPkg f).out = s.out := rfl
@[simp] theorem modPkg_focus (s : State) (f : Pkg → Pkg) : (s.modPkg f).focus = s.focus := rfl
@[simp] theorem modPkg_agenda (s : State) (f : Pkg → Pkg) : (s.modPkg f).agenda = s.agenda := rfl
@[simp] theorem modPkg_steps (s : State) (f : Pkg → Pkg) : (s.modPkg f).steps = s.steps := rfl

@[simp] theorem emit_strands (s : State) (o : Out) : (s.emit o).strands = s.strands := rfl
@[simp] theorem emit_tiles (s : State) (o : Out) : (s.emit o).tiles = s.tiles := rfl
@[simp] theorem emit_pkg (s : State) (o : Out) : (s.emit o).pkg = s.pkg := rfl
@[simp] theorem emit_mem (s : State) (o : Out) : (s.emit o).mem = s.mem := rfl
@[simp] theorem emit_watches (s : State) (o : Out) : (s.emit o).watches = s.watches := rfl
@[simp] theorem emit_tasks (s : State) (o : Out) : (s.emit o).tasks = s.tasks := rfl
@[simp] theorem emit_taskNext (s : State) (o : Out) : (s.emit o).taskNext = s.taskNext := rfl
@[simp] theorem emit_orderNext (s : State) (o : Out) : (s.emit o).orderNext = s.orderNext := rfl
@[simp] theorem emit_readyNext (s : State) (o : Out) : (s.emit o).readyNext = s.readyNext := rfl
@[simp] theorem emit_readyCycle (s : State) (o : Out) : (s.emit o).readyCycle = s.readyCycle := rfl
@[simp] theorem emit_jobs (s : State) (o : Out) : (s.emit o).jobs = s.jobs := rfl
@[simp] theorem emit_toDispatch (s : State) (o : Out) : (s.emit o).toDispatch = s.toDispatch := rfl
@[simp] theorem emit_msgs (s : State) (o : Out) : (s.emit o).msgs = s.msgs := rfl
@[simp] theorem emit_msgNext (s : State) (o : Out) : (s.emit o).msgNext = s.msgNext := rfl
@[simp] theorem emit_ports (s : State) (o : Out) : (s.emit o).ports = s.ports := rfl
@[simp] theorem emit_pageQueue (s : State) (o : Out) : (s.emit o).pageQueue = s.pageQueue := rfl
@[simp] theorem emit_spillAway (s : State) (o : Out) : (s.emit o).spillAway = s.spillAway := rfl
@[simp] theorem emit_fwHeld (s : State) (o : Out) : (s.emit o).fwHeld = s.fwHeld := rfl
@[simp] theorem emit_unacked (s : State) (o : Out) : (s.emit o).unacked = s.unacked := rfl
@[simp] theorem emit_focus (s : State) (o : Out) : (s.emit o).focus = s.focus := rfl
@[simp] theorem emit_agenda (s : State) (o : Out) : (s.emit o).agenda = s.agenda := rfl
@[simp] theorem emit_steps (s : State) (o : Out) : (s.emit o).steps = s.steps := rfl

@[simp] theorem count_strands (s : State) (k num : Nat) (b : W64) : (s.count k num b).strands = s.strands := rfl
@[simp] theorem count_pkg (s : State) (k num : Nat) (b : W64) : (s.count k num b).pkg = s.pkg := rfl
@[simp] theorem count_mem (s : State) (k num : Nat) (b : W64) : (s.count k num b).mem = s.mem := rfl
@[simp] theorem count_watches (s : State) (k num : Nat) (b : W64) : (s.count k num b).watches = s.watches := rfl
@[simp] theorem count_tasks (s : State) (k num : Nat) (b : W64) : (s.count k num b).tasks = s.tasks := rfl
@[simp] theorem count_taskNext (s : State) (k num : Nat) (b : W64) : (s.count k num b).taskNext = s.taskNext := rfl
@[simp] theorem count_orderNext (s : State) (k num : Nat) (b : W64) : (s.count k num b).orderNext = s.orderNext := rfl
@[simp] theorem count_readyNext (s : State) (k num : Nat) (b : W64) : (s.count k num b).readyNext = s.readyNext := rfl
@[simp] theorem count_readyCycle (s : State) (k num : Nat) (b : W64) : (s.count k num b).readyCycle = s.readyCycle := rfl
@[simp] theorem count_jobs (s : State) (k num : Nat) (b : W64) : (s.count k num b).jobs = s.jobs := rfl
@[simp] theorem count_toDispatch (s : State) (k num : Nat) (b : W64) : (s.count k num b).toDispatch = s.toDispatch := rfl
@[simp] theorem count_msgs (s : State) (k num : Nat) (b : W64) : (s.count k num b).msgs = s.msgs := rfl
@[simp] theorem count_msgNext (s : State) (k num : Nat) (b : W64) : (s.count k num b).msgNext = s.msgNext := rfl
@[simp] theorem count_ports (s : State) (k num : Nat) (b : W64) : (s.count k num b).ports = s.ports := rfl
@[simp] theorem count_pageQueue (s : State) (k num : Nat) (b : W64) : (s.count k num b).pageQueue = s.pageQueue := rfl
@[simp] theorem count_spillAway (s : State) (k num : Nat) (b : W64) : (s.count k num b).spillAway = s.spillAway := rfl
@[simp] theorem count_fwHeld (s : State) (k num : Nat) (b : W64) : (s.count k num b).fwHeld = s.fwHeld := rfl
@[simp] theorem count_unacked (s : State) (k num : Nat) (b : W64) : (s.count k num b).unacked = s.unacked := rfl
@[simp] theorem count_out (s : State) (k num : Nat) (b : W64) : (s.count k num b).out = s.out := rfl
@[simp] theorem count_focus (s : State) (k num : Nat) (b : W64) : (s.count k num b).focus = s.focus := rfl
@[simp] theorem count_agenda (s : State) (k num : Nat) (b : W64) : (s.count k num b).agenda = s.agenda := rfl
@[simp] theorem count_steps (s : State) (k num : Nat) (b : W64) : (s.count k num b).steps = s.steps := rfl

@[simp] theorem countCycles_strands (s : State) (k num : Nat) : (s.countCycles k num).strands = s.strands := rfl
@[simp] theorem countCycles_pkg (s : State) (k num : Nat) : (s.countCycles k num).pkg = s.pkg := rfl
@[simp] theorem countCycles_mem (s : State) (k num : Nat) : (s.countCycles k num).mem = s.mem := rfl
@[simp] theorem countCycles_watches (s : State) (k num : Nat) : (s.countCycles k num).watches = s.watches := rfl
@[simp] theorem countCycles_tasks (s : State) (k num : Nat) : (s.countCycles k num).tasks = s.tasks := rfl
@[simp] theorem countCycles_taskNext (s : State) (k num : Nat) : (s.countCycles k num).taskNext = s.taskNext := rfl
@[simp] theorem countCycles_orderNext (s : State) (k num : Nat) : (s.countCycles k num).orderNext = s.orderNext := rfl
@[simp] theorem countCycles_readyNext (s : State) (k num : Nat) : (s.countCycles k num).readyNext = s.readyNext := rfl
@[simp] theorem countCycles_readyCycle (s : State) (k num : Nat) : (s.countCycles k num).readyCycle = s.readyCycle := rfl
@[simp] theorem countCycles_jobs (s : State) (k num : Nat) : (s.countCycles k num).jobs = s.jobs := rfl
@[simp] theorem countCycles_toDispatch (s : State) (k num : Nat) : (s.countCycles k num).toDispatch = s.toDispatch := rfl
@[simp] theorem countCycles_msgs (s : State) (k num : Nat) : (s.countCycles k num).msgs = s.msgs := rfl
@[simp] theorem countCycles_msgNext (s : State) (k num : Nat) : (s.countCycles k num).msgNext = s.msgNext := rfl
@[simp] theorem countCycles_ports (s : State) (k num : Nat) : (s.countCycles k num).ports = s.ports := rfl
@[simp] theorem countCycles_pageQueue (s : State) (k num : Nat) : (s.countCycles k num).pageQueue = s.pageQueue := rfl
@[simp] theorem countCycles_spillAway (s : State) (k num : Nat) : (s.countCycles k num).spillAway = s.spillAway := rfl
@[simp] theorem countCycles_fwHeld (s : State) (k num : Nat) : (s.countCycles k num).fwHeld = s.fwHeld := rfl
@[simp] theorem countCycles_unacked (s : State) (k num : Nat) : (s.countCycles k num).unacked = s.unacked := rfl
@[simp] theorem countCycles_out (s : State) (k num : Nat) : (s.countCycles k num).out = s.out := rfl
@[simp] theorem countCycles_focus (s : State) (k num : Nat) : (s.countCycles k num).focus = s.focus := rfl
@[simp] theorem countCycles_agenda (s : State) (k num : Nat) : (s.countCycles k num).agenda = s.agenda := rfl
@[simp] theorem countCycles_steps (s : State) (k num : Nat) : (s.countCycles k num).steps = s.steps := rfl

@[simp] theorem setFlags_strands (s : State) (k : Nat) (f : BitVec 8) : (s.setFlags k f).strands = s.strands := rfl
@[simp] theorem setFlags_pkg (s : State) (k : Nat) (f : BitVec 8) : (s.setFlags k f).pkg = s.pkg := rfl
@[simp] theorem setFlags_mem (s : State) (k : Nat) (f : BitVec 8) : (s.setFlags k f).mem = s.mem := rfl
@[simp] theorem setFlags_watches (s : State) (k : Nat) (f : BitVec 8) : (s.setFlags k f).watches = s.watches := rfl
@[simp] theorem setFlags_tasks (s : State) (k : Nat) (f : BitVec 8) : (s.setFlags k f).tasks = s.tasks := rfl
@[simp] theorem setFlags_taskNext (s : State) (k : Nat) (f : BitVec 8) : (s.setFlags k f).taskNext = s.taskNext := rfl
@[simp] theorem setFlags_orderNext (s : State) (k : Nat) (f : BitVec 8) : (s.setFlags k f).orderNext = s.orderNext := rfl
@[simp] theorem setFlags_readyNext (s : State) (k : Nat) (f : BitVec 8) : (s.setFlags k f).readyNext = s.readyNext := rfl
@[simp] theorem setFlags_readyCycle (s : State) (k : Nat) (f : BitVec 8) : (s.setFlags k f).readyCycle = s.readyCycle := rfl
@[simp] theorem setFlags_jobs (s : State) (k : Nat) (f : BitVec 8) : (s.setFlags k f).jobs = s.jobs := rfl
@[simp] theorem setFlags_toDispatch (s : State) (k : Nat) (f : BitVec 8) : (s.setFlags k f).toDispatch = s.toDispatch := rfl
@[simp] theorem setFlags_msgs (s : State) (k : Nat) (f : BitVec 8) : (s.setFlags k f).msgs = s.msgs := rfl
@[simp] theorem setFlags_msgNext (s : State) (k : Nat) (f : BitVec 8) : (s.setFlags k f).msgNext = s.msgNext := rfl
@[simp] theorem setFlags_ports (s : State) (k : Nat) (f : BitVec 8) : (s.setFlags k f).ports = s.ports := rfl
@[simp] theorem setFlags_pageQueue (s : State) (k : Nat) (f : BitVec 8) : (s.setFlags k f).pageQueue = s.pageQueue := rfl
@[simp] theorem setFlags_spillAway (s : State) (k : Nat) (f : BitVec 8) : (s.setFlags k f).spillAway = s.spillAway := rfl
@[simp] theorem setFlags_fwHeld (s : State) (k : Nat) (f : BitVec 8) : (s.setFlags k f).fwHeld = s.fwHeld := rfl
@[simp] theorem setFlags_unacked (s : State) (k : Nat) (f : BitVec 8) : (s.setFlags k f).unacked = s.unacked := rfl
@[simp] theorem setFlags_out (s : State) (k : Nat) (f : BitVec 8) : (s.setFlags k f).out = s.out := rfl
@[simp] theorem setFlags_focus (s : State) (k : Nat) (f : BitVec 8) : (s.setFlags k f).focus = s.focus := rfl
@[simp] theorem setFlags_agenda (s : State) (k : Nat) (f : BitVec 8) : (s.setFlags k f).agenda = s.agenda := rfl
@[simp] theorem setFlags_steps (s : State) (k : Nat) (f : BitVec 8) : (s.setFlags k f).steps = s.steps := rfl

@[simp] theorem modPkg_pkg (s : State) (f : Pkg → Pkg) : (s.modPkg f).pkg = f s.pkg := rfl
@[simp] theorem emit_out (s : State) (o : Out) : (s.emit o).out = s.out ++ [o] := rfl

end Sys2Proof.Machine.State
end

