-- ==== Sys2Proof/Laws/Table.lean ====
section
/-! SUPPORT. Reading a sparse table after a change, and the parts of the state read through them. -/

namespace Sys2Proof.Machine

theorem Tab.find_put {α : Type} (t : Tab α) (k j : Nat) (x : α) :
    Tab.find (Tab.put t k x) j = if j = k then some x else Tab.find t j := by
  induction t with
  | nil => by_cases h : j = k <;> simp [Tab.put, Tab.find, h]
  | cons p t ih =>
    obtain ⟨a, v⟩ := p
    unfold Tab.put
    split
    · rename_i h
      subst h
      by_cases h : j = k <;> simp [Tab.find, h]
    · split
      · rename_i h0 h1
        simp only [Tab.find]
        by_cases h : j = k
        · simp [h]
        · by_cases h2 : j < k
          · have h3 : j ≠ a := by omega
            have h4 : j < a := by omega
            simp [h, h2, h3, h4]
          · simp [h, h2]
      · rename_i h0 h1
        simp only [Tab.find, ih]
        by_cases h : j = k
        · have h2 : ¬ k < a := h1
          simp [h, h0, h2]
        · simp [h]

theorem Tab.get_put {α : Type} (d : α) (t : Tab α) (k j : Nat) (x : α) :
    Tab.get d (Tab.put t k x) j = if j = k then x else Tab.get d t j := by
  unfold Tab.get
  rw [Tab.find_put]
  split <;> rfl

@[simp] theorem Tab.get_put_same {α : Type} (d : α) (t : Tab α) (k : Nat) (x : α) : Tab.get d (Tab.put t k x) k = x := by
  simp [Tab.get_put]

theorem Tab.get_put_other {α : Type} (d : α) (t : Tab α) (k j : Nat) (x : α) (h : j ≠ k) :
    Tab.get d (Tab.put t k x) j = Tab.get d t j := by
  simp [Tab.get_put, h]

namespace State

theorem strand_modStrand (s : State) (n m : Nat) (f : Strand → Strand) :
    (s.modStrand n f).strand m = if m = n then f (s.strand n) else s.strand m := by
  simp [modStrand, setStrand, strand, Tab.get_put]

@[simp] theorem cur_modCur (s : State) (f : Strand → Strand) : (s.modCur f).cur = f s.cur := by
  simp [modCur, cur, modStrand, setStrand, strand]

theorem strand_modCur (s : State) (m : Nat) (f : Strand → Strand) (h : m ≠ s.focus) : (s.modCur f).strand m = s.strand m := by
  simp [modCur, strand_modStrand, h]

theorem tile_modTile (s : State) (k j : Nat) (f : Tile → Tile) :
    (s.modTile k f).tile j = if j = k then f (s.tile k) else s.tile j := by
  simp [modTile, tile, Tab.get_put]

theorem task_modTask (s : State) (k j : Nat) (f : Task → Task) :
    (s.modTask k f).task j = if j = k then f (s.task k) else s.task j := by
  simp [modTask, task, Tab.get_put]

theorem job_modJob (s : State) (k j : W16) (f : Job → Job) :
    (s.modJob k f).job j = if j = k then f (s.job k) else s.job j := by
  simp only [modJob, job, Tab.get_put]
  by_cases h : j = k
  · simp [h]
  · have : j.toNat ≠ k.toNat := fun e => h (BitVec.eq_of_toNat_eq e)
    simp [h, this]

@[simp] theorem cur_modTile (s : State) (k : Nat) (f : Tile → Tile) : (s.modTile k f).cur = s.cur := rfl
@[simp] theorem cur_count (s : State) (k num : Nat) (b : W64) : (s.count k num b).cur = s.cur := rfl
@[simp] theorem tile_modCur (s : State) (k : Nat) (f : Strand → Strand) : (s.modCur f).tile k = s.tile k := rfl
@[simp] theorem task_modCur (s : State) (k : Nat) (f : Strand → Strand) : (s.modCur f).task k = s.task k := rfl
@[simp] theorem here_modCur (s : State) (f : Strand → Strand) : (s.modCur f).here = s.here := rfl
@[simp] theorem strand_modTile (s : State) (k n : Nat) (f : Tile → Tile) : (s.modTile k f).strand n = s.strand n := rfl
@[simp] theorem strand_count (s : State) (k num n : Nat) (b : W64) : (s.count k num b).strand n = s.strand n := rfl
@[simp] theorem modCur_modCur (s : State) (f g : Strand → Strand) :
    ((s.modCur f).modCur g).cur = g (f s.cur) := by simp

end State
end Sys2Proof.Machine
end

