-- ==== Sys2Proof/Laws/Memory.lean ====
section
/-! SUPPORT. Memory: a read after a write (R95), and the canonical form, which every memory operation keeps. -/

namespace Sys2Proof.Machine

/-- Every listed address lies above `a`. -/
def aboveAll (a : Nat) (m : List Host.Cell) : Prop := ∀ c ∈ m, a < c.1

theorem Memory.wf_cons (k : Nat) (v : Byte) (t : List Host.Cell) :
    Memory.wf ((k, v) :: t) = true ↔ v ≠ resetByte k ∧ aboveAll k t ∧ Memory.wf t = true := by
  induction t generalizing k v with
  | nil => simp [Memory.wf, aboveAll]
  | cons c t ih =>
    obtain ⟨j, w⟩ := c
    have ih' := ih j w
    constructor
    · intro h
      rw [Memory.wf] at h
      simp only [Bool.and_eq_true, bne_iff_ne, ne_eq, decide_eq_true_eq] at h
      obtain ⟨⟨h1, h2⟩, h3⟩ := h
      refine ⟨h1, ?_, h3⟩
      obtain ⟨_, h5, _⟩ := ih'.mp h3
      intro c hc
      rcases List.mem_cons.mp hc with rfl | hc
      · exact h2
      · exact Nat.lt_trans h2 (h5 c hc)
    · rintro ⟨h1, h2, h3⟩
      rw [Memory.wf]
      simp only [Bool.and_eq_true, bne_iff_ne, ne_eq, decide_eq_true_eq]
      exact ⟨⟨h1, h2 (j, w) (by simp)⟩, h3⟩

theorem cellRead_below (m : List Host.Cell) (a : Nat) (h : aboveAll a m) : cellRead m a = resetByte a := by
  cases m with
  | nil => rfl
  | cons c t =>
    obtain ⟨k, v⟩ := c
    have : a < k := h (k, v) (by simp)
    have h2 : a ≠ k := by omega
    simp [cellRead, h2, this]

theorem aboveAll.write {k a : Nat} {m : List Host.Cell} {b : Byte} (h : aboveAll k m) (ha : k < a) :
    aboveAll k (cellWrite m a b) := by
  induction m with
  | nil => unfold cellWrite; split <;> simp [aboveAll, ha]
  | cons c t ih =>
    obtain ⟨j, w⟩ := c
    have hj : k < j := h (j, w) (by simp)
    have ht : aboveAll k t := fun c hc => h c (by simp [hc])
    unfold cellWrite
    split
    · split
      · exact ht
      · intro c hc
        rcases List.mem_cons.mp hc with rfl | hc
        · exact hj
        · exact ht c hc
    · split
      · split
        · exact h
        · intro c hc
          rcases List.mem_cons.mp hc with rfl | hc
          · exact ha
          · exact h c hc
      · intro c hc
        rcases List.mem_cons.mp hc with rfl | hc
        · exact hj
        · exact ih ht c hc

/-- Writing one byte keeps the canonical form. -/
theorem cellWrite_wf (m : List Host.Cell) (a : Nat) (b : Byte) (h : Memory.wf m = true) : Memory.wf (cellWrite m a b) = true := by
  induction m with
  | nil => unfold cellWrite; split <;> simp_all [Memory.wf]
  | cons c t ih =>
    obtain ⟨k, v⟩ := c
    obtain ⟨h1, h2, h3⟩ := (Memory.wf_cons k v t).mp h
    unfold cellWrite
    split
    · rename_i e
      subst e
      split
      · exact h3
      · rename_i hb
        exact (Memory.wf_cons _ _ _).mpr ⟨hb, h2, h3⟩
    · split
      · split
        · exact h
        · rename_i _ hl hb
          refine (Memory.wf_cons _ _ _).mpr ⟨hb, ?_, h⟩
          intro c hc
          rcases List.mem_cons.mp hc with rfl | hc
          · exact hl
          · exact Nat.lt_trans hl (h2 c hc)
      · exact (Memory.wf_cons _ _ _).mpr ⟨h1, h2.write (by omega), ih h3⟩

/-- A byte reads as it was last written, and a write leaves every other byte alone. -/
theorem cellRead_cellWrite (m : List Host.Cell) (a c : Nat) (b : Byte) (h : Memory.wf m = true) :
    cellRead (cellWrite m a b) c = if c = a then b else cellRead m c := by
  induction m with
  | nil =>
    by_cases e : c = a
    · subst e
      by_cases hb : b = resetByte c <;> simp [cellWrite, cellRead, hb]
    · by_cases hb : b = resetByte a <;> simp [cellWrite, cellRead, hb, e]
  | cons d t ih =>
    obtain ⟨k, v⟩ := d
    obtain ⟨h1, h2, h3⟩ := (Memory.wf_cons k v t).mp h
    unfold cellWrite
    split
    · rename_i e
      subst e
      by_cases hb : b = resetByte a
      · rw [if_pos hb]
        by_cases e : c = a
        · subst e
          rw [if_pos rfl, cellRead_below t c h2, hb]
        · rw [if_neg e]
          by_cases hl : c < a
          · rw [cellRead_below t c fun x hx => Nat.lt_trans hl (h2 x hx)]
            simp [cellRead, e, hl]
          · simp [cellRead, e, hl]
      · rw [if_neg hb]
        by_cases e : c = a <;> simp [cellRead, e]
    · rename_i hk
      split
      · rename_i hl
        by_cases hb : b = resetByte a
        · rw [if_pos hb]
          by_cases e : c = a
          · subst e
            simp [cellRead, hk, hl, hb]
          · simp [e]
        · rw [if_neg hb]
          by_cases e : c = a
          · simp [cellRead, e]
          · by_cases hc : c < a
            · have h4 : c ≠ k := by omega
              have h5 : c < k := by omega
              simp [cellRead, e, hc, h4, h5]
            · simp [cellRead, e, hc]
      · rename_i hl
        simp only [cellRead, ih h3]
        by_cases e : c = a
        · subst e
          simp [hk, hl]
        · simp [e]

/-- Writing bytes keeps the canonical form. -/
theorem cellsWrite_wf (m : List Host.Cell) (a : Nat) (bs : List Byte) (h : Memory.wf m = true) :
    Memory.wf (cellsWrite m a bs) = true := by
  induction bs generalizing m a with
  | nil => exact h
  | cons b bs ih => exact ih _ _ (cellWrite_wf m a b h)

theorem filterMap_wf (f : Host.Cell → Option Host.Cell) (m : List Host.Cell) (h : Memory.wf m = true)
    (hv : ∀ c d, f c = some d → c.2 ≠ resetByte c.1 → d.2 ≠ resetByte d.1)
    (hm : ∀ c c' d d', f c = some d → f c' = some d' → c.1 < c'.1 → d.1 < d'.1) : Memory.wf (m.filterMap f) = true := by
  induction m with
  | nil => rfl
  | cons c t ih =>
    obtain ⟨k, v⟩ := c
    obtain ⟨h1, h2, h3⟩ := (Memory.wf_cons k v t).mp h
    cases e : f (k, v) with
    | none => simpa [e] using ih h3
    | some d =>
      obtain ⟨j, w⟩ := d
      rw [List.filterMap_cons_some e]
      refine (Memory.wf_cons _ _ _).mpr ⟨hv _ _ e h1, ?_, ih h3⟩
      intro x hx
      obtain ⟨y, hy, hf⟩ := List.mem_filterMap.mp hx
      exact hm _ _ _ _ e hf (h2 y hy)

namespace State

theorem poke_eq (s : State) (a : Nat) (b : Byte) (bs : List Byte) : s.poke a (b :: bs) = (s.pokeByte a b).poke (a + 1) bs := rfl

theorem canonical_congr (s t : State) (e : t.mem = s.mem) (h : s.memoryCanonical) : t.memoryCanonical := by
  unfold memoryCanonical
  rw [e]
  exact h

theorem pokeByte_canonical (s : State) (a : Nat) (b : Byte) (h : s.memoryCanonical) : (s.pokeByte a b).memoryCanonical := by
  unfold pokeByte
  split
  · exact cellWrite_wf _ _ _ h
  · exact h

/-- A poke keeps the canonical form. -/
theorem poke_canonical (s : State) (a : Nat) (bs : List Byte) (h : s.memoryCanonical) : (s.poke a bs).memoryCanonical := by
  induction bs generalizing s a with
  | nil => exact h
  | cons b bs ih => exact ih _ _ (s.pokeByte_canonical a b h)

theorem bumpSlot_canonical (s : State) (slot off n : Nat) (h : s.memoryCanonical) : (s.bumpSlot slot off n).memoryCanonical := by
  unfold bumpSlot
  exact s.poke_canonical _ _ h

theorem send_canonical (s : State) (d : Nat) (o : Origin) (b : MsgBody) (h : s.memoryCanonical) :
    (s.send d o b).memoryCanonical := by
  rw [send]
  dsimp only
  split
  · exact h
  · refine canonical_congr (if b.counted = true then { s with msgNext := s.msgNext + 1 }.bumpSlot o.track 0 1
      else { s with msgNext := s.msgNext + 1 }) _ ?_ ?_
    · generalize (if b.counted = true then { s with msgNext := s.msgNext + 1 }.bumpSlot o.track 0 1
        else { s with msgNext := s.msgNext + 1 }) = u
      rfl
    · split
      · exact bumpSlot_canonical { s with msgNext := s.msgNext + 1 } o.track 0 1 h
      · exact h

theorem healUnits_canonical (s : State) (a n : Nat) (h : s.memoryCanonical) : (s.healUnits a n).memoryCanonical := by
  unfold healUnits
  split <;> exact h

theorem nextOrder_canonical (s : State) (h : s.memoryCanonical) : s.nextOrder.memoryCanonical := by
  unfold nextOrder
  split <;> exact h

theorem setGranule_canonical (s : State) (ia : Nat) (bs : List Byte) (h : s.memoryCanonical) : (s.setGranule ia bs).memoryCanonical := by
  unfold setGranule
  split
  · exact poke_canonical _ _ _ h
  · exact h

theorem readyRecord_canonical (s : State) (k num : Nat) (h : s.memoryCanonical) : (s.readyRecord k num).memoryCanonical := by
  simp only [readyRecord]
  split
  · rename_i r _
    have hp := nextOrder_canonical _ (setGranule_canonical s ((s.tileQcw k (if r.spilled = true then 30 else 28)).slot r.granule)
      (patch (s.granule ((s.tileQcw k (if r.spilled = true then 30 else 28)).slot r.granule)) 30 [0]) h)
    generalize (s.setGranule _ _).nextOrder = u at hp ⊢
    exact hp
  · have hp := nextOrder_canonical s h
    generalize s.nextOrder = u at hp ⊢
    exact hp

theorem foldl_canonical {α : Type} (f : State → α → State) (l : List α) (s : State)
    (hf : ∀ s x, s.memoryCanonical → (f s x).memoryCanonical) (h : s.memoryCanonical) : (l.foldl f s).memoryCanonical := by
  induction l generalizing s with
  | nil => exact h
  | cons x l ih => exact ih _ (hf s x h)

theorem wakeEntries_canonical (s : State) (k a n : Nat) (h : s.memoryCanonical) : (s.wakeEntries k a n).memoryCanonical := by
  refine foldl_canonical _ _ _ (fun s _ h => s.readyRecord_canonical _ _ h) ?_
  split <;> exact h

theorem testWatch_canonical (s : State) (w : Watch) (h : s.memoryCanonical) : (s.testWatch w).memoryCanonical := by
  unfold testWatch
  split
  · exact h
  · refine send_canonical _ _ _ _ ?_
    split
    · rename_i bs _
      have hp := poke_canonical { s with watches := s.watches.erase w } (localOf w.ia) bs h
      generalize poke _ (localOf w.ia) bs = u at hp ⊢
      exact wakeEntries_canonical _ _ _ _ hp
    · exact h

theorem testWatches_canonical (s : State) (a n : Nat) (h : s.memoryCanonical) : (s.testWatches a n).memoryCanonical :=
  foldl_canonical _ _ _ (fun s w h => s.testWatch_canonical w h) h

/-- A write performed at its home keeps the canonical form. -/
theorem perform_canonical (s : State) (ia : Nat) (bs : List Byte) (h : s.memoryCanonical) : (s.perform ia bs).memoryCanonical := by
  simp only [perform]
  refine testWatches_canonical _ _ _ ?_
  split
  · exact wakeEntries_canonical _ _ _ _ (healUnits_canonical _ _ _ (poke_canonical _ _ _ h))
  · exact healUnits_canonical _ _ _ (poke_canonical _ _ _ h)

theorem setPte_canonical (s : State) (p e : Nat) (h : s.memoryCanonical) : (s.setPte p e).memoryCanonical :=
  cellsWrite_wf _ _ _ h

theorem newNode_canonical (s t : State) (l n p : Nat) (h : s.memoryCanonical) (e : s.newNode l n = some (t, p)) :
    t.memoryCanonical := by
  simp only [newNode] at e
  split at e
  · simp only [Option.some.injEq, Prod.mk.injEq] at e
    obtain ⟨rfl, _⟩ := e
    exact cellsWrite_wf _ _ _ h
  · cases e

theorem ensureNode_canonical (s t : State) (a l n p : Nat) (h : s.memoryCanonical) (e : s.ensureNode a l n = some (t, p)) :
    t.memoryCanonical := by
  simp only [ensureNode] at e
  split at e
  · simp only [Option.some.injEq, Prod.mk.injEq] at e
    obtain ⟨rfl, _⟩ := e
    exact h
  · obtain ⟨⟨u, q⟩, e1, e2⟩ := Option.map_eq_some_iff.mp e
    simp only [Prod.mk.injEq] at e2
    obtain ⟨rfl, _⟩ := e2
    exact setPte_canonical _ _ _ (newNode_canonical s u l n q h e1)

/-- The fault processor's change of the page table keeps the canonical form. -/
theorem installEntry_canonical (s t : State) (a : Nat) (e : W64) (large : Bool) (h : s.memoryCanonical)
    (he : s.installEntry a e large = some t) : t.memoryCanonical := by
  simp only [installEntry] at he
  obtain ⟨⟨s3, n3⟩, h3, he⟩ := Option.bind_eq_some_iff.mp he
  have c3 : s3.memoryCanonical := by
    split at h3
    · simp only [Option.some.injEq, Prod.mk.injEq] at h3
      obtain ⟨rfl, _⟩ := h3
      exact h
    · obtain ⟨⟨u, q⟩, e1, e2⟩ := Option.map_eq_some_iff.mp h3
      simp only [Prod.mk.injEq] at e2
      obtain ⟨rfl, _⟩ := e2
      exact cellsWrite_wf _ _ _ (newNode_canonical s u _ _ q h e1)
  obtain ⟨⟨s2, n2⟩, h2, he⟩ := Option.bind_eq_some_iff.mp he
  have c2 := ensureNode_canonical s3 s2 _ _ _ n2 c3 h2
  obtain ⟨⟨s1, n1⟩, h1, he⟩ := Option.bind_eq_some_iff.mp he
  have c1 := ensureNode_canonical s2 s1 _ _ _ n1 c2 h1
  dsimp only at he
  split at he
  · simp only [Option.some.injEq] at he
    subst he
    exact setPte_canonical _ _ _ c1
  · obtain ⟨⟨s0, n0⟩, h0, e0⟩ := Option.map_eq_some_iff.mp he
    subst e0
    exact setPte_canonical _ _ _ (ensureNode_canonical s1 s0 _ _ _ n0 c1 h0)

theorem withFetchWord_canonical (s : State) (n w : Nat) (h : s.memoryCanonical) : (s.withFetchWord n w).memoryCanonical :=
  cellsWrite_wf _ _ _ h

end State

/-- Moving a frame keeps the canonical form. -/
theorem moveFrame_wf (m : List Host.Cell) (a b n : Nat) (h : Memory.wf m = true) : Memory.wf (moveFrame m a b n) = true := by
  simp only [moveFrame]
  split
  · exact h
  · exact cellsWrite_wf _ _ _ h

theorem foldl_wf {α : Type} (f : List Host.Cell → α → List Host.Cell) (l : List α) (m : List Host.Cell)
    (hf : ∀ m x, Memory.wf m = true → Memory.wf (f m x) = true) (h : Memory.wf m = true) : Memory.wf (l.foldl f m) = true := by
  induction l generalizing m with
  | nil => exact h
  | cons x l ih => exact ih _ (hf m x h)

theorem reset_memoryCanonical : State.reset.memoryCanonical := rfl

end Sys2Proof.Machine
end

