-- ==== Sys2Proof/Laws/Retire.lean ====
section
/-! SUPPORT. What the retirement of a word does (R64, R71, R75, R82): the lemmas that every result of a word rests on. -/

namespace Sys2Proof.Machine

/-- What passing a word leaves alone in a strand: all but PCs, walk counts, outcomes, closings and the registers that a closing
LOOP changes. -/
structure Strand.passKeeps (t u : Strand) : Prop where
  v : u.regs.v = t.regs.v
  p : u.regs.p = t.regs.p
  sFull : u.sFull = t.sFull
  vFull : u.vFull = t.vFull
  tokens : u.tokens = t.tokens
  flights : u.flights = t.flights
  livemask : u.livemask = t.livemask
  window : u.window = t.window
  ranges : u.ranges = t.ranges
  trapCause : u.trapCause = t.trapCause
  trapPc : u.trapPc = t.trapPc
  trapAddr : u.trapAddr = t.trapAddr
  super : u.super = t.super
  live : u.live = t.live
  task : u.task = t.task
  rank : u.rank = t.rank
  loopRegs : u.loopRegs = t.loopRegs

theorem Strand.passKeeps.refl (t : Strand) : t.passKeeps t := by constructor <;> rfl

theorem Strand.passKeeps.trans {t u w : Strand} (a : t.passKeeps u) (b : u.passKeeps w) : t.passKeeps w := by
  obtain ⟨_, _, _, _, _, _, _, _, _, _, _, _, _, _, _, _, _⟩ := a
  obtain ⟨_, _, _, _, _, _, _, _, _, _, _, _, _, _, _, _, _⟩ := b
  constructor <;> simp_all

@[simp] theorem regAt_regPut {α : Type} (f : Vector α 32) (r q : BitVec 5) (x : α) :
    regAt (regPut f r x) q = if q = r then x else regAt f q := by
  unfold regAt regPut
  rw [Vector.getElem_set]
  by_cases h : q = r
  · simp [h]
  · have : r.toNat ≠ q.toNat := fun e => h (BitVec.eq_of_toNat_eq e.symm)
    simp [h, this]

@[simp] theorem smallAt_smallPut {α : Type} (f : Vector α 8) (r q : BitVec 3) (x : α) :
    smallAt (smallPut f r x) q = if q = r then x else smallAt f q := by
  unfold smallAt smallPut
  rw [Vector.getElem_set]
  by_cases h : q = r
  · simp [h]
  · have : r.toNat ≠ q.toNat := fun e => h (BitVec.eq_of_toNat_eq e.symm)
    simp [h, this]

theorem bitPut_get (m : W32) (r q : BitVec 5) (x : Bool) :
    (bitPut m r x).getLsbD q.toNat = if q = r then x else m.getLsbD q.toNat := by
  have hq : q.toNat < 32 := q.isLt
  by_cases h : q = r
  · subst h
    cases x <;> simp [bitPut, hq]
  · have hn : q.toNat ≠ r.toNat := fun e => h (BitVec.eq_of_toNat_eq e)
    have hb : (q.toNat < r.toNat) ∨ (r.toNat < q.toNat) := by omega
    cases x <;> simp [bitPut, h, hq] <;> intros <;> omega

theorem Strand.post_keeps (t : Strand) (o : BranchOutcome) : t.passKeeps (t.post o) := by constructor <;> rfl

theorem Strand.setPc_keeps (t : Strand) (e : Engine) (x : W32) : t.passKeeps (t.setPc e x) := by constructor <;> rfl

theorem Strand.setWalk_keeps (t : Strand) (e : Engine) (x : Nat) : t.passKeeps (t.setWalk e x) := by constructor <;> rfl

theorem Strand.setS_keeps (t : Strand) (r : BitVec 5) (x : W64) : t.passKeeps (t.setS r x) := by constructor <;> rfl

theorem Strand.setB_keeps (t : Strand) (r : BitVec 3) (x : W64) : t.passKeeps (t.setB r x) := by constructor <;> rfl

@[simp] theorem Strand.sreg_setS (t : Strand) (r q : BitVec 5) (x : W64) : (t.setS r x).sreg q = if q = r then x else t.sreg q := by
  simp [Strand.sreg, Strand.setS]
@[simp] theorem Strand.breg_setB (t : Strand) (r q : BitVec 3) (x : W64) : (t.setB r x).breg q = if q = r then x else t.breg q := by
  simp [Strand.breg, Strand.setB]
@[simp] theorem Strand.sreg_setB (t : Strand) (r : BitVec 3) (q : BitVec 5) (x : W64) : (t.setB r x).sreg q = t.sreg q := rfl
@[simp] theorem Strand.breg_setS (t : Strand) (r : BitVec 5) (q : BitVec 3) (x : W64) : (t.setS r x).breg q = t.breg q := rfl
@[simp] theorem Strand.sreg_post (t : Strand) (o : BranchOutcome) (q : BitVec 5) : (t.post o).sreg q = t.sreg q := rfl
@[simp] theorem Strand.breg_post (t : Strand) (o : BranchOutcome) (q : BitVec 3) : (t.post o).breg q = t.breg q := rfl
@[simp] theorem Strand.sreg_setPc (t : Strand) (e : Engine) (x : W32) (q : BitVec 5) : (t.setPc e x).sreg q = t.sreg q := rfl
@[simp] theorem Strand.breg_setPc (t : Strand) (e : Engine) (x : W32) (q : BitVec 3) : (t.setPc e x).breg q = t.breg q := rfl

theorem Strand.closeLoops_keeps (tag : Nat) (bs : List (BitVec 3)) : ∀ t : Strand, t.passKeeps (t.closeLoops tag bs) := by
  induction bs with
  | nil => exact fun t => .refl t
  | cons b bs ih =>
    intro t
    simp only [Strand.closeLoops]
    split
    · exact ((((Strand.setS_keeps t _ _).trans (Strand.setB_keeps _ _ _)).trans (Strand.post_keeps _ _))).trans (ih _)
    · exact ((Strand.setS_keeps t _ _).trans (Strand.post_keeps _ _)).trans (Strand.setPc_keeps _ _ _)

theorem Strand.closeLoops_sreg (tag : Nat) (bs : List (BitVec 3)) (r : BitVec 5) :
    ∀ t : Strand, (∀ b ∈ bs, smallAt t.loopRegs b ≠ r) → (t.closeLoops tag bs).sreg r = t.sreg r := by
  induction bs with
  | nil => exact fun t _ => rfl
  | cons b bs ih =>
    intro t h
    have h0 := h b (by simp)
    have h1 : ∀ c ∈ bs, smallAt t.loopRegs c ≠ r := fun c hc => h c (by simp [hc])
    simp only [Strand.closeLoops]
    split
    · rw [ih]
      · simp [Ne.symm h0]
      · exact h1
    · simp [Ne.symm h0]

theorem Strand.closeLoops_breg (tag : Nat) (bs : List (BitVec 3)) (r : BitVec 3) :
    ∀ t : Strand, r ∉ bs → (t.closeLoops tag bs).breg r = t.breg r := by
  induction bs with
  | nil => exact fun t _ => rfl
  | cons b bs ih =>
    intro t h
    have h0 : r ≠ b := fun e => h (by simp [e])
    have h1 : r ∉ bs := fun hc => h (by simp [hc])
    simp only [Strand.closeLoops]
    split
    · rw [ih _ h1]
      simp [h0]
    · simp

theorem Strand.insertLoop_breg (t u : Strand) (h : ∀ b, u.breg b = t.breg b) (b : BitVec 3) :
    ∀ bs, u.insertLoop b bs = t.insertLoop b bs := by
  intro bs
  induction bs with
  | nil => rfl
  | cons c cs ih => simp only [Strand.insertLoop, h, ih]

/-- The closing LOOPs depend on the branch registers alone. -/
theorem Strand.closingLoops_breg (t u : Strand) (h : ∀ b, u.breg b = t.breg b) (last : W32) :
    u.closingLoops last = t.closingLoops last := by
  have hi : u.insertLoop = t.insertLoop := by
    funext b bs
    exact Strand.insertLoop_breg t u h b bs
  simp only [Strand.closingLoops, h, hi]

theorem Strand.popFor_keeps (t : Strand) (e : Engine) (tag : Nat) : t.passKeeps (t.popFor e tag).1 := by
  simp only [Strand.popFor]
  split <;> constructor <;> rfl

theorem Strand.popFor_regs (t : Strand) (e : Engine) (tag : Nat) : (t.popFor e tag).1.regs = t.regs := by
  simp only [Strand.popFor]
  split <;> rfl

/-- What passing a word does to a strand's registers and what it leaves alone (R69, R82). -/
theorem Strand.pass_spec (t : Strand) (e : Engine) (len : Nat) (target : Option W32) :
    t.passKeeps (t.pass e len target) ∧
    (∀ r, (e = .s → r ∉ (t.closingLoops (t.lastWord len)).map (smallAt t.loopRegs)) → (t.pass e len target).sreg r = t.sreg r) ∧
    (∀ r, (e = .s → r ∉ t.closingLoops (t.lastWord len)) → (t.pass e len target).breg r = t.breg r) := by
  let u := (t.setPc e (target.getD (t.pc e + BitVec.ofNat 32 len))).setWalk e (t.walk e + len)
  have hu : t.passKeeps u := (Strand.setPc_keeps t _ _).trans (Strand.setWalk_keeps _ _ _)
  have hb : ∀ b, u.breg b = t.breg b := fun _ => rfl
  have hs : ∀ r, u.sreg r = t.sreg r := fun _ => rfl
  by_cases he : e = .s
  · subst he
    have hc : u.closingLoops (t.lastWord len) = t.closingLoops (t.lastWord len) := Strand.closingLoops_breg t u hb _
    have hp : t.pass .s len target =
        if (t.closingLoops (t.lastWord len)).all fun b => u.isFull (.s (smallAt u.loopRegs b)) then
          u.closeLoops (t.walk .s) (t.closingLoops (t.lastWord len))
        else { u with closing := u.closing.set 0 (some (t.walk .s)) } := by
      rw [← hc]
      rfl
    rw [hp]
    split
    · refine ⟨hu.trans (Strand.closeLoops_keeps _ _ _), fun r h => ?_, fun r h => ?_⟩
      · rw [Strand.closeLoops_sreg, hs]
        intro b hb' hr
        exact h rfl (List.mem_map.mpr ⟨b, hb', hr⟩)
      · rw [Strand.closeLoops_breg, hb]
        exact h rfl
    · exact ⟨hu.trans (by constructor <;> rfl), fun r _ => rfl, fun r _ => rfl⟩
  · have hp : t.pass e len target =
        (if (u.popFor e (t.walk e)).2 then
          (if (u.popFor e (t.walk e)).1.closing[0] == some (t.walk e) then
            { (u.popFor e (t.walk e)).1 with closing := (u.popFor e (t.walk e)).1.closing.set (engineIdx e) (some (t.walk e)) }
          else (u.popFor e (t.walk e)).1)
        else if u.mayClose (t.walk e) (t.lastWord len |> fun _ => t.pc e + BitVec.ofNat 32 len - 1) then
          { u with closing := u.closing.set (engineIdx e) (some (t.walk e)) }
        else u) := by
      simp only [Strand.pass, he, if_false]
      rfl
    rw [hp]
    have hk := Strand.popFor_keeps u e (t.walk e)
    have hr := Strand.popFor_regs u e (t.walk e)
    have hsr : ∀ r, (u.popFor e (t.walk e)).1.sreg r = t.sreg r := fun r => by
      rw [Strand.sreg, hr]; rfl
    have hbr : ∀ r, (u.popFor e (t.walk e)).1.breg r = t.breg r := fun r => by
      rw [Strand.breg, hr]; rfl
    split
    · split
      · exact ⟨(hu.trans hk).trans (by constructor <;> rfl), fun r _ => hsr r, fun r _ => hbr r⟩
      · exact ⟨hu.trans hk, fun r _ => hsr r, fun r _ => hbr r⟩
    · split
      · exact ⟨hu.trans (by constructor <;> rfl), fun r _ => rfl, fun r _ => rfl⟩
      · exact ⟨hu, fun r _ => rfl, fun r _ => rfl⟩

/-- The register that a result names. -/
def Dest.ref : Dest → Option RegRef
  | .s r _ => some (.s r)
  | .v r _ => some (.v r)
  | _ => Option.none

/-- The strand of a word with its result: written, or its register empty until the result comes. -/
def Strand.resulted (t : Strand) (direct : Bool) (v : View) (d : Dest) (taint : Bool) : Strand :=
  if direct then t.put d taint else match v.dest with
    | some r => t.setFull r false
    | none => t

/-- What the result of a word leaves alone in a strand. -/
structure Strand.resultKeeps (t u : Strand) (d : Dest) : Prop where
  sregs : ∀ r, (∀ x, d ≠ .s r x) → u.sreg r = t.sreg r
  vregs : ∀ r, (∀ x, d ≠ .v r x) → u.vreg r = t.vreg r
  pregs : ∀ r, (∀ x, d ≠ .p r x) → u.preg r = t.preg r
  bregs : ∀ r, (∀ x, d ≠ .b r x) → u.breg r = t.breg r
  rest : u.pcs = t.pcs ∧ u.loopRegs = t.loopRegs ∧ u.tokens = t.tokens ∧ u.flights = t.flights ∧ u.livemask = t.livemask ∧
    u.window = t.window ∧ u.ranges = t.ranges ∧ u.trapCause = t.trapCause ∧ u.trapPc = t.trapPc ∧ u.trapAddr = t.trapAddr ∧
    u.super = t.super ∧ u.live = t.live ∧ u.task = t.task ∧ u.rank = t.rank

theorem Strand.setFull_keeps (t : Strand) (r : RegRef) (x : Bool) (d : Dest) : t.resultKeeps (t.setFull r x) d := by
  cases r <;> exact ⟨fun _ _ => rfl, fun _ _ => rfl, fun _ _ => rfl, fun _ _ => rfl, by simp [Strand.setFull]⟩

theorem Strand.put_keeps (t : Strand) (d : Dest) (taint : Bool) : t.resultKeeps (t.put d taint) d := by
  cases d with
  | none => exact ⟨fun _ _ => rfl, fun _ _ => rfl, fun _ _ => rfl, fun _ _ => rfl, by simp [Strand.put]⟩
  | s r x =>
    refine ⟨fun q h => ?_, fun _ _ => rfl, fun _ _ => rfl, fun _ _ => rfl, by simp [Strand.put, Strand.setTaint, Strand.setFull, Strand.setS]⟩
    have : q ≠ r := fun e => h x (by rw [e])
    simp [Strand.put, Strand.setTaint, Strand.setFull, Strand.setS, Strand.sreg, this]
  | v r x =>
    refine ⟨fun _ _ => rfl, fun q h => ?_, fun _ _ => rfl, fun _ _ => rfl, by simp [Strand.put, Strand.setTaint, Strand.setFull, Strand.setV]⟩
    have : q ≠ r := fun e => h x (by rw [e])
    simp [Strand.put, Strand.setTaint, Strand.setFull, Strand.setV, Strand.vreg, this]
  | p r x =>
    refine ⟨fun q _ => ?_, fun q _ => ?_, fun q h => ?_, fun q _ => ?_, ?_⟩ <;> simp only [Strand.put, Strand.setP] <;> split <;>
      try rfl
    · have : q ≠ r := fun e => h x (by rw [e])
      simp [Strand.preg, this]
    · simp
    · simp
  | b r x =>
    refine ⟨fun _ _ => rfl, fun _ _ => rfl, fun _ _ => rfl, fun q h => ?_, by simp [Strand.put, Strand.setB]⟩
    have : q ≠ r := fun e => h x (by rw [e])
    simp [Strand.put, this]

theorem Strand.resulted_keeps (t : Strand) (direct : Bool) (v : View) (d : Dest) (taint : Bool) :
    t.resultKeeps (t.resulted direct v d taint) d := by
  unfold Strand.resulted
  split
  · exact Strand.put_keeps t d taint
  · split
    · exact Strand.setFull_keeps t _ _ d
    · exact ⟨fun _ _ => rfl, fun _ _ => rfl, fun _ _ => rfl, fun _ _ => rfl, by simp⟩

theorem Strand.signal_some {t u : Strand} {e : Engine} {sp sn : Bool} (h : t.signal e sp sn = some u) :
    ∃ k, u = { t with tokens := k } := by
  unfold Strand.signal at h
  split at h
  · cases h
  · exact ⟨_, (Option.some.inj h).symm⟩

theorem Strand.signal_tokens {t u : Strand} (h : u.tokens = t.tokens) (e : Engine) (sp sn : Bool) :
    (u.signal e sp sn).isSome = (t.signal e sp sn).isSome := by
  unfold Strand.signal
  rw [h]
  split <;> rfl

/-- The strand that a word leaves (R64, R71): tokens taken, the result in place or to come, the word passed. -/
def Strand.stepped (t : Strand) (v : View) (direct : Bool) (d : Dest) (target : Option W32) (taint : Bool) : Strand :=
  ((t.takeTokens v.engine v.q).resulted direct v d taint).pass v.engine v.len target

theorem Strand.stepped_spec (t : Strand) (v : View) (direct : Bool) (d : Dest) (target : Option W32) (taint : Bool)
    (hc : ∀ r x, d = .b r x → direct = true → (t.setB r x).closingLoops (t.lastWord v.len) = t.closingLoops (t.lastWord v.len)) :
    let m := (t.takeTokens v.engine v.q).resulted direct v d taint
    let u := t.stepped v direct d target taint
    m.passKeeps u ∧ (t.takeTokens v.engine v.q).resultKeeps m d ∧
    (∀ r, (v.engine = .s → r ∉ t.loopCounts v.len) → u.sreg r = m.sreg r) ∧
    (∀ r, (v.engine = .s → r ∉ t.closingLoops (t.lastWord v.len)) → u.breg r = m.breg r) := by
  intro m u
  have hm := Strand.resulted_keeps (t.takeTokens v.engine v.q) direct v d taint
  have hs := Strand.pass_spec m v.engine v.len target
  have hcl : m.closingLoops (m.lastWord v.len) = t.closingLoops (t.lastWord v.len) := by
    have hl : m.lastWord v.len = t.lastWord v.len := by
      simp only [Strand.lastWord, Strand.pc]
      rw [hm.rest.1]
      rfl
    rw [hl]
    by_cases hd : ∃ r x, d = .b r x ∧ direct = true
    · obtain ⟨r, x, hd, hdir⟩ := hd
      rw [← hc r x hd hdir]
      apply Strand.closingLoops_breg
      intro b
      simp [m, Strand.resulted, hd, hdir, Strand.put, Strand.breg, Strand.setB, Strand.takeTokens]
    · apply Strand.closingLoops_breg
      intro b
      by_cases hdir : direct = true
      · rw [hm.bregs]
        · rfl
        · intro x hx
          exact hd ⟨b, x, hx, hdir⟩
      · simp only [m, Strand.resulted, hdir]
        cases v.dest with
        | none => rfl
        | some r => cases r <;> rfl
  refine ⟨hs.1, hm, fun r h => hs.2.1 r fun he => ?_, fun r h => hs.2.2 r fun he => ?_⟩
  · rw [hcl, show m.loopRegs = t.loopRegs from hm.rest.2.1]
    exact h he
  · rw [hcl]
    exact h he

/-- The result of a word goes to its register at once (R76): a fast word, or one without an s or v destination. -/
def Dest.direct (d : Dest) (fast : Bool) : Bool :=
  match d with
  | .s _ _ => fast
  | .v _ _ => fast
  | _ => true

/-- The retirement of a word as a strand's step and a count. -/
theorem State.retire_eq (s : State) (v : View) (fast : Bool) (d : Dest) (target : Option W32) (taint : Bool) :
    ∃ (f : Flight) (e : Option W64) (r : Option Engine) (pl : List (List Byte)) (pw : Nat) (bl bw : Option Instr)
        (ll : List (W64 × Nat × Nat)) (lw : List (Nat × List Byte)), f.engine = v.engine ∧
      f.dest = (if d.direct fast then none else v.dest) ∧ (∀ r x, d = .s r x → f.sval = x) ∧ (∀ r x, d = .v r x → f.vval = x) ∧
      let t : Strand := { s.cur.stepped v (d.direct fast) d target (s.cur.anyTaint v || taint) with ecmdSince := e, rewoke := r, partL := pl, partW := pw, begunL := bl, begunW := bw, leftL := ll, leftW := lw }
      let b := (s.modCur fun _ => t).count s.here (1 + (engineIdx v.engine).val)
      s.retire v fast d target taint =
        if fast && !((s.cur.takeTokens v.engine v.q).flights.any fun f => f.engine == v.engine) then
          match t.signal v.engine (v.q.getLsbD 1) (v.q.getLsbD 0) with
          | some u => .next (b.modCur fun _ => u)
          | none => .next (b.takeTrap v.engine { cause := 2, sub := 1, after := true })
        else .next (b.modCur fun t => { t with flights := t.flights ++ [f] }) := by
  cases d <;> refine ⟨_, _, _, _, _, _, _, _, _, ?_, ?_, ?_, ?_, rfl⟩ <;> (try rfl) <;> (intros; simp_all)

/-- A branch register that a word may write (R82, R387): the write does not change which LOOPs close behind the word. -/
def State.branchFree (s : State) (v : View) (d : Dest) : Prop :=
  ∀ r x, d = .b r x → r ∉ s.cur.closingLoops (s.cur.lastWord v.len) ∧
    (s.cur.setB r x).closingLoops (s.cur.lastWord v.len) = s.cur.closingLoops (s.cur.lastWord v.len)

/-- A state that differs from `s` in its current strand and in counters of its tile. -/
structure State.onlyCur (s t : State) : Prop where
  mem : t.mem = s.mem
  pkg : t.pkg = s.pkg
  tasks : t.tasks = s.tasks
  jobs : t.jobs = s.jobs
  msgs : t.msgs = s.msgs
  toDispatch : t.toDispatch = s.toDispatch
  watches : t.watches = s.watches
  unacked : t.unacked = s.unacked
  out : t.out = s.out
  focus : t.focus = s.focus
  others : ∀ n, n ≠ s.focus → t.strand n = s.strand n
  tiles : ∀ k, (t.tile k).sameBut (s.tile k)

theorem State.onlyCur_count (s : State) (f g : Strand → Strand) (k num : Nat) (x : W64) :
    s.onlyCur ((s.modCur f).count k num x |>.modCur g) := by
  refine ⟨rfl, rfl, rfl, rfl, rfl, rfl, rfl, rfl, rfl, rfl, fun n h => ?_, fun j => ?_⟩
  · rw [State.strand_modCur _ _ _ (show n ≠ ((s.modCur f).count k num x).focus from h), State.strand_count, State.strand_modCur _ _ _ h]
  · show Tile.sameBut (((s.modCur f).count k num x).tile j) (s.tile j)
    simp only [State.count, State.tile_modTile]
    split
    · rename_i h
      subst h
      rfl
    · rfl

/-- What the retirement of a word does, once and for all (R64, R71, R75, R76, R82). -/
theorem State.retire_spec (s : State) (v : View) (fast : Bool) (d : Dest) (target : Option W32) (taint : Bool)
    (hsig : fast = true → s.maySignal v.engine v.q) (hdest : d.direct fast = false → v.dest = d.ref) (hb : s.branchFree v d) :
    ∃ t, s.retire v fast d target taint = .next t ∧ (d.direct fast = true → s.written t v d) ∧
      (fast = false → s.inFlight t v d) ∧ s.Keeps t v d := by
  obtain ⟨f, e, r, pl, pw, bl, bw, ll, lw, hfe, hfd, hfs, hfv, heq⟩ := s.retire_eq v fast d target taint
  have hst := s.cur.stepped_spec v (d.direct fast) d target (s.cur.anyTaint v || taint) (fun r x h _ => (hb r x h).2)
  obtain ⟨hp, hm, hsr, hbr⟩ := hst
  generalize hmdef : (s.cur.takeTokens v.engine v.q).resulted (d.direct fast) v d (s.cur.anyTaint v || taint) = m at hp hm hsr hbr
  generalize hudef : s.cur.stepped v (d.direct fast) d target (s.cur.anyTaint v || taint) = u at hp hsr hbr heq
  have hflights : u.flights = s.cur.flights := by rw [hp.flights, hm.rest.2.2.2.1]; rfl
  have keeps : ∀ w : Strand, w.regs = u.regs → w.livemask = u.livemask → w.window = u.window → w.ranges = u.ranges →
      w.trapCause = u.trapCause → w.trapPc = u.trapPc → w.trapAddr = u.trapAddr → w.super = u.super → w.live = u.live →
      w.task = u.task → w.rank = u.rank → w.sFull = u.sFull → w.vFull = u.vFull →
      ∀ t, s.onlyCur t → t.cur = w → s.Keeps t v d ∧ (d.direct fast = true → s.written t v d) := by
    intro w h0 h1 h2 h3 h4 h5 h6 h7 h8 h9 h10 h11 h12 t ht hw
    have wsr : ∀ q, w.sreg q = u.sreg q := fun q => by simp only [Strand.sreg, h0]
    have wvr : ∀ q, w.vreg q = u.vreg q := fun q => by simp only [Strand.vreg, h0]
    have wpr : ∀ q, w.preg q = u.preg q := fun q => by simp only [Strand.preg, h0]
    have wbr : ∀ q, w.breg q = u.breg q := fun q => by simp only [Strand.breg, h0]
    have uvr : ∀ q, u.vreg q = m.vreg q := fun q => by simp only [Strand.vreg, hp.v]
    have upr : ∀ q, u.preg q = m.preg q := fun q => by simp only [Strand.preg, hp.p]
    obtain ⟨r1, r2, r3, r4, r5, r6, r7, r8, r9, r10, r11, r12, r13, r14⟩ := hm.rest
    refine ⟨⟨ht.mem, ht.pkg, ht.tasks, ht.jobs, ht.msgs, ht.toDispatch, ht.watches, ht.unacked, ht.out, ht.focus, ht.others, ht.tiles,
      fun q h hc => ?_, fun q h => ?_, fun q h => ?_, fun q h hc => ?_, ?_⟩, fun hdir => ?_⟩
    · rw [hw, wsr, hsr q hc, hm.sregs q h]; rfl
    · rw [hw, wvr, uvr, hm.vregs q h]; rfl
    · rw [hw, wpr, upr, hm.pregs q h]; rfl
    · rw [hw, wbr, hbr q hc, hm.bregs q h]; rfl
    · rw [hw, h1, h2, h3, h4, h5, h6, h7, h8, h9, h10, hp.livemask, hp.window, hp.ranges, hp.trapCause, hp.trapPc, hp.trapAddr,
        hp.super, hp.live, hp.task, hp.rank, r5, r6, r7, r8, r9, r10, r11, r12, r13, r14]
      simp [Strand.takeTokens]
    · subst hmdef
      cases d with
      | none => trivial
      | s q x =>
        intro hc
        rw [hw]
        refine ⟨?_, ?_⟩
        · rw [wsr, hsr q hc]
          simp [Strand.resulted, hdir, Strand.put, Strand.setTaint, Strand.setFull, Strand.setS, Strand.sreg]
        · simp only [Strand.isFull, h11, hp.sFull, Strand.resulted, hdir, if_true, Strand.put, Strand.setTaint, Strand.setFull]
          rw [bitPut_get]
          simp
      | v q x =>
        rw [State.written, hw]
        refine ⟨?_, ?_⟩
        · rw [wvr, uvr]
          simp [Strand.resulted, hdir, Strand.put, Strand.setTaint, Strand.setFull, Strand.setV, Strand.vreg]
        · simp only [Strand.isFull, h12, hp.vFull, Strand.resulted, hdir, if_true, Strand.put, Strand.setTaint, Strand.setFull]
          rw [bitPut_get]
          simp
      | p q x =>
        intro h
        rw [hw, wpr, upr]
        simp [Strand.resulted, hdir, Strand.put, Strand.setP, h, Strand.preg]
      | b q x =>
        rw [State.written, hw, wbr, hbr q (fun _ => (hb q x rfl).1)]
        simp [Strand.resulted, hdir, Strand.put]
  have late : ∀ t : State, t.cur = { u with ecmdSince := e, rewoke := r, partL := pl, partW := pw, begunL := bl, begunW := bw, leftL := ll, leftW := lw, flights := u.flights ++ [f] } → fast = false → s.inFlight t v d := by
    intro t ht hf
    subst hmdef
    have hfl : t.cur.flights = s.cur.flights ++ [f] := by rw [ht, ← hflights]
    cases d with
    | none => exact ⟨f, hfl, hfe, by simpa [Dest.direct] using hfd⟩
    | s q x =>
      have hdir : Dest.direct (.s q x) fast = false := hf
      refine ⟨f, hfl, hfe, by rw [hfd, hdir]; exact hdest hdir, hfs q x rfl, ?_⟩
      rw [ht]
      simp only [Strand.isFull, hp.sFull, Strand.resulted, hdir, hdest hdir, Dest.ref, Strand.setFull]
      simp only [Bool.false_eq_true, if_false]
      rw [bitPut_get]
      simp
    | v q x =>
      have hdir : Dest.direct (.v q x) fast = false := hf
      refine ⟨f, hfl, hfe, by rw [hfd, hdir]; exact hdest hdir, hfv q x rfl, ?_⟩
      rw [ht]
      simp only [Strand.isFull, hp.vFull, Strand.resulted, hdir, hdest hdir, Dest.ref, Strand.setFull]
      simp only [Bool.false_eq_true, if_false]
      rw [bitPut_get]
      simp
    | p q x => exact ⟨f, hfl, hfe, by simpa [Dest.direct] using hfd⟩
    | b q x => exact ⟨f, hfl, hfe, by simpa [Dest.direct] using hfd⟩
  simp only at heq
  by_cases hgo : (fast && !((s.cur.takeTokens v.engine v.q).flights.any fun f => f.engine == v.engine)) = true
  · have hfast : fast = true := by simp_all
    have hno : ((s.cur.takeTokens v.engine v.q).flights.any fun f => f.engine == v.engine) = false := by simp_all
    have hroom : ((s.cur.takeTokens v.engine v.q).signal v.engine (v.q.getLsbD 1) (v.q.getLsbD 0)).isSome := by
      rcases hsig hfast with ⟨g, hg, hge⟩ | h
      · exfalso
        have : (s.cur.flights.any fun f => f.engine == v.engine) = true := List.any_eq_true.mpr ⟨g, hg, by simp [hge]⟩
        have hno' : (s.cur.flights.any fun f => f.engine == v.engine) = false := hno
        simp [this] at hno'
      · exact h
    rw [if_pos hgo] at heq
    have hroom' : (Strand.signal { u with ecmdSince := e, rewoke := r, partL := pl, partW := pw, begunL := bl, begunW := bw, leftL := ll, leftW := lw } v.engine (v.q.getLsbD 1) (v.q.getLsbD 0)).isSome := by
      rw [Strand.signal_tokens (t := s.cur.takeTokens v.engine v.q) (by rw [← hm.rest.2.2.1, ← hp.tokens])]
      exact hroom
    obtain ⟨w, hw⟩ := Option.isSome_iff_exists.mp hroom'
    obtain ⟨k, hk⟩ := Strand.signal_some hw
    rw [hw] at heq
    subst hk
    have h := keeps { u with tokens := k, ecmdSince := e, rewoke := r, partL := pl, partW := pw, begunL := bl, begunW := bw, leftL := ll, leftW := lw } rfl rfl rfl rfl rfl rfl rfl rfl rfl rfl rfl rfl rfl _
      (s.onlyCur_count (fun _ => { u with ecmdSince := e, rewoke := r, partL := pl, partW := pw, begunL := bl, begunW := bw, leftL := ll, leftW := lw })
        (fun _ => { u with tokens := k, ecmdSince := e, rewoke := r, partL := pl, partW := pw, begunL := bl, begunW := bw, leftL := ll, leftW := lw }) s.here (1 + (engineIdx v.engine).val) 1)
      (State.cur_modCur _ (fun _ => { u with tokens := k, ecmdSince := e, rewoke := r, partL := pl, partW := pw, begunL := bl, begunW := bw, leftL := ll, leftW := lw }))
    exact ⟨_, heq, h.2, fun h => by simp [hfast] at h, h.1⟩
  · rw [if_neg hgo] at heq
    have hw : ((((s.modCur fun _ => { u with ecmdSince := e, rewoke := r, partL := pl, partW := pw, begunL := bl, begunW := bw, leftL := ll, leftW := lw }).count s.here (1 + (engineIdx v.engine).val) 1).modCur
        fun t => { t with flights := t.flights ++ [f] }).cur) = { u with ecmdSince := e, rewoke := r, partL := pl, partW := pw, begunL := bl, begunW := bw, leftL := ll, leftW := lw, flights := u.flights ++ [f] } := by
      rw [State.cur_modCur, State.cur_count, State.cur_modCur]
    have h := keeps { u with ecmdSince := e, rewoke := r, partL := pl, partW := pw, begunL := bl, begunW := bw, leftL := ll, leftW := lw, flights := u.flights ++ [f] } rfl rfl rfl rfl rfl rfl rfl rfl rfl rfl rfl rfl rfl _
      (s.onlyCur_count (fun _ => { u with ecmdSince := e, rewoke := r, partL := pl, partW := pw, begunL := bl, begunW := bw, leftL := ll, leftW := lw }) (fun t => { t with flights := t.flights ++ [f] }) s.here
        (1 + (engineIdx v.engine).val) 1) hw
    exact ⟨_, heq, h.2, fun h => late _ hw h, h.1⟩

end Sys2Proof.Machine
end

