-- ==== Sys2Proof/Laws/Traps.lean ====
section
/-! SUPPORT. What taking a trap does, case by case (R268 to R273), and that bytes placed without further effect change memory only. -/

namespace Sys2Proof.Machine

namespace State

/-- Bytes placed without further effect change memory only. -/
theorem poke_only (s : State) (a : Nat) (bs : List Byte) : ∃ m, s.poke a bs = { s with mem := m } := by
  induction bs generalizing s a with
  | nil => exact ⟨s.mem, rfl⟩
  | cons b bs ih =>
    obtain ⟨m, h⟩ : ∃ m, s.pokeByte a b = { s with mem := m } := by
      unfold pokeByte
      split
      · exact ⟨_, rfl⟩
      · exact ⟨s.mem, rfl⟩
    rw [poke_eq, h]
    obtain ⟨n, e⟩ := ih { s with mem := m } (a + 1)
    exact ⟨n, e⟩

/-- The strand that a handler starts with (R272, R273). -/
def handlerStrand (s : State) (e : Engine) (r : TrapReq) : Strand :=
  let t := s.cur
  let base := s.frameIA s.focus
  { live := true, task := t.task, rank := t.rank, super := true
    regs := { s := ((((((Vector.replicate 32 0).set 1 (BitVec.ofNat 64 base)).set 2 (trapCauseWord e r)).set 3 r.addr).set 4
      (BitVec.ofNat 64 (t.pc e).toNat)).set 5 (t.sreg 5)).set 6 (t.sreg 6) }
    pcs := Vector.replicate 4 (BitVec.ofNat 32 (16 * r.cause)), ranges := t.ranges
    trapCause := t.trapCause, trapPc := t.trapPc, trapAddr := t.trapAddr
    trapSave := some ⟨e, t.block, t.pcs, t.tokens, r.cause, r.sub, localOf base, r.after, r.detail, t.snapshot, t.flights⟩ }

/-- Entering a handler writes the frame, puts the handler's strand in the slot, and does nothing else. -/
theorem enterHandler_eq (s : State) (e : Engine) (r : TrapReq) :
    ∃ m, s.enterHandler e r = { s with mem := m }.setStrand s.focus (s.handlerStrand e r) := by
  obtain ⟨m, h⟩ := s.poke_only (localOf (s.frameIA s.focus))
    (frameBytes s.cur (wfield (trapCauseWord e r) 0 32) s.cur.tokenWord r.addr s.curTask.id s.curTask.job s.frame)
  generalize hx : s.poke (localOf (s.frameIA s.focus))
    (frameBytes s.cur (wfield (trapCauseWord e r) 0 32) s.cur.tokenWord r.addr s.curTask.id s.curTask.job s.frame) = x at h
  obtain ⟨m', h'⟩ := x.poke_only (localOf (s.frameIA s.focus) + 0x21C0)
    ((List.range 5184).map fun i => Config.privateByte (x.steps * 5184 + i))
  refine ⟨m', ?_⟩
  have e' : ({ s with mem := m' } : State) = { x with mem := m' } := by rw [h]
  rw [e', ← h', ← hx]
  rfl

/-- A trap at which the task lives on past its checks (R60, R272, R273): no posted failure, no overflow in the overflow handler, and no
frame of the slot live. -/
structure TrapOk (s : State) (r : TrapReq) : Prop where
  failure : (s.task s.curTaskNum).failure = none
  overflow : (r.cause == 8 && s.inOverflowHandler) = false
  frame : ((s.tile s.here).trapFrames.getLsbD 0 && s.frameLive s.focus) = false

/-- What a trap that passes them does (R267, R272, R273): it enters its handler, or ends the task. -/
theorem takeTrap_eq (s : State) (e : Engine) (r : TrapReq) (h : s.TrapOk r) :
    s.takeTrap e r =
      if entersHandler r.cause && (s.tile s.here).trapBase.getLsbD 0 && (s.tile s.here).trapFrames.getLsbD 0 then
        (s.noteTrap e r).enterHandler e r
      else (s.noteTrap e r).faultTask s.curTaskNum (resultOf r.cause) ((s.noteTrap e r).trapRecord e r) := by
  unfold takeTrap
  simp only [h.failure, h.overflow, h.frame, Bool.false_eq_true, if_false]

/-- A trap that enters its handler. -/
theorem takeTrap_enters (s : State) (e : Engine) (r : TrapReq) (h : s.TrapOk r)
    (hc : (entersHandler r.cause && (s.tile s.here).trapBase.getLsbD 0 && (s.tile s.here).trapFrames.getLsbD 0) = true) :
    s.takeTrap e r = (s.noteTrap e r).enterHandler e r := by
  rw [s.takeTrap_eq e r h, if_pos hc]

/-- A trap that enters no handler ends the task. -/
theorem takeTrap_ends (s : State) (e : Engine) (r : TrapReq) (h : s.TrapOk r)
    (hc : (entersHandler r.cause && (s.tile s.here).trapBase.getLsbD 0 && (s.tile s.here).trapFrames.getLsbD 0) = false) :
    s.takeTrap e r = (s.noteTrap e r).faultTask s.curTaskNum (resultOf r.cause) ((s.noteTrap e r).trapRecord e r) := by
  rw [s.takeTrap_eq e r h, if_neg (by rw [hc]; decide)]

/-- A trap of a task with a posted failure ends the task with that failure (R470). -/
theorem takeTrap_failed (s : State) (e : Engine) (r : TrapReq) (c sub : Nat)
    (hf : (s.task s.curTaskNum).failure = some (c, sub)) : s.takeTrap e r = s.endTask s.curTaskNum (resultOf c) := by
  unfold takeTrap
  simp only [hf]

end State

end Sys2Proof.Machine
end

