-- ==== Sys2Proof/Laws/Words.lean ====
section
/-! SUPPORT. What a word's meaning answers, from the retirement or the trap that it ends in; and when the checks of an access of the
own slice pass (R64, R268, R370). -/

namespace Sys2Proof.Machine

/-- A meaning that retires at once from `b` completes from `b`. -/
theorem completes_of_retire {i : Instr} {s b : State} {d : Dest} {target : Option W32} {taint : Bool}
    (h : exec i s = b.retire (view i) true d target taint) (hs : b.maySignal (view i).engine (view i).q) (hb : b.branchFree (view i) d) :
    Completes i s b d := by
  have hd : d.direct true = true := by cases d <;> rfl
  obtain ⟨t, h1, h2, -, h3⟩ := b.retire_spec (view i) true d target taint (fun _ => hs) (fun e => by simp [hd] at e) hb
  exact ⟨t, by rw [h, h1], h2 hd, h3⟩

/-- A meaning that retires with its result still to come. -/
theorem completesLater_of_retire {i : Instr} {s b : State} {d : Dest} {target : Option W32} {taint : Bool}
    (h : exec i s = b.retire (view i) false d target taint) (hd : d.direct false = false → (view i).dest = d.ref)
    (hb : b.branchFree (view i) d) : CompletesLater i s b d := by
  obtain ⟨t, h1, -, h2, h3⟩ := b.retire_spec (view i) false d target taint (fun e => by simp at e) hd hb
  exact ⟨t, by rw [h, h1], h2 rfl, h3⟩

@[simp] theorem branchFree_none (s : State) (v : View) : s.branchFree v .none := fun _ _ h => by cases h
@[simp] theorem branchFree_s (s : State) (v : View) (r : BitVec 5) (x : W64) : s.branchFree v (.s r x) := fun _ _ h => by cases h
@[simp] theorem branchFree_v (s : State) (v : View) (r : BitVec 5) (x : VReg) : s.branchFree v (.v r x) := fun _ _ h => by cases h
@[simp] theorem branchFree_p (s : State) (v : View) (r : BitVec 3) (x : W64) : s.branchFree v (.p r x) := fun _ _ h => by cases h

/-- A check that passes leads on. -/
theorem checked_ok {α : Type} (s : State) (e : Engine) (a : α) (k : α → Outcome) : s.checked e (.ok a) k = k a := rfl

theorem require_ok (s : State) (e : Engine) (b : Bool) (r : TrapReq) (k : Outcome) (h : b = true) : s.require e b r k = k := by
  simp [State.require, h]

theorem require_trap (s : State) (e : Engine) (b : Bool) (r : TrapReq) (k : Outcome) (h : b = false) :
    s.require e b r k = .next (s.takeTrap e r) := by
  simp [State.require, h, State.trapWord]

theorem firstBad_ok (xs : List Elem) (bad : Elem → Bool) (mk : W64 → TrapReq) (h : ∀ x ∈ xs, bad x = false) :
    firstBad xs bad mk = .ok () := by
  have : xs.find? bad = none := by
    rw [List.find?_eq_none]
    intro x hx
    simp [h x hx]
  simp [firstBad, this]

/-- An IA of a slice of this package, by its chip-local part. -/
theorem inSlice_local (s : State) (k ia : Nat) (hk : k < 512) (h : s.inSlice k ia = true) :
    chipOf ia = s.chip ∧ localOf ia = ia - 2 ^ 47 * s.chip ∧ 0x100000 * k ≤ localOf ia ∧ localOf ia < 0x100000 * k + 0x100000 := by
  have hc : s.chip < 512 := by
    have : s.chip < 2 ^ 9 := Nat.mod_lt _ (by decide)
    omega
  have h := of_decide_eq_true h
  unfold State.sliceBase at h
  unfold chipOf localOf
  have hd : ia / 2 ^ 47 = s.chip := by omega
  omega

/-- Translation gives addresses that a region holds. -/
theorem iaOf_region (s : State) (e : Engine) (va : W64) (n : Nat) (write : Bool) (a : Nat) (h : s.iaOf e va n write = some a) :
    (s.regionOf a).isSome = true := by
  unfold State.iaOf State.ia at h
  simp only at h
  split at h
  · split at h
    · rename_i hc
      cases h
      exact hc.2.2.2.1
    · cases h
  · split at h
    · rename_i x y hx hy
      split at h
      · cases h
        unfold State.userByte at hx
        split at hx
        · cases hx
        · cases hr : rangeOf (s.cur.rangesAt (s.cur.walk e)) va.toNat with
          | none => rw [hr] at hx; cases hx
          | some r =>
            rw [hr] at hx
            simp only [Option.bind_some] at hx
            split at hx
            · cases hx
            · split at hx
              · split at hx
                · cases hx
                · rename_i hreg
                  cases hx
                  exact Option.isSome_iff_exists.mpr ⟨_, hreg⟩
                · cases hx
              · cases hx
      · cases h
    · cases h

/-- A translated access of the own slice lies in the slice region. -/
theorem inSlice_region (s : State) (k : Nat) (e : Engine) (va : W64) (n : Nat) (write : Bool) (a : Nat) (hk : k < 512)
    (ht : s.iaOf e va n write = some a) (h : s.inSlice k a = true) : s.regionOf a = some .slice := by
  have hr := iaOf_region s e va n write a ht
  obtain ⟨hc, -, h1, h2⟩ := inSlice_local s k a hk h
  unfold State.regionOf at *
  rw [if_pos hc] at *
  unfold State.region at *
  split
  · rfl
  · rename_i h3
    rw [if_neg h3, if_neg (by omega), if_neg (by omega), if_neg (by omega), if_neg (by omega)] at hr
    cases hr

theorem translateAll_ok (s : State) (e : Engine) (write : Bool) (els : List (W64 × Nat)) (f : W64 × Nat → Nat)
    (h : ∀ x ∈ els, s.iaOf e x.1 x.2 write = some (f x)) :
    s.translateAll e write els = .ok (els.map fun x => ⟨x.1, f x, x.2⟩) := by
  induction els with
  | nil => rfl
  | cons x xs ih =>
    obtain ⟨va, n⟩ := x
    simp only [State.translateAll, h (va, n) (by simp), ih fun y hy => h y (by simp [hy])]
    rfl

/-- Accesses of the own slice pass the checks of R370. -/
theorem checkMem_own (s : State) (e : Engine) (loc write : Bool) (els : List (W64 × Nat)) (f : W64 × Nat → Nat)
    (h : ∀ x ∈ els, s.OwnAccess e x.1 x.2 write (f x)) :
    s.checkMem e loc write els = .ok (els.map fun x => ⟨x.1, f x, x.2⟩) := by
  have ht := translateAll_ok s e write els f fun x hx => (h x hx).translates
  have all (bad : Elem → Bool) (hb : ∀ x ∈ els, bad ⟨x.1, f x, x.2⟩ = false) (mk : W64 → TrapReq) :
      firstBad (els.map fun x => (⟨x.1, f x, x.2⟩ : Elem)) bad mk = .ok () :=
    firstBad_ok _ _ _ fun y hy => by
      obtain ⟨x, hx, rfl⟩ := List.mem_map.mp hy
      exact hb x hx
  unfold State.checkMem
  rw [ht]
  show (do
    firstBad _ _ _
    firstBad _ _ _
    firstBad _ _ _
    firstBad _ _ _
    firstBad _ _ _
    Except.ok _ : Except TrapReq (List Elem)) = _
  rw [all, all, all, all, all]
  · rfl
  · intro x hx
    have h := (h x hx).ring
    cases hw : write
    · rfl
    · simp [h hw]
  · intro x hx
    have := (h x hx).live
    simp only [State.cur] at *
    rcases this with h | h <;> simp [h]
  · intro x hx
    have := (h x hx).window
    cases hw : write
    · rfl
    · simp [this hw]
  · intro x hx
    have hk : s.here < 512 := by
      have := (h x hx).slot
      unfold State.here
      omega
    simp [State.leased, inSlice_region s _ e _ _ write _ hk (h x hx).translates (h x hx).first]
  · intro x hx
    simp [(h x hx).first, (h x hx).last]

end Sys2Proof.Machine
end

