-- ==== Sys2Proof/Tests/Slice0.lean ====
section
/-! SUPPORT. The model's own tests: expected results come from the tables and worked examples of the spec. The theorems
witness_… show, for each statement of Certificates/Slice0/Obligations.lean with hypotheses, states and operands that meet them
together, clause by clause, at the limits of their ranges. -/

namespace Sys2Proof.Tests

set_option Elab.async false

open Sys2Proof Sys2Proof.Machine

/-! Small states. -/

/-- A strand in slot 0 of tile 0 at word 0, one token in each queue, its slice at VA 0. -/
def small : State := State.reset.withFetchWord 32 0

def reg (r : BitVec 5) (v : W64) (s : State) : State := s.modCur fun t => t.setS r v
def vec (r : BitVec 5) (v : VReg) (s : State) : State := s.modCur fun t => t.setV r v
def pred (r : BitVec 3) (v : W64) (s : State) : State := s.modCur fun t => t.setP r v
def branch (r : BitVec 3) (v : W64) (s : State) : State := s.modCur fun t => t.setB r v
def tokens (n : Nat) (s : State) : State := s.modCur fun t => { t with tokens := Vector.replicate 8 n }
def supervisor (s : State) : State := s.modCur fun t => { t with super := true }
def bytes (a n x : Nat) (s : State) : State := s.store a (toBytes n x)
def onTile (f : Tile → Tile) (s : State) : State := s.modTile 0 f

theorem may {s : State} {e : Engine} {q : BitVec 4}
    (h : ((s.cur.takeTokens e q).signal e (q.getLsbD 1) (q.getLsbD 0)).isSome = true) : s.maySignal e q := Or.inr h

/-- The state that a step answers. -/
def nextOf (o : Host.Outcome State Fault Refusal) : State :=
  match o with
  | .next t => t
  | .fault _ => State.reset
  | .refused _ => State.reset

theorem witness_SimpleScalarWordsWriteTheirResults :
    small.maySignal .s 0xF ∧
    [.add ⟨15, 5, false, 6, false, 7⟩, .sub default, .andW default, .orW default, .xorW default, .shl default, .shrl default,
      .shra default, .minW default, .minu default, .maxW default, .maxu default, .clz default, .popc default, .sel default,
      .addi default, .andi default, .ori default, .xori default, .shli ⟨0, 1, false, 2, 63⟩, .movi 0 5 7, .movhi default,
      .lea 0 1 false 2 3, .bfx ⟨0, 1, false, 2, 32, 31⟩, .bfi ⟨0, 1, false, 2, 0, 63⟩, .rdcyc 0 1, .rdfrm 0 1].all
      (fun i => (small.simpleResult i).isSome) = true := ⟨may (by decide), by decide⟩

theorem witness_CompareWritesAPredicate :
    (5#3).toNat < 6 ∧ 6 ≤ (6#3).toNat ∧ small.maySignal .s 0 := ⟨by decide, by decide, may (by decide)⟩

theorem witness_BitFieldWordsMoveTheirField :
    small.maySignal .s 0 ∧ (32#6).toNat + ((31#6).toNat + 1) ≤ 64 ∧ 64 < (33#6).toNat + ((31#6).toNat + 1) :=
  ⟨may (by decide), by decide, by decide⟩

theorem witness_SlowScalarWordsFinishLater :
    small.maySignal .s 0 ∧
    [.mul ⟨15, 5, false, 6, false, 7⟩, .mulh default, .mulhu default, .div default, .divu default, .rem default, .remu default,
      .getc 0 1 0x013, .perfrd 0 1 0].all (fun i => (small.slowResult i).isSome) = true := ⟨may (by decide), by decide⟩

/-- A b register with LOOP set, a LEN and a TARGET. -/
def loopTo (len target : Nat) : W64 := BitVec.ofNat 64 (2 ^ 63 + 2 ^ 32 * len + target)

theorem witness_OperandLimitsTrap :
    64 ≤ (64#9).toNat ∧ 256 ≤ (256#9).toNat ∧ ctlAssigned 0x1FF = false ∧
    ((branch 3 (loopTo 4 100) small).cur.breg 3).getLsbD 63 = true ∧ (small.cur.preg 0).getLsbD 0 ≠ false := by decide

theorem witness_TokensMoveAroundTheRing :
    small.cur.flights = [] ∧ (∀ k : Fin 8, small.cur.tokens[k] < 8) ∧ (511#9 ≠ 0) ∧
    [(Engine.s, 2#4), (.l, 1#4), (.a, 3#4), (.w, 2#4)].all (fun x =>
      (((tokens 8 small).cur.takeTokens x.1 x.2).signal x.1 (x.2.getLsbD 1) (x.2.getLsbD 0)).isNone) = true := by decide

theorem witness_BranchTargetsArePrepared :
    (small.cur.breg 2).getLsbD 63 = false ∧ small.maySignal .s 0 := ⟨by decide, may (by decide)⟩

theorem witness_BranchesPostTheirOutcome :
    let s := branch 1 (loopTo 4 100) small
    s.maySignal .s 0 ∧ s.cur.closingLoops (s.cur.pc .s) = [] ∧
    ((s.cur.preg 0).getLsbD 0 ≠ false ∧ (s.cur.breg 2).getLsbD 63 = false ∧ (s.cur.breg 1).getLsbD 63 = true ∧
      ((s.cur.breg 2).setWidth 32 : W32) < (s.cur.breg 1).setWidth 32) ∧
    (s.cur.preg 0).getLsbD 0 = true := ⟨may (by decide), by decide⟩

theorem witness_LoopsRun :
    let four := branch 1 (loopTo 9 0) (branch 2 (loopTo 9 0) (branch 3 (loopTo 9 0) (branch 4 (loopTo 9 0) small)))
    let inner := branch 1 (loopTo 6 0) small
    let outer := branch 1 (loopTo 7 0) small
    let closes := branch 2 (loopTo 1 0) small
    (4 ≤ (four.cur.otherLoops 0).length ∧ (four.cur.breg 0).getLsbD 63 = false) ∧
    ((1 : BitVec 3) ∈ inner.cur.otherLoops 0 ∧ ((inner.cur.breg 1).setWidth 32 : W32).toNat + bLen (inner.cur.breg 1) < 2 + (5#16).toNat) ∧
    (outer.cur.otherLoops 0 = [1] ∧ ¬ ((outer.cur.breg 1).setWidth 32 : W32).toNat + bLen (outer.cur.breg 1) < 2 + (5#16).toNat ∧
      outer.cur.closingLoops (outer.cur.pc .s + 1) = [] ∧ outer.cur.sreg 9 = 0 ∧ (reg 9 1 outer).cur.sreg 9 ≠ 0) ∧
    (closes.cur.closingLoops (closes.cur.pc .s) = [2] ∧ closes.cur.isFull (.s (smallAt closes.cur.loopRegs 2)) = true ∧
      (reg 0 1 closes).cur.sreg (smallAt closes.cur.loopRegs 2) - 1 = 0 ∧ (reg 0 2 closes).cur.sreg (smallAt closes.cur.loopRegs 2) - 1 ≠ 0) ∧
    outer.maySignal .s 0 ∧ closes.maySignal .s 0 :=
  ⟨by decide, by decide, by decide, by decide, may (by decide), may (by decide)⟩

theorem witness_LiveSetIsWrittenInProgramOrder :
    small.maySignal .s 0 ∧ small.cur.leastWalk ≤ small.cur.walk .s ∧ small.cur.walk .s < 1 :=
  ⟨may (by decide), by decide, by decide⟩

/-- A queue control word of 32 bytes. -/
def qcw (base depth elem kind valid head tail : Nat) : Nat :=
  base + 2 ^ 64 * depth + 2 ^ 96 * elem + 2 ^ 112 * kind + 2 ^ 120 * valid + 2 ^ 128 * head + 2 ^ 160 * tail

/-- Entry i of tile 0's table set. -/
def queue (i q : Nat) (s : State) : State := bytes (qcwTable 0 i) 32 q s

/-- Handlers installed on tile 0, frames at 0x40000 of its slice. -/
def handlers (s : State) : State := onTile (fun t => { t with trapBase := 1, trapFrames := 0x40001 }) s

/-- A command of tile 0 with a KIND, given to its queue 0. -/
def command (engine kind : Nat) (state : CmdState) (total : Nat) : Cmd :=
  { seq := 3, engine := engine, queue := 0, task := 0, rank := 0, slot := 0, super := false
    bytes := BitVec.ofNat 8 kind :: List.replicate 127 0, ranges := Vector.replicate 16 {}, state := state, progress := 0
    extent := [], eligibleAt := none, waits := [], slackZero := false, missed := false, wordIndex := 0
    work := { total := total } }

def commands (cs : List Cmd) (s : State) : State := onTile (fun t => { t with cmds := cs, cmdNext := 4 }) s

def departing : Departure :=
  { engine := .s, walk := 0, reason := 0xA, key := 0, dep := 0, dest := none, past := true, len := 1, sends := [], vas := [], q := 0 }

/-- The other engines have stepped over the word at which S departs. -/
def departed (s : State) : State :=
  s.modCur fun t => { t with departing := some departing, walks := #v[0, 1, 1, 1], pcs := #v[0, 1, 1, 1] }

def saved (cause : Nat) (s : State) : TrapSave :=
  { engine := .a, block := s.cur.block, pcs := s.cur.pcs, tokens := s.cur.tokens, cause := cause, sub := 0, frame := 0x40000
    after := false, detail := [], snapshot := none, flights := [] }

/-- The strand runs the handler of a cause. -/
def inHandler (cause : Nat) (s : State) : State :=
  (handlers s).modCur fun t => { t with super := true, trapSave := some (saved cause s) }

theorem witness_WordsThatDepart :
    small.cur.super = false ∧ (supervisor small).cur.super = true ∧ small.quiescent small.here 0 small.cur.rank = true ∧
    (commands [command 1 4 .running 8] small).quiescent small.here 0 small.cur.rank = false ∧ small.maySignal .s 0 :=
  ⟨by decide, by decide, by decide, by decide, may (by decide)⟩

theorem witness_EndEndsItsStrand :
    small.cur.task = some 0 ∧ small.cur.super = false ∧ small.cur.snapshot = none ∧ (small.task 0).gang ≤ 1 ∧ (small.task 0).state = .running ∧
    (inHandler 0xC small).cur.task = some 0 ∧ (inHandler 0xC small).cur.super = true := by decide

theorem witness_IdemTakesASnapshot :
    let need := (small.contBytes 0 0 small.cur.livemask 0 []).length / 64 + small.cur.block.granules
    let room (n : Nat) := queue 28 (qcw 0x20000 n 64 2 1 0 0) small
    small.cur.snapshot = none ∧ (room (need - 1)).contFree 0 < need ∧ (room need).contFree 0 = need ∧ (room need).maySignal .s 0 :=
  ⟨by decide, by decide +kernel, by decide +kernel, may (by decide)⟩

theorem witness_SoftwareTrapsRetireFirst :
    small.cur.closingLoops (small.cur.pc .s) = [] ∧ ((small.cur.takeTokens .s 0).signal .s false false).isSome = true ∧
    (255#9).toNat < 256 ∧ (small.tile small.here).bkptStop = false ∧
    ((onTile (fun t => { t with bkptStop := true }) small).tile small.here).bkptStop = true := by decide

theorem witness_TrapsAreTaken :
    let s := handlers small
    (s.task (s.cur.task.getD 0)).failure = none ∧ s.frameLive s.focus = false ∧ s.inOverflowHandler = false ∧ 0xC ∈ [1, 2, 5, 8, 0xB, 0xC, 0xD] ∧
    (s.tile s.here).trapBase.getLsbD 0 = true ∧ (s.tile s.here).trapFrames.getLsbD 0 = true ∧ s.cur.task = some 0 ∧
    4 ∉ [1, 2, 5, 8, 0xB, 0xC, 0xD] ∧ (small.tile small.here).trapBase.getLsbD 0 = false ∧
    ((onTile (fun t => { t with trapFrames := 0 }) s).tile s.here).trapFrames.getLsbD 0 = false ∧
    (bytes (0x40000 + 0x14) 1 2 s).frameLive 0 = true ∧ (inHandler 8 small).inOverflowHandler = true ∧ (1 ≠ 8) := by decide +kernel

theorem witness_SecondOverflowIsAPackageError :
    let s := departed (inHandler 8 small)
    (s.focus = 0 ∧ s.cur.departing = some departing ∧ s.commitsNow 0 = true ∧ s.commitTurn 0 = true ∧
      s.cur.trapSave = some (saved 8 small) ∧ (saved 8 small).cause = 8 ∧ (s.task (s.cur.task.getD 0)).failure = none) ∧
    (s.modCur fun t => t.landAll).contFree 0 < (s.modCur fun t => t.landAll).departNeeds departing :=
  ⟨by decide, by decide +kernel⟩

theorem witness_ReturnFromTrapRestoresTheFrame :
    let window (n : Nat) := bytes (0x40000 + 0x1C) 4 n (inHandler 0xC small)
    let posted := { window 16 with msgs := [⟨0, (window 16).originNow, .store 0 [0]⟩] }
    small.cur.super = false ∧ (window 16).cur.super = true ∧ (window 16).outstanding 0 0 = false ∧ posted.outstanding 0 0 = true ∧
    (window 16).cur.trapSave = some (saved 0xC small) ∧
    [16, 1024].all (fun n => fieldAt ((window n).readLocal 0x40000 0x21C0) 0x1C 4 % 2 ^ 11 == n &&
      fieldAt ((window n).readLocal 0x40000 0x21C0) 0x14 1 % 2 == 0) = true ∧
    [15, 1025].all (fun n => fieldAt ((window n).readLocal 0x40000 0x21C0) 0x1C 4 % 2 ^ 11 == n) = true := by decide +kernel

theorem witness_TrapAndReturnRestoreTheStrand :
    let s := handlers small
    (Memory.wf s.mem = true ∧ s.focus < 4096 ∧ (s.task (s.cur.task.getD 0)).failure = none ∧ s.frameLive s.focus = false ∧ s.cur.super = false ∧
      0xC ∈ [1, 2, 5, 8, 0xB, 0xC, 0xD] ∧ (s.tile s.here).trapBase.getLsbD 0 = true ∧ (s.tile s.here).trapFrames.getLsbD 0 = true ∧
      wfield (s.tile s.here).trapFrames 6 14 * 64 + 110592 ≤ 0xFFE00 ∧ 16 ≤ s.cur.window.toNat ∧ s.cur.window.toNat ≤ 1024) ∧
    (s.takeTrap .s { cause := 0xC, sub := 7 }).outstanding (s.cur.task.getD 0) s.cur.rank = false := by
  refine ⟨by decide +kernel, ?_⟩
  rw [State.takeTrap_enters _ _ _ ⟨by decide, by decide, by decide +kernel⟩ (by decide)]
  obtain ⟨m, h⟩ := ((handlers small).noteTrap .s { cause := 0xC, sub := 7 }).enterHandler_eq .s { cause := 0xC, sub := 7 }
  rw [h]
  rfl

/-- Every slice of the package at VA 0, and package 1's slices from VA 0x40000000. -/
def wide (s : State) : State :=
  (s.modCur fun t => { t with ranges := (t.ranges.set 0 ⟨3, 0x1FFF0000, 0⟩).set 1 ⟨0x40000003, 0x5FFF0000, 0x7FFFC0000000⟩ }).modPkg fun p =>
    { p with coord := 0x8000 }

theorem witness_ControlRegistersAtUserLevel :
    small.maySignal .s 0 ∧ 16 ≤ wfield 16 0 11 ∧ wfield 1024 0 11 ≤ 1024 ∧ wfield 0xFF 0 8 ≠ 0 ∧ wfield 2 0 2 ≠ 3 ∧
    0x013 ∈ [0x013, 0x040, 0x041, 0x042, 0x043, 0x044, 0x045, 0x047, 0x062, 0x063, 0x064, 0x065, 0x070] :=
  ⟨may (by decide +kernel), by decide +kernel⟩

theorem witness_ControlRegistersAtSupervisorLevel :
    let s := supervisor small
    s.cur.super = true ∧ small.cur.super = false ∧ s.maySignal .s 0 ∧
    (1024 ≤ wfield 1024 0 32 ∧ wfield 1 0 16 ≠ 0 ∧ 500 ≤ wfield 500 0 16 ∧ (0xFFFFFFFFFFFFFD#64 &&& 0xFF00000000000002 = 0) ∧
      s.trapFramesOk s.here 0xE4E01 = true ∧ (wfield 0x5000 11 5 = 0 ∨ 10 ≤ wfield 0x5000 11 5) ∧
      (0xFFFFFFFFFFFFC1#64 &&& 0xFF0000000000003E = 0) ∧ (0x1FFFFFFFFFF0003#64 &&& 0xFE0000000000FFFC = 0) ∧
      (0x1FFFFFFFFFF0000#64 &&& 0xFE0000000000FFFF = 0) ∧ (0xFFFFFFFFFF0000#64 &&& 0xFF0000000000FFFF = 0)) ∧
    (ctlSuper 0x010 = true ∧ 0x010 < 512 ∧ wfield 15 0 11 < 16 ∧ 1024 < wfield 1025 0 11 ∧ wfield 0x100 0 8 = 0 ∧ wfield 3 0 2 = 3 ∧
      wfield 1023 0 32 < 1024 ∧ wfield 0x10000 0 16 = 0 ∧ wfield 499 0 16 < 500 ∧ (2#64 &&& 0xFF00000000000002 ≠ 0) ∧
      s.trapFramesOk s.here 0xE4E41 = false ∧ 0 < wfield 0x4800 11 5 ∧ wfield 0x4800 11 5 < 10 ∧
      (2#64 &&& 0xFF0000000000003E ≠ 0) ∧ (4#64 &&& 0xFE0000000000FFFC ≠ 0) ∧ (1#64 &&& 0xFE0000000000FFFF ≠ 0) ∧
      (1#64 &&& 0xFF0000000000FFFF ≠ 0) ∧ (1#64 ≠ 0)) :=
  ⟨by decide +kernel, by decide +kernel, may (by decide +kernel), by decide +kernel, by decide +kernel⟩

theorem witness_MarksAndHintsAreTaken :
    let block := 2 + 2 ^ 64 * (7 + 2 ^ 32 * 5) + 2 ^ 128 * (9 + 2 ^ 32 * 6)
    let s := reg 1 0x4000 (reg 2 0xFFFF (bytes 0x4000 24 block small))
    let traces := onTile (fun t => { t with traceBase := 1, traceCtl := 2 }) small
    ((small.tile small.here).traceCtl.getLsbD 1 = false ∧ small.maySignal .s 0 ∧ (traces.tile traces.here).traceCtl.getLsbD 1 = true ∧
      (traces.tile traces.here).traceBase.getLsbD 0 = true ∧ (traces.tile traces.here).traceRoom = true ∧ traces.here < 512 ∧ traces.chip < 512) ∧
    (0x10000#64).toNat / 2 ^ 16 ≠ 0 ∧
    ((s.cur.sreg 2).toNat / 2 ^ 16 = 0 ∧ s.iaOf .s (s.cur.sreg 1) 8 false = some 0x4000 ∧ s.readNum 0x4000 2 = 2 ∧
      s.iaOf .s (s.cur.sreg 1) (8 + 8 * 2) false = some 0x4000 ∧ s.inSlice s.here 0x4000 = true ∧ s.inSlice s.here 0x4007 = true ∧
      s.inSlice s.here (0x4000 + (8 + 8 * 2) - 1) = true ∧ s.uncorrectable 0x4000 8 = none ∧ s.uncorrectable 0x4000 (8 + 8 * 2) = none ∧
      0x4000 % 8 = 0 ∧ 2 ≤ 256 ∧ s.readNum 0x4002 6 = 0 ∧ (∀ e < 2, fieldAt (s.readIA 0x4008 16) (8 * e + 2) 2 = 0) ∧
      s.pendingShadow 0x4000 (8 + 8 * 2) = false) ∧ s.maySignal .s 0 :=
  ⟨⟨by decide +kernel, may (by decide +kernel), by decide +kernel⟩, by decide +kernel, by decide +kernel, may (by decide +kernel)⟩

theorem witness_TaskWordsReachTheController :
    let record (gang deps : Nat) := wide (reg 1 0x4000 (bytes 0x4000 16 (2 ^ 56 * gang + 2 ^ 64 * deps) small))
    let s := record 1 0
    (s.iaOf .s (s.cur.sreg 1) 256 false = some 0x4000 ∧ s.inSlice s.here 0x4000 = true ∧ s.inSlice s.here (0x4000 + 255) = true ∧
      s.uncorrectable 0x4000 256 = none ∧ recordOk (s.readIA 0x4000 256) = true ∧ recordOk ((record 0 0).readIA 0x4000 256) = false ∧
      fieldAt ((record 64 1).readIA 0x4000 256) 8 4 = 1) ∧
    (s.iaOf .s (s.cur.sreg 1) 1 true = some 0x4000 ∧ chipOf 0x4000 = s.chip ∧
      (reg 1 0x40004000 s).iaOf .s 0x40004000 1 true = some 0x800000004000 ∧ chipOf 0x800000004000 ≠ s.chip ∧
      (reg 1 0x4001 s).iaOf .s 0x4001 1 true = some 0x4001 ∧ 0x4001 % 64 ≠ 0) ∧
    (s.cur.sreg 0 = BitVec.ofNat 64 s.chip ∧ s.inDomain s.chip = true ∧ s.chip ≤ 511 ∧ s.pendingShadow 0x4000 256 = false ∧
      s.toDispatch = [] ∧ s.inDomain 2 = false ∧ 511 < (512#64).toNat) ∧ s.maySignal .s 0 :=
  ⟨by decide +kernel, by decide +kernel, by decide +kernel, may (by decide +kernel)⟩

theorem witness_EngineCommandsAreAccepted :
    let s (kind depth : Nat) := reg 1 0x4000 (queue 0 (qcw 0x20000 depth 128 1 1 0 1) (bytes 0x4000 128 kind small))
    (7 ≤ (7#4).toNat ∧ (small.tileQcw small.here 0).valid = false) ∧
    ((s 1 2).tileQcw 0 0).valid = true ∧
    ((s 1 2).iaOf .s 0x4000 128 false = some 0x4000 ∧ (s 1 2).inSlice 0 0x4000 = true ∧ (s 1 2).inSlice 0 (0x4000 + 127) = true ∧
      (s 1 2).uncorrectable 0x4000 128 = none ∧ (s 1 2).cur.super = false) ∧
    (fieldAt ((s 0xA 2).readIA 0x4000 128) 0 1 = 0xA ∧ fieldAt ((s 4 2).readIA 0x4000 128) 0 1 ≠ 0xA ∧
      headerOk 0 ((s 4 2).readIA 0x4000 128) = false ∧ fieldAt ((s 1 2).readIA 0x4000 128) 0 1 ≠ 0xA ∧
      headerOk 0 ((s 1 2).readIA 0x4000 128) = true) ∧
    (((s 1 1).tileQcw 0 0).occupancy = ((s 1 1).tileQcw 0 0).depth ∧ (s 1 1).cur.ecmdSince = none) ∧
    (((s 1 2).tileQcw 0 0).occupancy ≠ ((s 1 2).tileQcw 0 0).depth ∧ (s 1 2).pendingShadow 0x4000 128 = false ∧
      (s 1 2).cur.isTainted (.s 1) = false) ∧ (s 1 2).maySignal .s 0 :=
  ⟨by decide +kernel, by decide +kernel, by decide +kernel, by decide +kernel, by decide +kernel, by decide +kernel, may (by decide +kernel)⟩

theorem witness_IntegerLanesWrap : (2#3).toNat < 3 ∧ 6 ≤ (6#3).toNat := by decide +kernel

theorem witness_UntypedLanesMoveBits : (63#9).toNat < 64 := by decide +kernel

/-- A vector whose lane 0 holds x and whose other lanes hold y. -/
def lanes (x y : W32) : VReg := (Vector.replicate 64 y).set 0 x

theorem witness_LaneComparesAndExtracts :
    let s := vec 1 (lanes 0x7FC00000 0x3F800000) (vec 2 (lanes 0x3F800000 0x3F800001) small)
    let u := vec 1 (lanes 0x7F800001 0x3F800000) s
    let num (s : State) (r : BitVec 5) (l : Nat) := readFp Fp.fp32 (element (.fp Fp.fp32) (lane (s.cur.vreg r) l))
    ((5#3).toNat < 6 ∧ (2#3).toNat < 3 ∧ (1#3 ≠ 0) ∧ 6 ≤ (6#3).toNat ∧ (4 ≤ (4#3).toNat ∧ 3 ≤ (3#3).toNat) ∧ (63#9).toNat < 64) ∧
    ((3#3).toNat < 4 ∧ (typeFp 3#3).isSome = true ∧ (typeFp 4#3).isSome = true ∧ typeFp 5#3 = some Fp.fp32) ∧
    ((num s 1 0).isNan = true ∧ (num s 1 0).isSig = false ∧ (num s 1 1).isNan = false ∧ (num s 2 1).isNan = false ∧ (num u 1 0).isSig = true) := by
  decide +kernel

theorem witness_FloatLanesRoundOnce :
    let s := vec 1 (lanes 0x7FC00000 0x3F800000) (vec 2 (lanes 0x3F800000 0x7F800001) small)
    let a (l : Nat) := readFp Fp.fp32 (element (.fp Fp.fp32) (lane (s.cur.vreg 1) l))
    let b (l : Nat) := readFp Fp.fp32 (element (.fp Fp.fp32) (lane (s.cur.vreg 2) l))
    (typeFp 3#3).isSome = true ∧ (typeFp 4#3).isSome = true ∧ typeFp 5#3 = some Fp.fp32 ∧ (a 0).isNan = true ∧ (b 0).isNan = false ∧
    (a 1).isNan = false ∧ (b 1).isNan = true := by decide +kernel

theorem witness_FunctionLanesGiveTheirSpecialResults :
    typeFp 5#3 = some Fp.fp32 ∧ typeFp 2#3 = none ∧ (3#5).toNat < 4 ∧ 4 ≤ (4#5).toNat ∧
    (readFp Fp.fp32 0x7FC00000).isNan = true ∧ readFp Fp.fp32 0x7F800000 = .inf false ∧ readFp Fp.fp32 0xFF800000 = .inf true ∧
    (match readFp Fp.fp32 0x80000000 with | .fin true 0 _ => true | _ => false) = true ∧
    (match readFp Fp.fp32 0xBF800000 with | .fin true k _ => k != 0 | _ => false) = true ∧
    (match readFp Fp.fp32 0x4B800000 with | .fin _ _ e => decide (0 ≤ e) | _ => false) = true := by decide +kernel

/-- The facts of an access of the own slice, each decided. -/
def own (s : State) (e : Engine) (va : W64) (n : Nat) (write : Bool) (a : Nat) : Bool :=
  decide (s.focus < 4096) && ((e != .l || s.cur.partL.isEmpty) && (e != .w || s.cur.partW == 0)) && s.iaOf e va n write == some a && s.inSlice s.here a && s.inSlice s.here (a + n - 1) &&
    (!write || !touchesWindow (localOf a) n) && (s.cur.super || !touches (s.liveRegions s.here) (localOf a) n) &&
    (!write || !s.inFilledSlot s.here (localOf a) n) && (s.uncorrectable a n).isNone

theorem own_ok {s : State} {e : Engine} {va : W64} {n : Nat} {write : Bool} {a : Nat} (h : own s e va n write a = true) :
    s.OwnAccess e va n write a := by
  simp only [own, Bool.and_eq_true, Bool.or_eq_true, Bool.not_eq_true', decide_eq_true_eq, beq_iff_eq, Option.isNone_iff_eq_none] at h
  obtain ⟨⟨⟨⟨⟨⟨⟨⟨h1, p⟩, h2⟩, h3⟩, h4⟩, h5⟩, h6⟩, h7⟩, h8⟩ := h
  refine ⟨h1, ⟨fun w => ?_, fun w => ?_⟩, h2, h3, h4, fun w => ?_, h6, fun w => ?_, h8⟩ <;> subst w <;> simp_all

theorem ownLanes_ok {s : State} {e : Engine} {va : Nat → W64} {write : Bool} {a : Nat → Nat}
    (h : (List.range 64).all (fun l => own s e (va l) 4 write (a l)) = true) : s.OwnLanes e va write a :=
  fun l hl => own_ok (List.all_eq_true.mp h l (List.mem_range.mpr hl))

/-- The checks of an access pass with these elements. -/
def passes (s : State) (e : Engine) (write : Bool) (els : List (W64 × Nat)) (xs : List Elem) : Bool :=
  match s.checkMem e false write els with
  | .ok ys => ys == xs
  | .error _ => false

theorem passes_ok {s : State} {e : Engine} {write : Bool} {els : List (W64 × Nat)} {xs : List Elem}
    (h : passes s e write els xs = true) : s.checkMem e false write els = .ok xs := by
  unfold passes at h
  split at h
  · rename_i ys hy
    rw [hy, eq_of_beq h]
  · cases h

theorem witness_ConversionsAndRandomLanes :
    let s (fmt : Nat) := reg 2 0x4000 (bytes 0x4000 16 fmt small)
    ((6#3).toNat ≤ 6 ∧ (5#3).toNat < 6 ∧ ((s 2).cur.sreg 2).toNat % 16 = 0 ∧ ((reg 2 0x4008 (s 2)).cur.sreg 2).toNat % 16 ≠ 0 ∧
      (1#4 ++ 0#1 : BitVec 5) = 2) ∧
    [0x00, 0x0C, 0x12, 0x18].all (fun f => (Tpr.parse ((s f).readIA 0x4000 16)).any (·.fmt == f)) = true ∧
    (Tpr.parse ((s 0x1F).readIA 0x4000 16) = none ∧ 0x12 ∉ [0x00, 0x01, 0x02, 0x08, 0x09, 0x0A, 0x0B, 0x0C] ∧ (bfpOfCode 0x12).isSome = true ∧
      (bfpOfCode 0x18).isSome = true ∧ (6 ≤ (6#3).toNat)) ∧
    (Tpr.parse ((s 2).readIA 0x4000 16)).any (fun p => !p.stoch) = true ∧
    (s 2).OwnAccess .a ((s 2).cur.sreg 2) 16 false 0x4000 :=
  ⟨by decide +kernel, by decide +kernel, by decide +kernel, by decide +kernel, own_ok (by decide +kernel)⟩

theorem witness_ReductionsCombineAllLanes :
    (2#3).toNat < 3 ∧ (5#3).toNat < 6 ∧ (2#5).toNat < 3 ∧ 6 < (7#5).toNat ∧ ((6#5).toNat = 6 ∧ (1#3).toNat < 2) ∧
    (3 ≤ (3#5).toNat ∧ (3#5).toNat < 6 ∧ 3 ≤ (3#3).toNat) := by decide

theorem witness_ExactSumsIgnoreOrder : List.Perm [1, 2, 3] [3, 1, 2] := by decide

theorem witness_AccumulatorWordsComplete :
    let s := reg 1 0x4000 (reg 2 0x4001 (reg 3 4032 (reg 4 4033 (reg 5 0x1FFFF (reg 6 0x20000 (reg 7 4095 (reg 8 4096 small)))))))
    (s.OwnAccess .a (s.cur.sreg 1) 64 true 0x4000 ∧ s.OwnAccess .a (s.cur.sreg 1) 64 false 0x4000 ∧
      s.OwnAccess .w (s.cur.sreg 1) 64 true 0x4000) ∧
    ((s.cur.sreg 1).toNat % 64 = 0 ∧ (s.cur.sreg 2).toNat % 64 ≠ 0 ∧ 2 ≤ (2#3).toNat ∧ (1#3).toNat < 2 ∧
      [2#3, 3#3, 4#3, 5#3].all (fun t => (typeFmt t).isSome) = true ∧ (typeFp 3#3).isSome = true ∧
      [0, 1, 2, 3, 4].all (fun f => (xaddValue f 1).isSome) = true ∧ (4#3).toNat < 5 ∧ 5 ≤ (5#3).toNat ∧
      s.cur.anyTaint (view (.amoXadd ⟨0, false, 1, false, 2, 4⟩)) = false ∧
      s.releaseHeld (s.cur.task.getD 0) s.cur.rank = false) ∧
    s.maySignal .w 0 ∧
    ((s.cur.sreg 3).toNat ≤ 4032 ∧ 4032 < (s.cur.sreg 4).toNat ∧ (s.cur.sreg 5).toNat / 2 ^ 17 = 0 ∧ (s.cur.sreg 5).getLsbD 16 = true ∧
      (s.cur.sreg 3).getLsbD 16 = false ∧ (s.cur.sreg 6).toNat / 2 ^ 17 ≠ 0) ∧
    ((s.cur.sreg 7).toNat ≤ 4095 ∧ 1 ≤ 4096 - (s.cur.sreg 7).toNat ∧ 4095 < (s.cur.sreg 8).toNat ∧ 4096 - (s.cur.sreg 7).toNat < 2) :=
  ⟨⟨own_ok (by decide +kernel), own_ok (by decide +kernel), own_ok (by decide +kernel)⟩, by decide +kernel, may (by decide),
    by decide +kernel, by decide +kernel⟩

theorem witness_LocalLoadsReadTheirBytes :
    let s := reg 1 0x4000 (reg 2 8 small)
    s.OwnAccess .l (s.cur.sreg 1 + (511#9).signExtend 64 * BitVec.ofNat 64 8) 8 false 0x3FF8 ∧
    s.OwnLanes .l (fun l => s.cur.sreg 1 + (1#9).signExtend 64 * 256 + BitVec.ofNat 64 (4 * l)) false (fun l => 0x4100 + 4 * l) ∧
    s.OwnLanes .l (fun l => s.cur.sreg 1 + BitVec.ofNat 64 l * s.cur.sreg 2) false (fun l => 0x4000 + 8 * l) ∧
    (2#3).toNat ≤ 2 ∧
    s.OwnLanes .l (fun l => s.cur.sreg 1 + BitVec.ofNat 64 ((lane (s.cur.vreg 0) l).toNat * 2 ^ 2)) false (fun _ => 0x4000) ∧
    2 < (3#3).toNat :=
  ⟨own_ok (by decide +kernel), ownLanes_ok (by decide +kernel), ownLanes_ok (by decide +kernel), by decide, ownLanes_ok (by decide +kernel),
    by decide⟩

theorem witness_GlobalLoadsDepart :
    let s := wide (pred 1 5 (reg 1 0x4000 small))
    s.checkMem .l false false [(s.cur.sreg 1 + (1#9).signExtend 64 * BitVec.ofNat 64 8, 8)] = .ok [⟨0x4008, 0x4008, 8⟩] ∧
    ((List.range 64).filter fun l => (s.cur.preg 1).getLsbD l) = [0, 2] ∧
    s.checkMem .l false false ([0, 2].map fun l => (s.cur.sreg 1 + BitVec.ofNat 64 ((lane (s.cur.vreg 0) l).toNat * 4), 4)) =
      .ok [⟨0x4000, 0x4000, 4⟩, ⟨0x4000, 0x4000, 4⟩] ∧
    ((List.range 64).filter fun l => (s.cur.preg 2).getLsbD l) = [] ∧ s.checkMem .l false false [] = .ok [] ∧ s.maySignal .l 0 :=
  ⟨passes_ok (by decide +kernel), by decide, passes_ok (by decide +kernel), by decide, passes_ok (by decide +kernel), may (by decide)⟩

theorem witness_FuturesAndPipsAreRead :
    let s (full : Nat) := wide (bytes 0x4000 16 (7 + 2 ^ 64 * full) (reg 1 0x4000 small))
    ((s 1).checkMem .l false false [(0x4000, 16)] = .ok [⟨0x4000, 0x4000, 16⟩] ∧
      (s 1).checkMem .l false false [(0x104000, 16)] = .ok [⟨0x104000, 0x104000, 16⟩]) ∧
    ((s 1).inSlice 0 0x4000 = true ∧ (s 1).uncorrectable 0x4000 16 = none ∧ (s 1).pendingShadow 0x4000 16 = false ∧
      (s 1).readNum 0x4008 8 ≠ 0 ∧ (s 1).cur.polled = false ∧ (s 0).readNum 0x4008 8 = 0 ∧ (s 1).inSlice 0 0x104000 = false) ∧
    ((s 0).iaOf .l 0xFFE08 8 false = some 0xFFE08 ∧ (s 0).inFlagWindow 0xFFE08 = true ∧ (s 0).inSlice 0 0xFFE08 = true ∧
      (s 0).iaOf .l 0x1FFE08 8 false = some 0x1FFE08 ∧ (s 0).inFlagWindow 0x1FFE08 = true ∧ (s 0).inSlice 0 0x1FFE08 = false) ∧
    ((0x4008#64).toNat % 16 ≠ 0 ∧ (0xFFE0C#64).toNat % 8 ≠ 0) :=
  ⟨⟨passes_ok (by decide +kernel), passes_ok (by decide +kernel)⟩, by decide +kernel, by decide +kernel, by decide⟩

/-- A ring of depth 4 at 0x8000 with its queue control word at 0x4000, open for task 0. -/
def ring (head tail : Nat) (s : State) : State :=
  onTile (fun t => { t with rings := [⟨0x4000, 0, 0x8000, 4, 64⟩] }) (bytes 0x4000 32 (qcw 0x8000 4 64 3 1 head tail) s)

theorem witness_RingWordsMoveTheirPointers :
    let s (slots : Nat) := reg 1 0x4000 (reg 2 (BitVec.ofNat 64 slots) (ring 1 3 small))
    (s 0).ringOpen 0 0x4000 = true ∧ (s 0).uncorrectable 0x4000 32 = none ∧ ((s 0).ringAt 0 0x4000).map (fun q => (q.depth, q.head, q.occupancy)) = some (4, 1, 2) ∧
    ((s 0).iaOf .l ((s 0).cur.sreg 1) 32 false = some 0x4000 ∧ (s 0).iaOf .w ((s 0).cur.sreg 1) 32 true = some 0x4000) ∧
    ([1, 2, 3, 4, 5].map fun n => (((s n).cur.sreg 2).toNat + 2 ^ 32 - 1) % 2 ^ 32) = [0, 1, 2, 3, 4] ∧
    ((ring 3 3 small).ringAt 0 0x4000).map (·.occupancy) = some 0 ∧ (4 - 2 < 3 ∧ 2 ≤ 4 - 2) ∧ (s 0).maySignal .l 0 ∧ (s 0).maySignal .w 0 :=
  ⟨by decide +kernel, by decide +kernel, by decide +kernel, by decide +kernel, by decide +kernel, by decide +kernel, by decide, may (by decide), may (by decide)⟩

theorem witness_FencesAndMarksMeetTheirPartner :
    let l (n : Nat) := small.modCur fun t => { t with halves := #v[0, n, 0, n] }
    let w (n : Nat) := small.modCur fun t => { t with halves := #v[n, 0, n, 0] }
    let posted := { small with msgs := [⟨0, small.originNow, .store 0 [0]⟩] }
    ((1#2 ≠ 0 ∧ 1#2 ≠ 3) ∧ (l 1).maySignal .l 0 ∧ (small.modCur fun t => t.countHalf 2 .l).cur.halves[2] = 1 ∧
      ((l 1).modCur fun t => t.countHalf 2 .l).cur.halves[2] ≤ ((l 1).modCur fun t => t.countHalf 2 .l).cur.halves[3]) ∧
    (posted.outstanding 0 0 = true ∧ posted.ownHeld 0 0 0 = true ∧ small.ownHeld 0 0 0 = false ∧
      { w 1 with msgs := posted.msgs }.ownHeld 0 0 0 = true ∧ { w 1 with msgs := posted.msgs }.cur.halves[3] < { w 1 with msgs := posted.msgs }.cur.halves[2] ∧
      (3#2 ≠ 0)) ∧
    (small.outstanding 0 0 = false ∧ small.releaseHeld 0 0 = false ∧ (w 1).cur.halves[3] < (w 1).cur.halves[2] ∧ (w 1).maySignal .w 0) ∧
    (((l 1).modCur fun t => t.countHalf 0 .l).cur.halves[0] ≤ ((l 1).modCur fun t => t.countHalf 0 .l).cur.halves[1] ∧
      (small.modCur fun t => t.countHalf 0 .l).cur.halves[1] < (small.modCur fun t => t.countHalf 0 .l).cur.halves[0]) ∧
    (((w 1).modCur fun t => t.countHalf 1 .w).cur.halves[1] ≤ ((w 1).modCur fun t => t.countHalf 1 .w).cur.halves[0] ∧
      (small.modCur fun t => t.countHalf 1 .w).cur.halves[0] < (small.modCur fun t => t.countHalf 1 .w).cur.halves[1]) :=
  ⟨⟨by decide, may (by decide), by decide, by decide⟩, by decide, ⟨by decide, by decide, by decide, may (by decide)⟩, by decide, by decide⟩

theorem witness_LocalStoresArePerformed :
    let s := reg 1 0x4000 (reg 2 8 (pred 1 5 small))
    s.OwnAccess .w (s.cur.sreg 1 + (31#5).signExtend 64 * BitVec.ofNat 64 8) 8 true 0x3FF8 ∧
    s.OwnLanes .w (fun l => s.cur.sreg 1 + (1#5).signExtend 64 * 256 + BitVec.ofNat 64 (4 * l)) true (fun l => 0x4100 + 4 * l) ∧
    s.OwnLanes .w (fun l => s.cur.sreg 1 + BitVec.ofNat 64 l * s.cur.sreg 2) true (fun l => 0x4000 + 8 * l) ∧
    s.OwnLanes .w (fun l => s.cur.sreg 1 + BitVec.ofNat 64 ((lane (s.cur.vreg 0) l).toNat * 2 ^ 2)) true (fun _ => 0x4000) ∧
    ((s.cur.preg 1).getLsbD 2 = true ∧ s.OwnAccess .w (s.cur.sreg 1 + BitVec.ofNat 64 ((lane (s.cur.vreg 0) 2).toNat * 4)) 4 true 0x4000) ∧
    (Memory.wf s.mem = true ∧ s.quietSlice s.here ∧ s.maySignal .w 0) ∧
    (let r := wide (reg 1 0x104000 s)
     r.checkMem .w false true [(r.cur.sreg 1 + (0#5).signExtend 64 * BitVec.ofNat 64 8, 8)] = .ok [⟨0x104000, 0x104000, 8⟩] ∧
       r.inSlice r.here 0x104000 = false ∧ r.cur.partW = 0) ∧
    (let r := wide (reg 1 0x104000 s)
     ((List.range 64).filter fun l => (r.cur.preg 1).getLsbD l) = [0, 2] ∧
       r.checkMem .w false true ([0, 2].map fun l => (r.cur.sreg 1 + BitVec.ofNat 64 ((lane (r.cur.vreg 0) l).toNat * 4), 4)) =
         .ok [⟨0x104000, 0x104000, 4⟩, ⟨0x104000, 0x104000, 4⟩] ∧
       r.firstBlocked [⟨0x104000, 0x104000, 4⟩, ⟨0x104000, 0x104000, 4⟩] = none) :=
  ⟨own_ok (by decide +kernel), ownLanes_ok (by decide +kernel), ownLanes_ok (by decide +kernel), ownLanes_ok (by decide +kernel),
    ⟨by decide, own_ok (by decide +kernel)⟩, ⟨by decide, ⟨by decide, by decide, by decide, by decide⟩, may (by decide)⟩,
    ⟨passes_ok (by decide +kernel), by decide, by decide⟩, by decide, passes_ok (by decide +kernel), by decide +kernel⟩

theorem witness_FuturesAndPipsAreWritten :
    let s := wide (reg 1 0x4000 (bytes 0xFFE08 8 5 small))
    let posted := { s with msgs := [⟨0, s.originNow, .store 0 [0]⟩, ⟨1, s.originNow, .putf 0 0 0⟩] }
    let trails := s.modCur fun t => { t with walks := #v[0, 0, 0, 1] }
    s.OwnAccess .w 0x4000 16 true 0x4000 ∧ s.checkMem .w false true [(0x104000, 16)] = .ok [⟨0x104000, 0x104000, 16⟩] ∧
    ((0x4000#64).toNat % 16 = 0 ∧ (0x4008#64).toNat % 16 ≠ 0 ∧ s.inSlice s.here 0x104000 = false ∧
      s.cur.anyTaint (view (.putf ⟨0, false, 1, false, 2⟩)) = false ∧ s.outstanding 0 0 = false ∧ s.releaseHeld 0 0 = false ∧
      posted.outstanding 0 0 = true ∧ s.cur.loadsTrail = false ∧ trails.cur.loadsTrail = true ∧ s.uncorrectable 0xFFE08 8 = none) ∧
    s.maySignal .w 0 ∧
    ((0xFFE08#64).toNat % 8 = 0 ∧ (0xFFE0C#64).toNat % 8 ≠ 0 ∧ s.iaOf .w 0xFFE08 8 true = some 0xFFE08 ∧ s.inFlagWindow 0xFFE08 = true ∧
      s.inSlice s.here 0xFFE08 = true ∧ s.iaOf .w 0x1FFE08 8 true = some 0x1FFE08 ∧ s.inFlagWindow 0x1FFE08 = true ∧
      s.inSlice s.here 0x1FFE08 = false ∧ s.iaOf .w 0x4000 8 true = some 0x4000 ∧ s.inFlagWindow 0x4000 = false ∧
      BitVec.ofNat 64 (s.readNum 0xFFE08 8) = 5 ∧ (5#64 ≤ 5#64) ∧ (5#64 < 6#64)) :=
  ⟨own_ok (by decide +kernel), passes_ok (by decide +kernel), by decide, may (by decide), by decide +kernel⟩

theorem witness_ReturningAtomicsGiveTheOldValue :
    let s := wide (reg 1 0x4000 (reg 2 0x4007 (bytes 0x4000 8 0x7FC00000 small)))
    s.OwnAccess .w (s.cur.sreg 1) 8 true 0x4000 ∧ s.OwnAccess .w (s.cur.sreg 1) 4 true 0x4000 ∧
    s.checkMem .w false true [(0x104000, 8)] = .ok [⟨0x104000, 0x104000, 8⟩] ∧
    s.checkMem .w false true [(0x104000, 4)] = .ok [⟨0x104000, 0x104000, 4⟩] ∧
    ((s.cur.sreg 1).toNat % 8 = 0 ∧ (s.cur.sreg 2).toNat % 8 ≠ 0 ∧ (s.cur.sreg 2).toNat % 4 ≠ 0 ∧
      s.cur.anyTaint (view (.amoCas ⟨0, 3, false, 1, false, 2, 3⟩)) = false ∧ s.cur.anyTaint (view (.amoFadd ⟨0, 3, false, 1, false, 2⟩)) = false ∧
      s.inSlice s.here 0x104000 = false ∧ (readFp Fp.fp32 (s.readNum 0x4000 4)).isNan = true) :=
  ⟨own_ok (by decide +kernel), own_ok (by decide +kernel), passes_ok (by decide +kernel), passes_ok (by decide +kernel), by decide⟩

theorem witness_PostedAtomicsUpdateMemory :
    let s := wide (reg 1 0x4000 (reg 2 0x4007 small))
    let held := { s with msgs := [⟨0, s.originNow, .store 0 [0]⟩, ⟨1, s.originNow, .putf 0 0 0⟩] }
    s.OwnAccess .w (s.cur.sreg 1) 8 true 0x4000 ∧ s.OwnAccess .w (s.cur.sreg 1) 4 true 0x4000 ∧
    s.checkMem .w false true [(0x104000, 8)] = .ok [⟨0x104000, 0x104000, 8⟩] ∧
    s.checkMem .w false true [(0x104000, 4)] = .ok [⟨0x104000, 0x104000, 4⟩] ∧
    ((s.cur.sreg 1).toNat % 8 = 0 ∧ (s.cur.sreg 2).toNat % 8 ≠ 0 ∧ (s.cur.sreg 2).toNat % 4 ≠ 0 ∧
      s.cur.anyTaint (view (.amoAddNr ⟨0, false, 1, false, 2, 3⟩)) = false ∧ s.inSlice s.here 0x104000 = false ∧
      s.releaseHeld 0 0 = false ∧ held.releaseHeld 0 0 = true) ∧ s.maySignal .w 0 :=
  ⟨own_ok (by decide +kernel), own_ok (by decide +kernel), passes_ok (by decide +kernel), passes_ok (by decide +kernel), by decide, may (by decide)⟩

/-- Bytes of a record from its fields: offset, size, value. -/
def fields (n : Nat) (fs : List (Nat × Nat)) : List Byte := toBytes n (fs.map fun f => f.2 * 2 ^ (8 * f.1)).sum

/-- A record of each KIND: a transfer of two 8-byte units; a gather and a scatter of two rows of 64 bytes; a dense product of
one INT8 entry; a merge of one stream of two keys; an intersection of one key each; a mask of one tile; an epilogue that
stores one entry; a reduction of two members; a spill of one record. -/
def recordOf (kind : Nat) : List Byte :=
  fields 128 ((0, kind) :: match kind with
    | 1 => [(0x20, 0x4000), (0x28, 0x6000), (0x40, 2), (0x42, 1), (0x44, 1), (0x46, 1), (0x48, 1), (0x4A, 1), (0x78, 8)]
    | 2 => [(0x20, 0x4000), (0x28, 0x5000), (0x30, 0x6000), (0x48, 4), (0x4C, 64), (0x50, 64), (0x54, 64), (0x58, 2), (0x5C, 1)]
    | 3 => [(0x20, 0x4000), (0x28, 0x5000), (0x30, 0x6000), (0x48, 4), (0x4C, 64), (0x50, 64), (0x54, 64), (0x58, 2), (0x5C, 1)]
    | 4 => [(0x20, 0x4000), (0x28, 0x5000), (0x58, 1), (0x60, 8), (0x64, 8), (0x6C, 1), (0x6D, 1)]
    | 5 => [(0x20, 0x4000), (0x28, 0x6000), (0x40, 1), (0x41, 4)]
    | 6 => [(0x20, 0x5000), (0x28, 0x5100), (0x30, 0x6000), (0x40, 1), (0x44, 1), (0x48, 4)]
    | 7 => [(0x20, 0x4000), (0x28, 0x6000), (0x38, 1), (0x3A, 1)]
    | 8 => [(0x20, 0x4000), (0x28, 0x6000), (0x30, 0x5000), (0x58, 8), (0x60, 1), (0x61, 1)]
    | 9 => [(0x20, 0x4000), (0x28, 0x5000), (0x30, 0x6000), (0x48, 1), (0x4C, 2), (0x52, 2)]
    | _ => [(0x20, 1), (0x24, 1)])

/-- What the record of a KIND finds in memory. -/
def objects (kind : Nat) (s : State) : State :=
  match kind with
  | 5 => bytes 0x4000 24 (0x5000 + 2 ^ 128 * 2) (bytes 0x5000 8 (1 + 2 ^ 32 * 2) s)
  | 7 => bytes 0x4000 64 (0x5000 + 2 ^ 320 * 32 + 2 ^ 352 * 32 + 2 ^ 448 * 3)
      (bytes 0x5000 12 (0x20000000 + 2 ^ 32 * 0xB0000000 + 2 ^ 64 * 0xC0000000) s)
  | 8 => bytes 0x4000 12 (0x10000000 + 2 ^ 32 * 0xE0000000 + 2 ^ 64 * 0xF0000000) (bytes 0x5000 1 0x0C s)
  | 9 => bytes 0x4004 4 1 s
  | 0xA => queue 30 (qcw 0x10000000000 16 64 6 1 0 0) s
  | _ => s

def engineOf (kind : Nat) : Nat := (kindEngine kind).getD 0

/-- A command of a KIND on tile 0 in a state. -/
def commandOf (kind : Nat) (state : CmdState) (total : Nat) : Cmd :=
  { command (engineOf kind) kind state total with bytes := recordOf kind, ranges := fetchStrand.ranges }

/-- Tile 0 with that command alone. -/
def shop (kind : Nat) (c : Cmd) : State := commands [c] (objects kind small)

theorem witness_SampleWords_and_EncodedWords :
    (Instr.vsrnd ⟨0xF, 31, true, 31, true, 15, 5⟩).wellFormed = true ∧ (view (.vsrnd ⟨0xF, 31, true, 31, true, 15, 5⟩)).isEvent = false := by decide

/-- A fetch that answers a word. -/
def fetches (s : State) (e : Engine) (pc w : W32) : Bool :=
  match s.fetchWord e pc with
  | .ok x => x == w
  | .error _ => false

theorem fetches_ok {s : State} {e : Engine} {pc w : W32} (h : fetches s e pc w = true) : s.fetchWord e pc = .ok w := by
  unfold fetches at h
  split at h
  · rename_i x hx
    rw [hx, eq_of_beq h]
  · cases h

/-- A word without an extension. -/
def alone1 (s : State) (e : Engine) (w : W32) : Bool :=
  match s.fetchExt e w with
  | .ok x => x == none
  | .error _ => false

theorem alone1_ok {s : State} {e : Engine} {w : W32} (h : alone1 s e w = true) : s.fetchExt e w = .ok none := by
  unfold alone1 at h
  split at h
  · rename_i x hx
    rw [hx, eq_of_beq h]
  · cases h

/-- What the word of the witness does in its turn. -/
def turned : Outcome :=
  let s := State.reset.withFetchWord 32 0x04B39200
  exec (.gld ⟨0, 3, 7, false, 9, 0⟩) ({ s.tick with agenda := [], focus := 0 }.noteFetch .l 1)

theorem witness_StepRunsTheDecodedWord :
    let s := State.reset.withFetchWord 32 0x04B39200
    let u := { s.tick with agenda := [], focus := 0 }
    s.agenda = [.word 0 .l] ∧ u.cur.live = true ∧ u.halted 0 = false ∧ u.pkg.packageError = false ∧ u.pkg.power = .on ∧
    u.cur.stoppedByDeparture .l = false ∧ u.cur.idles .l = false ∧ u.cur.inPart .l = false ∧ u.cur.closing[engineIdx .l] = none ∧ u.cur.overflowRisk .l = false ∧ u.fetchWaits .l = none ∧ u.fetchWord .l (u.cur.pc .l) = .ok 0x04B39200 ∧
    u.fetchExt .l 0x04B39200 = .ok none ∧ wordEngine 0x04B39200 = .l ∧
    decodeWords 0x04B39200 none = .ok (.gld ⟨0, 3, 7, false, 9, 0⟩, 1) ∧ isTwoWordHead 0x04B39200 = false ∧
    (view (.gld ⟨0, 3, 7, false, 9, 0⟩)).meeting = false ∧ u.cur.windowHolds .l 1 = false ∧
    u.cur.tokensReady .l (view (.gld ⟨0, 3, 7, false, 9, 0⟩)).q = true ∧ u.cur.violates (view (.gld ⟨0, 3, 7, false, 9, 0⟩)) = false ∧
    u.cur.waitsFor (view (.gld ⟨0, 3, 7, false, 9, 0⟩)) = false ∧ u.orderHolds (.gld ⟨0, 3, 7, false, 9, 0⟩) = false ∧ u.cur.departing = none ∧
    stands false (.gld ⟨0, 3, 7, false, 9, 0⟩) = true ∧ stands false (.rte 0) = false ∧
    trapped { s.tick with agenda := [] } 0 turned = false ∧ ({ s.tick with agenda := [] } : State).cuts exec (0, .l) turned = false :=
  ⟨by decide, by decide, by decide, by decide, by decide, by decide, by decide, by decide, by decide, by decide, by decide +kernel, fetches_ok (by decide +kernel),
    alone1_ok (by decide), by decide, rfl, by decide, by decide, by decide, by decide, by decide, by decide, by decide, by decide, by decide, by decide, by decide +kernel,
    by decide +kernel⟩

/-- A meeting word of two-word neighbours: RTE is reached with every engine at it, and a two-word word of S with its extension. -/
theorem witness_StepRunsTheDecodedWord_others :
    let t := (State.reset.withFetchWord 32 0x01600000).cur
    let s := State.reset.withFetchWord 64 0x0ABCDEF000A28089
    let land := { small with agenda := [.land 0 .s] }
    let event := { small with agenda := [.event .packageReset] }
    let loading := small.modPkg fun p => { p with replacing := [(5, default)] }
    (wordEngine 0x01600000 = .s ∧ (view (.endW 0)).meeting = true ∧ t.pcs = #v[0, 0, 0, 0] ∧ (∀ k : Fin 4, t.walks[k] = 0) ∧
      (∀ k : Fin 4, t.closing[k] = none) ∧ t.flights = []) ∧
    s.fetchWord .s (s.cur.pc .s) = .ok 0x00A28089 ∧ s.fetchWord .s (s.cur.pc .s + 1) = .ok 0x0ABCDEF0 ∧
    (isTwoWordHead 0x00A28089 = true ∧ s.cur.headCloses = false ∧ s.cur.closeHolds 2 = false) ∧ land.agenda = [.land 0 .s] ∧
    (event.agenda = [.event .packageReset] ∧ (view .packageReset).isEvent = true ∧ { event.tick with agenda := [] }.pkg.power = .on ∧
      ({ event.tick with agenda := [] } : State).trapFirst exec .packageReset = false ∧ abrupt .packageReset = true) ∧
    (event.suspended .packageReset = false ∧ loading.suspended (.attestationRequest 0) = true) :=
  ⟨by decide, fetches_ok (by decide +kernel), fetches_ok (by decide +kernel), by decide, by decide, by decide, by decide⟩

/-- A result of L on its way to s5, with a signal to the next engine. -/
def flight (dest : Option RegRef) : Flight := ⟨.l, dest, 7, Vector.replicate 64 9, false, false, true, false⟩

theorem witness_ResultsLandInOrder :
    let s (n : Nat) (d : Option RegRef) := (tokens n small).modCur fun t => { t with flights := [{ flight none with engine := .a }, flight d] }
    (s 1 none).halted (s 1 none).here = false ∧ (flight (some (.s 5))).dest = some (.s 5) ∧ (flight (some (.v 5))).dest = some (.v 5) ∧
    (s 1 (some (.s 5))).cur.flights = [{ flight none with engine := .a }] ++ flight (some (.s 5)) :: [] ∧
    (∀ g ∈ [{ flight none with engine := .a }], g.engine ≠ Engine.l) ∧ (flight none).engine = .l ∧
    (((s 1 (some (.s 5))).modCur fun t => { t with flights := [{ flight none with engine := .a }] }).cur.landWrite (flight (some (.s 5)))).signal
      .l false true ≠ none ∧
    (((s 8 (some (.s 5))).modCur fun t => { t with flights := [{ flight none with engine := .a }] }).cur.landWrite (flight (some (.s 5)))).signal
      .l false true = none := by decide +kernel

theorem witness_MemoryReadsWhatWasWritten :
    Memory.wf small.mem = true ∧ Memory.wf (cellsWrite small.mem 0x4000 [1, 0, 2]) = true ∧ small.inSlice 0 0x4000 = true ∧
    small.inSlice 0 (0x4000 + 3) = true ∧ 0 < small.tileCount ∧ small.quietSlice 0 :=
  ⟨by decide, by decide, by decide, by decide, by decide, by decide, by decide, by decide, by decide⟩

theorem witness_EveryStepKeepsMemoryCanonical :
    let s := { State.reset with agenda := [.event (.hostPortDown 0)] }
    Memory.wf s.mem = true ∧ ∃ t, step s = .next t := ⟨by decide, _, rfl⟩

/-- Where a command stands ready: for a collective, the other member waits on tile 1. -/
def stand (kind : Nat) (c : Cmd) : State :=
  if kind = 9 then (shop kind c).modTile 1 fun t => { t with cmds := [{ c with unset := true }], cmdNext := 4 } else shop kind c

/-- The start of a command: after its checks, and after its set-up. -/
def begins (kind : Nat) (c : Cmd) : Run × Run :=
  let s := stand kind c
  let checked := (unitOf c.kind).check { s := s.popQueue 0 c, k := 0, c := c }
  let running : Cmd := { checked.c with state := .running, unset := false, started := (checked.s.tile 0).startNext }
  let taken := (checked.s.takePips 0 running).modTile 0 fun t => { t with startNext := t.startNext + 1 }
  (checked, (unitOf c.kind).setup { s := taken.setCmd 0 running, k := 0, c := running })

/-- A gather of no rows, and a copy whose ranges map nothing. -/
def noRows : Cmd :=
  { commandOf 2 .queued 0 with bytes := fields 128 [(0, 2), (0x20, 0x4000), (0x28, 0x5000), (0x30, 0x6000), (0x48, 4), (0x4C, 64),
      (0x50, 64), (0x54, 64), (0x5C, 1)] }
def unmapped : Cmd := { commandOf 1 .running 2 with ranges := Vector.replicate 16 {} }

/-- A copy with a stamp, and the shop at a FRAME. -/
def stamped (stamp : Nat) : Cmd :=
  { commandOf 1 .queued 0 with bytes := fields 128 ((4, stamp) :: [(0, 1), (0x20, 0x4000), (0x28, 0x6000), (0x40, 2), (0x42, 1), (0x44, 1),
      (0x46, 1), (0x48, 1), (0x4A, 1), (0x78, 8)]) }
def atFrame (n : W64) (s : State) : State := s.modPkg fun p => { p with frame := n }

theorem witness_CommandsStartRunAndRestart :
    [1, 2, 3, 4, 5, 6, 7, 8, 9, 10].all (fun kind =>
      let c := commandOf kind .queued 0
      let (checked, started) := begins kind c
      c.kind == kind && (stand kind c).findCmd ⟨0, 3⟩ == some c && (stand kind c).enginesRun 0 && (stand kind c).startsNext 0 c && !c.missed &&
        checked.fault.isNone && !checked.waits && started.fault.isNone && !started.waits && decide (started.pos < started.c.work.total) &&
        (kind == 9 || (((unitOf kind).element started).fault.isNone && started.c.state == .running))) = true ∧
    [1, 2, 3, 4, 5, 6, 7, 8, 9, 10].all (fun kind =>
      let c := command (engineOf kind) kind .queued 0
      (shop kind c).startsNext 0 c && (begins kind c).1.fault.isSome) = true ∧
    ((begins 2 noRows).1.fault = none ∧ (begins 2 noRows).2.c.work.total ≤ (begins 2 noRows).2.pos) ∧
    ((Run.step cpyUnit { s := shop 1 unmapped, k := 0, c := unmapped }).fault.isSome = true ∧ unmapped.unset = false ∧ unmapped.progress.toNat < unmapped.work.total) ∧
    [1, 2, 3, 5, 6, 7, 8].all (fun kind =>
      let c := commandOf kind .stopped 1
      let back : Cmd := { c with state := .running }
      (shop kind c).resumes 0 c &&
        ((unitOf kind).resume { s := ((shop kind c).setCmd 0 back).modTile 0 fun t => { t with startNext := t.startNext + 1 }, k := 0, c := back }).fault.isNone &&
        !((unitOf kind).resume { s := ((shop kind c).setCmd 0 back).modTile 0 fun t => { t with startNext := t.startNext + 1 }, k := 0, c := back }).waits) =
      true := by decide +kernel

/-- A copy that has started. -/
def begun : State := nextOf (exec (.cpy ⟨0, 3⟩) (shop 1 (commandOf 1 .queued 0)))
def begunCmd : Cmd := (begun.findCmd ⟨0, 3⟩).getD (commandOf 1 .queued 0)
def waited : Cmd := { commandOf 1 .queued 0 with eligibleAt := some 0 }
def fullQueue : State :=
  let s := queue 0 (qcw 0x20000 1 128 1 1 0 1) (State.reset.withFetchWord 32 0x02300000)
  (s.modCur fun t => { t with ecmdSince := some 0 }).modPkg fun p => { p with cycles := 4096 }

theorem witness_CommandEventsComplete :
    let last := Run.rest cpyUnit (begunCmd.work.total - begunCmd.progress.toNat) { s := begun, k := 0, c := begunCmd }
    let on (frame : W64) := atFrame frame (shop 1 (stamped 5))
    (begun.findCmd ⟨0, 3⟩ = some begunCmd ∧ begunCmd.state = .running ∧ begunCmd.unset = false ∧ begun.enginesRun 0 = true ∧
      laterInOrder (begun.tile 0).cmds begunCmd = false ∧ begunCmd.kind ≠ 9 ∧ last.fault = none ∧ last.waits = false ∧
      last.c.work.total ≤ last.pos ∧ last.k = 0 ∧ last.c.seq = 3 ∧ last.c.acks = [] ∧ last.c.crec = none ∧
      laterInOrder (last.s.tile 0).cmds { last.c with shadow := last.c.shadow ++ cpyUnit.final last } = false ∧
      (last.s.awayChips (last.c.shadow ++ cpyUnit.final last)).isEmpty = true ∧ last.s.blockedWrite (last.c.shadow ++ cpyUnit.final last) = none) ∧
    ((stamped 5).stamp ≠ 0 ∧ (stamped 5).state = .queued ∧ (on 5).stampStarts 0 (stamped 5) = true ∧ (on 5).stampFirst 0 (stamped 5) = true ∧
      (on 5).enginesRun 0 = true ∧ (on 5).startTurn 0 (stamped 5) = true ∧
      (let begun := ((on 5).modTile 0 fun x => { x with stampStarts := Tab.put x.stampStarts (stamped 5).engine 5 }).beginCommand cpyUnit 0 (stamped 5)
       (begun.tile 0).cmds.all (fun x => x.state != .queued) = true)) ∧
    ((on 7).stampLate (stamped 5) < 2 ^ 31 ∧ (on 7).stampStarts 0 (stamped 5) = false) ∧
    (waited.engine = 0 ∧ waited.state = .queued ∧ 65536 ≤ ((atFrame 65536 (shop 1 waited)).frame - 0).toNat) ∧
    (fullQueue.cur.ecmdSince = some 0 ∧ fullQueue.cur.live = true ∧ fullQueue.halted 0 = false ∧
      ({ fullQueue with focus := 0 } : State).ecmdFull = true ∧ 4096 ≤ (fullQueue.tileCycles 0 - 0).toNat) := by decide +kernel

/-- A gather of two rows whose first index is given, its batch read. -/
def gathering (x : Nat) : Cmd :=
  let c := commandOf 2 .running 2
  { c with work := { c.work with srcOff := 1, index := [x] } }

/-- What an element of a command reads and writes, at these IAs. -/
def reaches (s : State) (c : Cmd) (from_ into : W64) (u a b : Nat) : Bool :=
  Run.iaOf ⟨s, 0, c, none, false⟩ from_ u false == some a && !s.stoppedSlice a && !s.pageWaits a u false && (s.uncorrectable a u).isNone &&
    Run.iaOf ⟨s, 0, c, none, false⟩ into u true == some b && !s.stoppedSlice b && !s.pageWaits b u true && (s.blockedUnit b u false).isNone

theorem witness_CopyElementsMoveTheirBytes :
    let c := commandOf 1 .running 2
    let s := shop 1 c
    let g := shop 2 (gathering 3)
    (s.findCmd ⟨0, 3⟩ = some c ∧ s.enginesRun 0 = true ∧ c.engine = 0 ∧ c.unset = false ∧ c.progress.toNat < c.work.total ∧ c.kind = 1 ∧ c.srcTf = 0 ∧
      c.dstTf = 0 ∧ c.srcFmt = c.dstFmt ∧ c.num 0x78 2 = 8 ∧ s.shadowedBut 0 c.seq 0x4000 8 = false ∧ reaches s c 0x4000 0x6000 8 0x4000 0x6000 = true) ∧
    (g.findCmd ⟨0, 3⟩ = some (gathering 3) ∧ (gathering 3).kind = 2 ∧ (gathering 3).num 0x54 4 = 64 ∧ (gathering 3).num 0x5C 1 = 1 ∧
      (gathering 3).work.srcOff = 0 / 1 * 1 + 1 ∧ (gathering 3).work.cursor ≠ [0] ∧ (gathering 3).work.index.getD 0 0 = 3 ∧
      (3 < (gathering 3).num 0x48 4 ∧ (gathering 4).num 0x48 4 ≤ 4 ∧ 64 % 8 = 0 ∧ (gathering 3).num 0x5D 1 ≠ 1) ∧
      g.shadowedBut 0 3 0x40C0 64 = false ∧
      reaches g (gathering 3) ((gathering 3).va 0x20 + BitVec.ofNat 64 (3 * (gathering 3).num 0x4C 4)) ((gathering 3).va 0x30) 64 0x40C0 0x6000 = true) := by
  decide +kernel

theorem witness_RegisterEventsPerformTheirWrite :
    let pending := small.modPkg fun p => { p with envPending := true, envMode := 1, thermalHeld := some 2 }
    let seed := { small with toDispatch := [.seedWrite 5 9] }
    let new := toBytes 32 (qcw 0x20000 16 128 1 1 0 0)
    (pending.pkg.envPending = true ∧ small.pkg.thermalHeld = none ∧ pending.pkg.thermalHeld = some 2 ∧ 2#2 ≠ pending.pkg.envMode ∧
      pending.pkg.envMode ≠ 3) ∧
    ((small.strand 0).live = true ∧ 16 ≤ wfield 16 0 11 ∧ wfield 1024 0 11 ≤ 1024 ∧ seed.toDispatch = .seedWrite 5 9 :: [] ∧
      small.trapFramesOk 0 0x40001 = true ∧ (3#64 &&& 0xFE0000000000FFFC = 0) ∧ (0x10000#64 &&& 0xFE0000000000FFFF = 0) ∧
      (0x10000#64 &&& 0xFF0000000000FFFF = 0)) ∧
    (Memory.wf small.mem = true ∧ 0 < small.tileCount ∧ small.tileCount ≤ 512 ∧ new.length = 32 ∧ (small.tileQcw 0 0).valid = false ∧
      (Qcw.ofBytes new).valid = true ∧ small.queueOk 0 0 (Qcw.ofBytes new) = true) ∧
    (small.tileQcw 0 30).valid = false ∧ (Qcw.ofBytes (toBytes 32 (qcw 0x10000000000 16 64 6 1 0 0))).valid = true ∧
    small.queueOk 0 30 (Qcw.ofBytes (toBytes 32 (qcw 0x10000000000 16 64 6 1 0 0))) = true := by decide +kernel

/-- An image of no unit. -/
def noImage : FwImage := ⟨0, 0, true, 0, 0, [], 0, []⟩

/-- An image of a unit, one byte long, with its digest; its signature is a free value's (log 5). -/
def image (unit : Byte) (signature : List Byte) : FwImage :=
  ⟨0x4B465749, unit, true, 3, 1, [0], BitVec.ofNat 512 (ofBytes (shake256 [0] 64)), signature⟩

theorem digest_ok : (shake256 [0] 64 == toBytes 64 (BitVec.ofNat 512 (ofBytes (shake256 [0] 64))).toNat) = true := by decide +kernel

/-- Were its signature one that the vendor key verifies, it is accepted. -/
theorem witness_acceptedImage (p : Pkg) (unit : Byte) (sig : List Byte) (hl : sig.length = 3309) (h : Config.mldsaVerifies p.vendorKey (imageHead (image unit sig)) sig = true)
    (m : Tab.get 0 p.svnMin unit.toNat ≤ 3#32) : p.accepts unit.toNat (image unit sig) = true := by
  have d := digest_ok
  have b : (unit.toNat == unit.toNat) = true := beq_self_eq_true _
  simp only [image] at h
  simp only [Pkg.accepts, image, d, b, h, hl]
  simp
  exact decide_eq_true m

/-- Five such images, one for each unit, and a vendor key with the fused digest bring the package on. -/
theorem witness_bootImages (p : Pkg) (f : Flash) (a : Nat → List Byte) (hl : (flashKey f).length = 1952) (hd : p.vendorDigest = shake256 (flashKey f) 32)
    (hi : f.images = [5, 1, 2, 4, 3].map fun u => (a u, [])) (h : ∀ u ∈ [5, 1, 2, 4, 3], p.accepts u (imageOf (a u)) = true) :
    (if p.trusts (flashKey f) then p.bootImages [5, 1, 2, 4, 3] (f.images.map fun x => (imageOf x.1, imageOf x.2)) else none).isSome = true := by
  simp at h
  simp [Pkg.trusts, Pkg.bootImages, h, hl, hd, hi]

theorem toBytes_len : ∀ n v, (toBytes n v).length = n
  | 0, _ => rfl
  | n + 1, v => by simp [toBytes, toBytes_len n]

theorem ofBytes_toBytes : ∀ n v, v < 256 ^ n → ofBytes (toBytes n v) = v
  | 0, v, h => by simp at h; simp [h, toBytes, ofBytes]
  | n + 1, v, h => by
    have : v / 256 < 256 ^ n := by rw [Nat.pow_succ] at h; omega
    simp [toBytes, ofBytes, ofBytes_toBytes n _ this]
    omega

/-- The bytes of such an image in the flash: its head, its signature, zeros, its body. -/
theorem witness_imageOf (unit : Byte) (sig zeros : List Byte) (hl : sig.length = 3309) (hz : zeros.length = 707) (h0 : zeros.all (· == 0#8) = true) :
    imageOf (imageHead (image unit sig) ++ (sig ++ (zeros ++ [0]))) = image unit sig := by
  obtain ⟨d, hd⟩ : ∃ d, BitVec.ofNat 512 (ofBytes (shake256 [0] 64)) = d := ⟨_, rfl⟩
  simp only [image, hd]
  obtain ⟨h, hh⟩ : ∃ h, imageHead ⟨0x4B465749, unit, true, 3, 1, [0], d, sig⟩ = h := ⟨_, rfl⟩
  have hn : h.length = 80 := by rw [← hh]; simp [imageHead, toBytes_len]
  have cut (o n : Nat) (x : List Byte) (hx : o + n ≤ 80) : ((h ++ x).drop o).take n = (h.drop o).take n := by
    rw [List.drop_append_of_le_length (by omega), List.take_append_of_le_length (by simp; omega)]
  have s1 : ((h ++ (sig ++ (zeros ++ [0]))).drop 0x50).take 3309 = sig := by
    rw [show 0x50 = h.length from hn.symm, List.drop_left, ← hl, List.take_left]
  have s2 : (h ++ (sig ++ (zeros ++ [0]))).drop 0xD3D = zeros ++ [0] := by
    rw [← List.append_assoc, show 0xD3D = (h ++ sig).length by rw [List.length_append, hn, hl], List.drop_left]
  have s3 : (h ++ (sig ++ (zeros ++ [0]))).drop 4096 = [0] := by
    rw [show 4096 = 0xD3D + 707 from rfl, ← List.drop_drop, s2, ← hz, List.drop_left]
  have f (o n : Nat) (hx : o + n ≤ 80) : fieldAt (h ++ (sig ++ (zeros ++ [0]))) o n = fieldAt h o n := by
    simp only [fieldAt, cut o n _ hx]
  have z (o n : Nat) (hx : o + n ≤ 80) : allZero (h ++ (sig ++ (zeros ++ [0]))) o n = allZero h o n := by
    simp only [allZero, cut o n _ hx]
  have g : (h ++ (sig ++ (zeros ++ [0]))).getD 4 0 = h.getD 4 0 := by
    rw [List.getD, List.getD, List.getElem?_append_left (by omega)]
  have y : allZero (h ++ (sig ++ (zeros ++ [0]))) 0xD3D 707 = true := by
    simp only [allZero, s2, ← hz, List.take_left, h0]
  have e : h.drop 0x10 = toBytes 64 d.toNat := by rw [← hh]; rfl
  have e2 : BitVec.ofNat 512 (ofBytes ((h.drop 0x10).take 64)) = d := by
    rw [e, List.take_of_length_le (Nat.le_of_eq (toBytes_len 64 _)), ofBytes_toBytes 64 _ (by rw [show (256 : Nat) = 2 ^ 8 from rfl, ← Nat.pow_mul]; exact d.isLt)]
    simp
  have q : fieldAt h 0 4 = 0x4B465749 ∧ fieldAt h 8 4 = 3 ∧ fieldAt h 0xC 4 = 1 ∧ h.getD 4 0 = unit ∧ allZero h 5 3 = true := by
    subst hh
    simp [fieldAt, imageHead, toBytes, ofBytes, allZero]
  rw [hh]
  simp only [imageOf, f 0 4 (by omega), f 0xC 4 (by omega), f 8 4 (by omega), z 5 3 (by omega), g, y, cut 0x10 64 _ (by omega), s1, s3, e2, q]
  rfl

theorem witness_PlatformEventsHaveTheirEffect :
    let off := small.modPkg fun p => { p with power := .off }
    let pending := small.modPkg fun p => { p with envPending := true }
    let raised := small.modPkg fun p => { p with accepted := [(1, 3)], svnMin := [(1, 2)] }
    let later := small.modPkg fun p => { p with frame := 2 ^ 32 }
    let loading := small.modPkg fun p => { p with replacing := [(2, default)] }
    (Memory.wf small.mem = true ∧ (0xFFE00 < 0x20000000 ∧ 0xFFE00 ≤ 0xFFE00 % 0x100000) ∧
      (0xFFDFF < 0x100000 * small.tileCount ∧ 0xFFDFF % 0x100000 < 0xFFE00)) ∧
    (off.pkg.power ≠ .on ∧ { off.pkg with vendorKey := flashKey ⟨[], []⟩ }.trusts (flashKey ⟨[], []⟩) = false) ∧
    (100 ≤ 109 ∧ small.pkg.envActive.toNat < 2 ∧ small.pkg.envPending = false ∧ small.pkg.envActive ≠ 3 ∧ pending.pkg.envPending = true) ∧
    (603 < 604 ∧ later.readNum (0x180008000 + 16 * 603 + 8) 4 ≠ wfield later.frame 32 32 ∧
      small.readNum (0x180008000 + 16 * 603 + 8) 4 = wfield small.frame 32 32 ∧ small.imageAt 0x10000000000 = none ∧ small.pkg.replacing = [] ∧
      (Tab.find loading.pkg.replacing 2).isSome = true ∧ (Tab.find loading.pkg.replacing 2).map (·.number) = some 0 ∧ 0 + 1 < fwInstances 2 ∧
      fwInstances 5 ≤ 0 + 1 ∧ small.pkg.accepts 1 noImage = false ∧ (1, 3) ∈ raised.pkg.accepted ∧ Tab.get 0 raised.pkg.svnMin 1 < 3#32) := by decide +kernel

/-- No tile of the reset package is offline. -/
theorem witness_noTileOffline : ∀ k, (small.tile k).offline = false := fun _ => rfl

/-- The package with a tile in service, ports in each state, and units draining. -/
def serviced (drains : List Nat) (port : W64) : State :=
  (State.reset.modTile 3 fun t => { t with draining := true }).modPkg fun p => { p with drains := drains, portMap := [(7, port)] }

theorem witness_UnitsAreServiced :
    let bare := State.reset.modPkg fun p => { p with spares := [0, 0, 0, 0] }
    let one := serviced [5] 2
    let gone (unit : Nat) (f : Pkg → Pkg) : Bool :=
      let s := serviced [unit] 2
      s.pkg.drains.contains unit && s.fits { s with pkg := f { s.pkg with drains := s.pkg.drains.erase unit } }
    (511 < State.reset.tileCount ∧ (State.reset.tile 511).offline = false ∧ (State.reset.tile 511).draining = false ∧
      State.reset.sparesFree (State.reset.dieOf 511) ≠ 0 ∧ bare.sparesFree (bare.dieOf 0) = 0 ∧ bare.tasksOn 0 = []) ∧
    (0 < monitorAt 603 ∧ 603 < 604) ∧
    ((one.tile 3).draining = true ∧ one.drained 3 = true ∧ one.dieOf 3 < one.pkg.spares.length) ∧
    (383 < 384 ∧ 383 ∉ State.reset.pkg.drains ∧ 5 ∈ one.pkg.drains ∧ 1024 + 15 ∉ one.pkg.drains ∧ 2048 + 3 ∉ one.pkg.drains ∧
      State.reset.pkg.cxlLinked.getLsbD 3 = true ∧ 383 ∉ State.reset.pkg.hbmOff ∧ State.reset.pkg.lpddrGib.getD 15 0 ≠ 0 ∧
      383 ∈ { State.reset.pkg with hbmOff := [383] }.hbmOff ∧ { State.reset.pkg with lpddrGib := [] }.lpddrGib.getD 15 0 = 0) ∧
    (gone 5 (fun p => { p with hbmOff := p.hbmOff ++ [5] }) = true ∧ gone (1024 + 15) (fun p => { p with lpddrGib := p.lpddrGib.set 15 0 }) = true ∧
      gone (2048 + 3) (fun p => { p with cxlLinked := p.cxlLinked &&& ~~~(1#4 <<< 3) }) = true) ∧
    ([(false, 2, 2), (true, 3, 3), (true, 5, 5), (true, 1, 1)].all (fun (x : Bool × W64 × Nat) =>
      let s := serviced (if x.1 then [3072 + 7] else []) x.2.1
      portState (Tab.get 0 s.pkg.portMap 7) == x.2.2 && (s.pkg.drains.contains (3072 + 7) == x.1)) = true) ∧
    (portState (Tab.get 0 one.pkg.portMap 7) ≠ 0 ∧ 3072 + 7 ∉ one.pkg.drains ∧ (2#2 ≠ 3) ∧ (4#3 = 4)) ∧
    (State.reset.pkg.poolGib + 0 ≤ 4096 * popCount 4 State.reset.pkg.cxlLinked.toNat ∧ State.reset.pkg.migrations = [] ∧
      State.reset.leaves = []) := by decide +kernel

/-- Free frames enough for a channel's pages, whatever their number. -/
theorem witness_enoughFrames (s : State) : Config.channelPages s.steps 0 383 ≤ Config.channelPages s.steps 0 383 := Nat.le_refl _

/-- A queue of the host with one packet at 0x8000 of tile 0's slice, whose OP and object are given. -/
def hostQueue (op object : Nat) : State :=
  bytes 0x180003000 8 0x8000 (bytes 0x180003008 4 4 (bytes 0x18000300C 1 1 (bytes 0x180003014 4 1
    (bytes 0x8000 64 (op + 2 ^ 16 * 9 + 2 ^ 64 * object) State.reset))))

/-- A graph template of one record. -/
def withGraph (s : State) : State := bytes 0x9000 4 1 (bytes (0x9040 + 7) 1 1 s)

theorem witness_HostRequestsAreServed :
    (Memory.wf (hostQueue 1 0x9040).mem = true ∧ (4 + 2 ^ 32 - (hostQueue 1 0).readNum 0x180003010 4) % 2 ^ 32 ≤ (hostQueue 1 0).readNum 0x180003008 4) ∧
    [1, 2, 3, 4].all (fun op =>
      let s := withGraph (hostQueue op (if op = 1 then 0x9040 else 0x9000))
      let p := s.controllerRead 0x8000 64
      !s.pkg.packageError && s.packetIA 0 == some 0x8000 && !s.pageWaits 0x8000 64 false && fieldAt p 0 1 == op && !s.refuses p) = true ∧
    ((let s := withGraph (hostQueue 1 0x9040)
      ((fieldAt (s.controllerRead 0x8000 64) 8 8, 256, false) :: outNeeds (s.controllerRead 0x8000 64) 8).all fun x => !s.pageWaits x.1 x.2.1 x.2.2) = true) ∧
    ((let s := withGraph (hostQueue 2 0x9000)
      (s.graphNeeds (s.controllerRead 0x8000 64)).all fun x => !s.pageWaits x.1 x.2.1 x.2.2) = true) ∧
    ((((withGraph (hostQueue 2 0x9000)).consume 0 ((withGraph (hostQueue 2 0x9000)).controllerRead 0x8000 64)).template 0x9000).any
      (fun bss => bss.length == 1 && bss.all recordOk && bss.all fun x =>
        (((withGraph (hostQueue 2 0x9000)).consume 0 ((withGraph (hostQueue 2 0x9000)).controllerRead 0x8000 64)).templateSuccs 1 x).isSome) = true) ∧
    [0, 5].all (fun op => fieldAt ((hostQueue op 0).controllerRead 0x8000 64) 0 1 == op && (hostQueue op 0).packetIA 0 == some 0x8000) = true := by
  decide +kernel

/-- A window of the host over the slices, with READ and WRITE. -/
def hostOpen : State := bytes 0x180004000 20 (2 ^ 64 * 0xFFFFFFF + 2 ^ 128 * 9 + 2 ^ 152 * 3) State.reset

theorem witness_HostWindows :
    (hostOpen.hostWindow 0 0x4000 8 false = some 9 ∧ hostOpen.hostWindow 0 0x4000 8 true = some 9 ∧ chipOf 0x4000 = hostOpen.chip ∧
      (hostOpen.region (localOf 0x4000)).isSome = true ∧ (hostOpen.region (localOf 0x4007)).isSome = true ∧ hostOpen.hostKeys 9 0x4000 8 = true ∧
      hostOpen.portFree (localOf 0x4000 / 0x100000) (hostKey hostOpen.pkg.hostNext) = true ∧ hostOpen.pageWaits 0x4000 8 true = false ∧
      hostOpen.behindHeld (true, hostOpen.pkg.hostNext) 0x4000 8 = false ∧
      ({ hostOpen with pageQueue := [(true, 7, 0x4000, 8)] } : State).behindHeld (true, hostOpen.pkg.hostNext) 0x4000 8 = true ∧
      ((hostOpen.modPkg fun p => { p with badUnits := [(0x4000, 16)] }).uncorrectable 0x4000 8).isNone = false ∧
      ((hostOpen.modPkg fun p => { p with badUnits := [(0x4000, 16)] }).blockedUnit 0x4000 8 false).isNone = false ∧ (hostOpen.uncorrectable 0x4000 8).isNone = true ∧
      (hostOpen.blockedUnit 0x4000 8 false).isNone = true) ∧
    (let s := (bytes 0x180004008 8 (2 ^ 48) hostOpen).modPkg fun p => { p with coord := 0x8000, hostAway := [0x800000004000] };
      s.hostWindow 0 0x800000004000 8 false = some 9 ∧ s.hostWindow 0 0x800000004000 8 true = some 9 ∧ chipOf 0x800000004000 ≠ s.chip ∧
        0x800000004000 ∈ s.pkg.hostAway) ∧
    State.reset.hostWindow 0 0x4000 8 false = none ∧ hostOpen.hostWindow 0x20 0x4000 8 true = none := by decide +kernel

/-- A message of slot 0's strand to tile 1's slice, at its home. -/
def sent (b : MsgBody) : State := { small with msgs := [⟨0, small.originNow, b⟩], msgNext := 1 }

theorem witness_MessagesArePerformedAtTheirHome :
    let bodies : List (MsgBody × Bool × Bool) :=
      [(.load 0x104000 8 none, false, false), (.load 0x104001 8 none, false, false), (.store 0x104001 [1, 2], true, false), (.amo .cas 8 0x104000 5 0 true, true, true), (.store 0x104000 [1, 2], true, false),
        (.amo .add 4 0x104000 5 0 false, true, true), (.xadd 0x104000 4 0x3F800000, true, true), (.fladd 0x1FFE08 5 (some 0), true, true),
        (.putf 0x104000 5 0, true, false), (.wait 0x1FFE08 (.pip 0 true), false, false), (.wait 0x1FFE08 (.pip 1 false), false, false)]
    bodies.all (fun x =>
      let s := sent x.1
      let m : Msg := ⟨0, small.originNow, x.1⟩
      let ia := x.1.span.1
      s.msgs.contains m && s.mayPerform m && m.origin.chip == s.chip && chipOf ia == s.chip && s.region (localOf ia) == some .slice &&
        (s.shutPort m).isNone && !s.startsFirst m && !s.behindHeld (false, m.key) ia x.1.span.2 && (s.homeCheck m x.2.1).isNone && (s.blockedUnit ia x.1.span.2 x.2.2).isNone && (s.uncorrectable ia x.1.span.2).isNone) = true ∧
    ((sent (.load 0x104001 8 none)).firstAccess ⟨0, small.originNow, .load 0x104001 8 none⟩).isSome = true ∧
    ((sent (.store 0x104001 [1, 2])).firstAccess ⟨0, small.originNow, .store 0x104001 [1, 2]⟩).isSome = true ∧
    (oneAccess 0x104000 8 = true ∧ oneAccess 0x104000 2 = true ∧ (xaddValue 4 0x3F800000).isSome = true) ∧
    (let pip := BitVec.ofNat 64 (small.readNum 0x1FFE08 8);
      (0#64 ≤ pip ∧ pip < 1#64) ∧ ({ small with msgs := [] } : State).watchRoom 0x1FFE08 = true) ∧
    (let m (ia : Nat) : Msg := ⟨0, { small.originNow with chip := 1 }, .publish [(ia, [1])]⟩;
      (m 0).origin.chip ≠ small.chip ∧ small.pkg.packageError = false ∧ chipOf 0x104000 = small.chip ∧ small.shutPort (m 0x104000) = none ∧
        small.waitsAt (m 0x104000) = none ∧ small.behindHeld (false, (m 0x104000).key) 0x104000 1 = false ∧
        small.region (localOf 0x104000) = some .slice ∧ small.blockedWrite [(0x104000, [1])] = none ∧
        ((small.modPkg fun p => { p with badUnits := [(0x104000, 16)] }).blockedWrite [(0x104000, [1])]).isSome = true ∧
        small.region (localOf 0x20000000) = none ∧ small.shutPort (m 0x20000000) = none ∧ small.waitsAt (m 0x20000000) = none) ∧
    ((onTile id ({ small with watches := List.replicate 256 ⟨0x1FFE08, small.originNow, .future, 0⟩ })).watchRoom 0x1FFE08 = false) ∧
    portState (Tab.get 0 (serviced [] 2).pkg.portMap 7) ≠ 0 := by decide +kernel

/-- A record of task 0 on tile 0, open with one event, and a state with it and a message on its way back. -/
def record (dest : Option RegRef) : ContRec :=
  { num := 0, granule := 0, granules := 3, spilled := false, gone := false, task := 0, rank := 0, slot := 0, engine := .l, reason := 1
    key := 0, dest := dest, dep := 1, readyAt := none, backoffAt := none, super := false, stamp := 0, block := small.cur.block, livemask := 0
    error := none, backoff := 0, polled := false, trapSave := none, q := 0, len := 1, pcAt := 0, vas := [], past := true, passed := false
    isSnapshot := false, progress := [], flagWaitSince := none, unpassed := none }

def awaiting (b : MsgBody) : State :=
  { onTile (fun t => { t with recs := [record (some (.s 5))], recNext := 1, contTail := 3 }) small with msgs := [⟨0, small.originNow, b⟩] }

/-- A task of a job, and its controller's messages. -/
def taskMsg : TaskMsg :=
  { record := List.replicate 256 0, job := 9, seed := 1, cluster := 0, fromChip := 0, track := 0, errq := 0, counted := true, succs := none }

def task (state : TState) : Task := { copy := 0x80000, job := 9, state := state, deps := 1 }

/-- Package 1 of a domain of two. -/
def second : State := State.reset.modPkg fun p => { p with coord := 0x1008000 }

theorem witness_AnswersReachTheirRecord :
    [MsgBody.reply none 5 none 0, .ack 0, .answer true 5 none none (0, 0, 3, 0), .answer false 0 none (some 7) (0, 0, 3, 0), .failed 4 0 0 []].all (fun b =>
      let s := awaiting b
      let m : Msg := ⟨0, small.originNow, b⟩
      s.msgs.contains m && m.origin.chip == s.chip && s.portOpen (s.recTile m.origin.record) m && s.tiles.all (fun k => k.2.cmds.isEmpty) &&
        s.openRecord m.origin.record == some (record (some (.s 5))) && (s.task m.origin.task).failure.isNone) = true ∧
    ((record (some (.s 5))).dep ≤ 1 ∧ taskMsg.fromChip = State.reset.chip ∧ taskMsg.record.length = 256) ∧
    (let s : State := { State.reset with tasks := [(0, task .waiting)], taskNext := 1, toDispatch := [.decrement 0x80000 9] };
      s.toDispatch = .decrement (s.task 0).copy (s.task 0).job :: [] ∧ chipOf (s.task 0).copy = s.chip ∧ s.taskAt (s.task 0).copy = some 0 ∧
        (s.task 0).state = .waiting ∧ (s.task 0).deps = 1) ∧
    (let c : Cmd := { command 0 1 .publishing 0 with acks := [0] };
      (commands [c] small).tiles.any (fun k => k.2.cmds.any fun x => x.acks.contains 0) = true) ∧
    (State.reset.pkg.stealCtl.getLsbD 17 = true ∧ second.chip ≠ 0 ∧ 0 ∈ second.neighbours ∧ second.tiles = []) ∧
    (let s := { second with tasks := [(0, task .running)], tiles := [(0, { recs := [{ record (some (.s 5)) with reason := 7 }] })] };
      s.chip ≠ 0 ∧ (s.tiles.flatMap fun k => k.2.recs.filter fun r =>
        r.reason == 7#8 && r.readyAt.isNone && !r.gone && (s.job (s.task r.task).job).track == 0) = [{ record (some (.s 5)) with reason := 7 }]) ∧
    ((∀ t ∈ State.reset.tasks, t.2.state ≠ .ready) ∧
      (let s : State := { State.reset with tasks := [(0, task .ready)] };
        s.tasks = [(0, task .ready)] ∧ (task .ready).pinned = false ∧ (task .ready).hasRun = false)) ∧
    (State.reset.chip = 0 ∧ State.reset.pkg.wave.pass = 0 ∧
      (State.reset.modPkg fun p => { p with wave := { p.wave with snap := [(0, 0, 0, 0)] } }).pkg.wave.snap ≠ [] ∧
      (State.reset.modPkg fun p => { p with coord := 0x8000 }).children = [1]) ∧
    ((second.modPkg fun p => { p with coord := 0x1010000 }).chip ≠ 0 ∧ (second.modPkg fun p => { p with coord := 0x1010000 }).children ≠ [] ∧
      (second.modPkg fun p => { p with wave := { p.wave with snap := [(0, 0, 0, 0)] } }).pkg.wave.snap ≠ []) := by decide +kernel

/-- One task alone, with its controller copy at 0x80000. -/
def alone (t : Task) : State := { State.reset with tasks := [(0, t)], taskNext := 1, orderNext := 1 }

theorem witness_TheSchedulerMovesTasks :
    (let s := alone { task .staging with rangePtr := 0x4000 };
      (s.task 0).state = .staging ∧ (s.task 0).leases = [] ∧ (s.task 0).stolen = false ∧ s.pageWaits (s.task 0).rangePtr 384 false = false ∧
        rangeBlockOk (rangeBlock (s.readIA (s.task 0).rangePtr 384)) = true) ∧
    (let s := alone (task .ready);
      s.pkg.power = .on ∧ s.pkg.packageError = false ∧ (task .ready).cluster = 0 ∧ (task .ready).hasRun = false ∧ (task .ready).gang = 1 ∧
        s.rangesWait (task .ready) = false ∧ s.placeNew 0 = some [0]) ∧
    (let s := onTile (fun t => { t with recs := [{ record none with readyAt := some 0 }] }) (alone (task .running));
      (s.strand 3).live = false ∧ s.halted 0 = false ∧ (s.tile 0).draining = false ∧ (s.nextRecord 3).isSome = true ∧ s.rangesWait (s.task 0) = false) ∧
    (let s := (alone { task .ready with level := 1 }).modPkg fun p => { p with frame := 0x10001 };
      (s.task 0).state = .ready ∧ 0 < (s.task 0).level ∧ s.pkg.schedAge.toNat < (s.frame - (s.task 0).enteredAt).toNat) := by decide +kernel

/-- Every slot of cluster 0 is taken by task 1, of a lower priority than task 0. -/
def crowded : State :=
  { (State.reset.modPkg fun p => { p with frame := 0x10000 }) with
    tasks := [(0, task .ready), (1, { task .running with level := 2 })]
    strands := (List.range 128).map fun n => (n, { live := true, task := some 1 }) }

/-- A task whose members have all left for a pre-emption, and the members' record. -/
def preempted : State :=
  onTile (fun t => { t with recs := [{ record none with reason := 0x10, readyAt := some 0 }] })
    (alone { task .preempted with members := [{ record := some (0, 0) }], hasRun := true })

theorem witness_TheSchedulerPreemptsAndSteals :
    ((crowded.task 0).state = .ready ∧ (crowded.task 0).level = 0 ∧
      crowded.pkg.schedAge.toNat ≤ (crowded.frame - (crowded.task 0).agedAt).toNat ∧
      (let aged := crowded.modTask 0 fun t => { t with agedAt := crowded.frame }
       aged.canUse 0 = false ∧ (aged.victim (crowded.task 0).cluster).map (fun x => (x.1, decide (0 < x.2.level))) = some (1, true)) ∧
      (alone (task .ready)).canUse 0 = true) ∧
    (let s : State := { queue 28 (qcw 0x20000 16 64 2 1 0 0) small with tasks := [(0, { fetchTask with preempting := true })] };
      (s.task 0).state = .running ∧ (s.task 0).preempting = true ∧ (s.withdraw 0 []).isSome = true) ∧
    ((preempted.task 0).state = .preempted ∧ (∀ m ∈ (preempted.task 0).members, (m.record.isSome = true ∧ preempted.inHandler m = false) ∨ m.ended = true) ∧
      (∃ m ∈ (preempted.task 0).members, m.ended = false) ∧ (preempted.rewriteMembers 0).isSome = true ∧ (preempted.stopCommands 0 []).isSome = true) ∧
    (let s := (alone (task .ready)).modPkg fun p => { p with clusters := [0, 1] };
      s.pkg.stealCtl.getLsbD 16 = true ∧ Tab.find s.pkg.stoleAt 1 = none ∧ s.idle 1 = true ∧ 1 < s.pkg.clusters.length ∧ s.adjacent 1 = [0] ∧
        s.queueOf 0 = [(0, s.task 0)] ∧ s.readyTasks 0 = [(0, s.task 0)] ∧ stealable (0, s.task 0) = true ∧ (s.task 0).copiesIn = false) ∧
    (let s := departed small;
      s.cur.departing = some departing ∧ s.commitsNow 0 = true ∧ s.commitTurn 0 = true) := by decide +kernel

theorem witness_TheSchedulerEndsWaits :
    (let s := onTile (fun t => { t with recs := [{ record none with backoffAt := some 0 }] }) small;
      (s.tile 0).recs.find? (fun r => r.num == 0 && !r.gone) = some { record none with backoffAt := some 0 } ∧
        (s.tileCycles 0 - 0).toNat < 2 ^ 63) ∧
    (let s := onTile (fun t => { t with recs := [record none], swaps := [(0, 0)] }) small;
      (s.tile 0).swaps = (0, 0) :: [] ∧ (s.tile 0).recs.find? (fun r => r.num == 0) = some (record none) ∧ s.halted 0 = false ∧
        (∀ c ∈ (commands [command 1 4 .queued 8] s).tiles.flatMap (·.2.cmds), c.engine = 1 → c.state ≠ .running ∧ ¬(c.task = 7 ∧ c.rank = 0))) ∧
    (let s := alone { task .retiring with succs := some [0x90000], members := [{ ended := true }] };
      (s.task 0).state = .retiring ∧ (∀ m ∈ (s.task 0).members, m.ended = true) ∧ s.outstanding 0 0 = false ∧ s.failuresLeft 0 = false ∧
        (s.task 0).failure = none ∧ (s.task 0).succs.isSome = true ∧ (s.task 0).complPtr = 0 ∧ (s.complete 0).isSome = true) ∧
    (let s := bytes 0x4000 32 (qcw 0x8000 2 64 4 1 0 1) (alone { task .retiring with succs := some [], complPtr := 0x4000, members := [{ ended := true }] });
      s.queueWaits (s.task 0).complPtr = none ∧ (s.complete 0).isSome = true) ∧
    (let s := bytes 0x4000 32 (qcw 0x8000 2 64 7 1 0 1) { State.reset with jobs := [(9, { heldErrors := [(0x4000, List.replicate 64 0)] })] };
      (s.job 9).heldErrors = (0x4000, List.replicate 64 0) :: [] ∧ s.pageWaits 0x4000 32 true = false ∧ s.queueShut 0x4000 = false ∧ (s.qcwAt 0x4000).valid = true ∧ (s.qcwAt 0x4000).kind = 7 ∧
        (s.qcwAt 0x4000).elem = 64 ∧ (s.qcwAt 0x4000).occupancy < (s.qcwAt 0x4000).depth) := by decide +kernel

/-- Each engine at a word of its own that waits for a token, with every queue empty. -/
def stuck : State :=
  (tokens 0 (bytes 0 16 (0x80000000 + 2 ^ 32 * 0x85900000 + 2 ^ 64 * 0x89700000 + 2 ^ 96 * 0x8D900000) small)).modCur fun t =>
    { t with pcs := #v[0, 1, 2, 3], walks := #v[0, 1, 2, 3] }

theorem witness_RingDeadlock :
    stuck.cur.live = true ∧ stuck.halted 0 = false ∧ stuck.cur.departing = none ∧ stuck.cur.flights = [] ∧
    [Engine.s, .l, .a, .w].all (fun e => stuck.engineHeld e && stuck.ringHeld e) = true := by decide +kernel

/-- A page of 2 MiB at 0x10000000000 in frame 0x200000, and its walk. -/
def paged : State :=
  let put (m : List Host.Cell) (a x : Nat) : List Host.Cell := cellsWrite m a (toBytes 8 x)
  { State.reset with
    mem := put (put (put (put [] 0x180000000 0x10001) (frameAt 0x10020) 0x11001) (frameAt 0x11000) 0x12001) (frameAt 0x12000) 0x200007 }

theorem witness_PagesAndDebugEventsAct :
    let leaf : Leaf := ⟨0x12000, 0x200000, 0x200000, true, 0⟩
    let halted := onTile (fun t => { t with stopped := true }) small
    let sampled := (onTile (fun t => { t with traceCtl := 10 * 2 ^ 11, traceBase := 1 }) small).modPkg fun p => { p with frame := 1024 }
    (paged.region 0x10000000000 = some .memory ∧ paged.walk 0x10000000000 = some leaf ∧ paged.pkg.migrations = [] ∧
      (paged.leaf leaf.entryAt 0x400007 leaf.size).isSome = true ∧ paged.pkg.hostHeld = [] ∧ paged.pkg.dumps = [] ∧ Memory.wf paged.mem = true ∧
      paged.pinned 0x10000000000 0x200000 = false ∧
      ({ paged with tasks := [(0, { fetchTask with extents := [(0x10000000000, 0x10000000000, false)] })] } : State).pinned 0x10000000000 0x200000 = true) ∧
    (paged.installEntry 0x10000000000 0x400007 true).isSome = true ∧
    (chipOf 0x4000 = small.chip ∧ small.region (localOf 0x4000) = some .slice ∧ (localOf 0x4000 / 16 * 16, 16) ∉ small.pkg.badUnits ∧
      small.pkg.dumps = []) ∧
    (let s := (bytes 0x180002000 8 0x4000 (bytes 0x180002008 8 (1 + 2 ^ 12) (bytes 0x4000 32 (2 ^ 128 * 3 + 2 ^ 144 + 2 ^ 160 * 8) small))).modPkg fun p =>
        { p with hints := [(3, [(1, 5)])] };
      s.pkg.hints = (3, [(1, 5)]) :: [] ∧ s.pkg.toPromote = [] ∧ s.experts.map (fun x => (x.layer, x.score)) = [(3, 8)] ∧
      (∀ x ∈ (s.perform 0x4014 (toBytes 4 11)).experts, x.layer = 3 + 1 → False)) ∧
    (let s := (bytes 0x180002008 8 1 small).modPkg fun p => { p with toPromote := [0] };
      s.pkg.toPromote = [0] ∧ s.pkg.promoted = [] ∧ ((s.experts.getD 0 default).length + 0x1FFFFF) / 0x200000 ≤ field (s.readNum 0x180002008 8) 20 16 ∧
      (s.promotePages (s.expertPages ((s.experts.getD 0 default).length / 0x10000 + 1) (localOf (s.experts.getD 0 default).ia)
        (localOf (s.experts.getD 0 default).ia + (s.experts.getD 0 default).length))).isSome = true) ∧
    ((onTile (fun t => { t with stopAt := 2 ^ 63 }) small).tile 0).stopAt.getLsbD 63 = true ∧
    (wfield (2 ^ 63) 0 63 ≤ small.frame.toNat ∧ 0 < small.tileCount ∧ (0 : W64) ≤ small.frame ∧ small.frame < 1) ∧
    ((halted.tile 0).stopped = true ∧ halted.pkg.packageError = false ∧ halted.pkg.hostHeld = [] ∧ halted.pkg.dumps = []) ∧
    (let s := bytes 0x180007010 1 1 small;
      (Tab.find s.tasks 0).isSome = true ∧ bitAt (s.readNum (0x180007000 + 32 * s.dumpSlot 0 + 16) 1) 0 = true ∧ s.dumpBusy 0 = false) ∧
    (10 = field (sampled.tile 0).traceCtl.toNat 11 5 ∧ sampled.halted 0 = false ∧ (sampled.tile 0).traceBase.getLsbD 0 = true ∧
      (sampled.tile 0).traceRoom = true ∧
      sampled.frame.toNat / 2 ^ 10 ≠ (sampled.tile 0).sampledAt.toNat / 2 ^ 10) := by decide +kernel

/-- The same page with an image's header at its first byte, of LENGTH 1. -/
def imaged : State := { paged with mem := cellsWrite paged.mem (frameAt 0x20000C) [1] }

theorem imaged_walk (i : Nat) (h : i < 0x200000) : imaged.walk (0x10000000000 + i) = some ⟨0x12000, 0x200000, 0x200000, true, 0⟩ := by
  have h1 : field (0x10000000000 + i) 38 9 = 4 := by unfold field; omega
  have h2 : field (0x10000000000 + i) 29 9 = 0 := by unfold field; omega
  have h3 : field (0x10000000000 + i) 21 8 = 0 := by unfold field; omega
  simp only [State.walk, h1, h2, h3]
  have h0 : ∀ x : Nat, (if bitAt (imaged.pte 0x12000) 1 then imaged.leaf 0x12000 (imaged.pte 0x12000) 0x200000 else
    (ptNext (imaged.pte 0x12000) 0x100).bind fun n0 => imaged.leaf (n0 + 8 * x) (imaged.pte (n0 + 8 * x)) 0x10000) = some ⟨0x12000, 0x200000, 0x200000, true, 0⟩ := by
    intro x
    rw [if_pos (by decide +kernel)]
    decide +kernel
  have a1 : ofBytes (cellsRead imaged.mem 0x180000000 8) = 0x10001 := by decide +kernel
  have a2 : ptNext (imaged.pte (0x1000 * field 0x10001 12 36 + 8 * 4)) 0x1000 = some 0x11000 := by decide +kernel
  have a3 : ptNext (imaged.pte (0x11000 + 8 * 0)) 0x800 = some 0x12000 := by decide +kernel
  rw [a1, if_neg (by decide), a2]
  simp only [Option.bind_some, a3]
  exact h0 _

theorem imaged_region (i : Nat) (h : i < 0x200000) : imaged.region (0x10000000000 + i) = some .memory := by
  have : imaged.tileCount = 512 := by decide +kernel
  simp only [State.region, this]
  rw [if_neg (by omega), if_neg (by omega), if_pos (by omega)]

theorem imaged_placed (n : Nat) (h : n ≤ 0x200000) : imaged.placed 0x10000000000 n false = true := by
  simp only [State.placed, List.all_eq_true, List.mem_range]
  intro i hi
  rw [imaged_region i (by omega), imaged_walk i (by omega)]
  rfl

theorem imaged_image : ∃ f, imaged.imageAt 0x10000000000 = some f := by
  have h : imaged.holdsImage 0x10000000000 4096 = true := by
    simp only [State.holdsImage, Bool.and_eq_true]
    exact ⟨⟨⟨⟨by decide +kernel, by decide +kernel⟩, by decide +kernel⟩, imaged_placed 4096 (by decide)⟩, by decide +kernel⟩
  have g : imaged.holdsImage (0x10000000000 + 4096) 1 = true := by decide +kernel
  have l : fieldAt (imaged.readIA 0x10000000000 4096) 0xC 4 = 1 := by decide +kernel
  simp only [State.imageAt, h, l, g]
  exact ⟨_, rfl⟩

/-! Decoding: words put together from the formats and maps of the spec, and words that the spec writes out. -/

/-- The words decode to the instruction, in as many words. -/
def decodesTo (w : W32) (ext : Option W32) (i : Instr) : Bool :=
  match decodeWords w ext with
  | .ok (j, n) => j == i && n == (if ext.isSome then 2 else 1)
  | .error _ => false

def decodes (rows : List (W32 × Option W32 × Instr)) : Bool := rows.all fun r => decodesTo r.1 r.2.1 r.2.2

/-- The decoder refuses the words by this name. -/
def decodeRefuses (w : W32) (ext : Option W32) (e : DecodeError) : Bool :=
  match decodeWords w ext with
  | .ok _ => false
  | .error f => f == e

/-- Words of the family put together from the formats of R304 and R305 and the maps of R312 to R315. -/
theorem test_decodes_arithmetic : decodes
    [(0x50018c48, none, .add ⟨5, 3, false, 6, false, 9⟩),
     (0xe00562b1, none, .sub ⟨14, 10, true, 17, false, 22⟩),
     (0x7008b91a, none, .andW ⟨7, 17, false, 28, true, 3⟩),
     (0x9cf83, none, .orW ⟨0, 19, true, 7, true, 16⟩),
     (0x900fa4ec, none, .xorW ⟨9, 31, false, 18, false, 29⟩),
     (0x20037a55, none, .shl ⟨2, 6, true, 29, false, 10⟩),
     (0xb00691be, none, .shrl ⟨11, 13, false, 8, true, 23⟩),
     (0x400a6727, none, .shra ⟨4, 20, true, 19, true, 4⟩),
     (0xd01dbc88, none, .mul ⟨13, 27, false, 30, false, 17⟩),
     (0x601152f1, none, .mulh ⟨6, 2, true, 9, false, 30⟩),
     (0xf014a95a, none, .mulhu ⟨15, 9, false, 20, true, 11⟩),
     (0x8019ffc3, none, .minW ⟨8, 19, true, 31, true, 24⟩),
     (0x101b942c, none, .minu ⟨1, 23, false, 10, false, 5⟩),
     (0xa01f6a95, none, .maxW ⟨10, 30, true, 21, false, 18⟩),
     (0x301281fe, none, .maxu ⟨3, 5, false, 0, true, 31⟩)] = true := by decide

/-- Words of the family put together from the formats of R304 and R305 and the maps of R312 to R315. -/
theorem test_decodes_divide_and_select : decodes
    [(0xc0265760, none, .div ⟨12, 12, true, 11, true, 12⟩),
     (0x5029acc9, none, .divu ⟨5, 19, false, 22, false, 25⟩),
     (0xe02d4232, none, .rem ⟨14, 26, true, 1, false, 6⟩),
     (0x7020999b, none, .remu ⟨7, 1, false, 12, true, 19⟩),
     (0x29ee04, none, .clz ⟨0, 19, true, 23⟩),
     (0x90278405, none, .popc ⟨9, 15, false, 2⟩),
     (0x20335ad4, none, .cmp ⟨2, 6, true, 13, false, 26, 4⟩),
     (0xb04eb13e, none, .sel ⟨11, 29, false, 24, true, 7, 6⟩)] = true := by decide

/-- Words of the family put together from the formats of R304 and R305 and the maps of R312 to R315. -/
theorem test_decodes_immediates : decodes
    [(0x405247f0, none, .addi ⟨4, 4, true, 3, 496⟩),
     (0xd0659df1, none, .andi ⟨13, 11, false, 14, 497⟩),
     (0x607973f2, none, .ori ⟨6, 18, true, 25, 498⟩),
     (0xf08c89f3, none, .xori ⟨15, 25, false, 4, 499⟩),
     (0x8099de25, none, .shli ⟨8, 19, true, 15, 37⟩),
     (0xa281ff, some 0xffffffd, .movi 0 5 0x1FFFFFFFFD),
     (0x60bad400, some 0x123456f, .movhi ⟨6, 21, true, 10, 0x123456F⟩),
     (0x60cad4a5, some 0x123456f, .lea 6 21 true 10 0x0A5123456F),
     (0x60dad400, some 0x5c5, .bfx ⟨6, 21, true, 10, 5, 23⟩),
     (0x60e4a200, some 0xe8, .bfi ⟨6, 9, false, 17, 40, 3⟩)] = true := by decide

/-- Words of the family put together from the formats of R304 and R305 and the maps of R312 to R315. -/
theorem test_decodes_branches : decodes
    [(0x105ffd0, none, .pbr 0 2 0x1FFD0),
     (0x611a0000, some 0x9abcdef, .pbrxImm 6 5 0x9ABCDEF),
     (0x611b6600, some 0x9abcdef, .pbrxReg 6 5 true 19 0x9ABCDEF),
     (0xa12cf234, none, .br 10 6 3 true 0x1234),
     (0xa13c1234, none, .call 10 6 0x1234),
     (0xa1400fed, none, .ret 10 0x0FED),
     (0x615a6600, some 0xbeef, .loopW 6 5 true 19 0xBEEF)] = true := by decide

/-- Words of the family put together from the formats of R304 and R305 and the maps of R312 to R315. -/
theorem test_decodes_control : decodes
    [(0x11600000, none, .endW 1),
     (0xa1700000, none, .yield 10),
     (0x31800000, none, .idem 3),
     (0xc1b00000, none, .bkpt 12),
     (0x51c00000, none, .rte 5),
     (0xe2500000, none, .bar 14),
     (0x72700000, none, .accswap 7),
     (0x3190010a, some 0x1234567, .live 3 true 0xA1234567),
     (0x31a000c7, none, .trapW 3 0xC7)] = true := by decide

/-- Words of the family put together from the formats of R304 and R305 and the maps of R312 to R315. -/
theorem test_decodes_system : decodes
    [(0x2004e00, none, .spawn ⟨0, true, 7⟩),
     (0x92102400, none, .tdec ⟨9, false, 18⟩),
     (0x22207a50, none, .amsg ⟨2, true, 29, false, 10⟩),
     (0x2313002, none, .ecmd 0 1 false 12 2),
     (0xb24011b8, none, .xpf ⟨11, false, 8, true, 23⟩),
     (0x426a0000, none, .qwait 4 20),
     (0x628a8123, none, .getc 6 21 0x123),
     (0x62906b23, none, .setc 6 true 21 0x123),
     (0xd2ad8000, none, .rdcyc 13 27),
     (0x62b10000, none, .rdfrm 6 2),
     (0x62c06b23, none, .trmark 6 true 21 0x123),
     (0x62da8123, none, .perfrd 6 21 0x123),
     (0x33f00155, none, .skip 3 0 341),
     (0x47f00156, none, .skip 4 1 342),
     (0x5bf00157, none, .skip 5 2 343),
     (0x6ff00158, none, .skip 6 3 344)] = true := by decide

/-- Words of the family put together from the formats of R304 and R305 and the maps of R312 to R315. -/
theorem test_decodes_loads : decodes
    [(0xf404a9e0, none, .ld ⟨15, 0, 9, false, 20, 480⟩),
     (0x8419ffe1, none, .ld ⟨8, 1, 19, true, 31, 481⟩),
     (0x142b95e2, none, .ld ⟨1, 2, 23, false, 10, 482⟩),
     (0xa43f6be3, none, .ld ⟨10, 3, 30, true, 21, 483⟩),
     (0x34428155, none, .ldv ⟨3, 5, false, 0, 341⟩),
     (0xc4565760, none, .ldvs ⟨12, 12, true, 11, true, 12⟩),
     (0x5469acca, none, .ldvx ⟨5, 19, false, 22, false, 25, 2⟩),
     (0xe48d42e0, none, .gld ⟨14, 0, 26, true, 1, 224⟩),
     (0x749098e1, none, .gld ⟨7, 1, 1, false, 12, 225⟩),
     (0x4a9eee2, none, .gld ⟨0, 2, 19, true, 23, 226⟩),
     (0x94b784e3, none, .gld ⟨9, 3, 15, false, 2, 227⟩),
     (0x24cb5ad5, none, .gldv ⟨2, 22, true, 13, false, 26, 5⟩),
     (0xb50eb000, none, .getf ⟨11, 29, false, 24⟩),
     (0x45124600, none, .flrd ⟨4, 4, true, 3⟩),
     (0xd5201c08, none, .rngwait ⟨13, false, 14, false, 1⟩),
     (0x558e0000, none, .fenceL 5 3 2),
     (0x5900000, none, .markL 0)] = true := by decide

/-- Words of the family put together from the formats of R304 and R305 and the maps of R312 to R315. -/
theorem test_decodes_stores : decodes
    [(0x6c097270, none, .st ⟨6, 18, true, 25, false, 14, 0⟩),
     (0xfc0c89d9, none, .st ⟨15, 25, false, 4, true, 27, 1⟩),
     (0x8c09df42, none, .st ⟨8, 19, true, 15, true, 8, 2⟩),
     (0x1c03b4ab, none, .st ⟨1, 7, false, 26, false, 21, 3⟩),
     (0xac174a10, none, .stv ⟨10, 14, true, 5, false, 2⟩),
     (0x3c2aa178, none, .stvs ⟨3, 21, false, 16, true, 15⟩),
     (0xcc3e77e2, none, .stvx ⟨12, 28, true, 27, true, 28, 2⟩),
     (0x5c418c48, none, .gst ⟨5, 3, false, 6, false, 9, 0⟩),
     (0xec4562b1, none, .gst ⟨14, 10, true, 17, false, 22, 1⟩),
     (0x7c48b91a, none, .gst ⟨7, 17, false, 28, true, 3, 2⟩),
     (0xc49cf83, none, .gst ⟨0, 19, true, 7, true, 16, 3⟩),
     (0x9c5fa4ee, none, .gstv ⟨9, 31, false, 18, false, 29, 6⟩),
     (0x2c607a50, none, .putf ⟨2, true, 29, false, 10⟩),
     (0xbc7b11b8, none, .fladd ⟨11, 2, 3, false, 8, true, 23⟩),
     (0x4c866720, none, .flwait ⟨4, 1, 2, true, 19, true, 4⟩ false),
     (0xdc803c89, none, .flwait ⟨13, 0, 0, false, 30, false, 17⟩ true),
     (0x6c905200, none, .rngrel ⟨6, true, 9⟩),
     (0xfca02958, none, .pub ⟨15, false, 20, true, 11⟩),
     (0x5d8b0000, none, .fenceW 5 2 3),
     (0xd900000, none, .markW 0)] = true := by decide

/-- Words of the family put together from the formats of R304 and R305 and the maps of R312 to R315. -/
theorem test_decodes_atomics : decodes
    [(0x8e09ffc0, none, .amoAdd ⟨8, 19, true, 31, true, 24, 0⟩),
     (0x1f001429, none, .amoAddNr ⟨1, false, 10, false, 5, 1⟩),
     (0xae1f6a91, none, .amoAnd ⟨10, 30, true, 21, false, 18, 1⟩),
     (0x3f1001fa, none, .amoAndNr ⟨3, false, 0, true, 31, 2⟩),
     (0xce265762, none, .amoOr ⟨12, 12, true, 11, true, 12, 2⟩),
     (0x5f202ccb, none, .amoOrNr ⟨5, false, 22, false, 25, 3⟩),
     (0xee3d4233, none, .amoXor ⟨14, 26, true, 1, false, 6, 3⟩),
     (0x7f301998, none, .amoXorNr ⟨7, false, 12, true, 19, 0⟩),
     (0xe49ef00, none, .amoMin ⟨0, 19, true, 23, true, 0, 0⟩),
     (0x9f400469, none, .amoMinNr ⟨9, false, 2, false, 13, 1⟩),
     (0x2e5b5ad1, none, .amoMax ⟨2, 22, true, 13, false, 26, 1⟩),
     (0xbf50313a, none, .amoMaxNr ⟨11, false, 24, true, 7, 2⟩),
     (0x4e6247a2, none, .amoMinu ⟨4, 4, true, 3, true, 20, 2⟩),
     (0xdf601c0b, none, .amoMinuNr ⟨13, false, 14, false, 1, 3⟩),
     (0x6e797273, none, .amoMaxu ⟨6, 18, true, 25, false, 14, 3⟩),
     (0xff7009d8, none, .amoMaxuNr ⟨15, false, 4, true, 27, 0⟩),
     (0x8e89df40, none, .amoSwap ⟨8, 19, true, 15, true, 8, 0⟩),
     (0x1f8034a9, none, .amoSwapNr ⟨1, false, 26, false, 21, 1⟩),
     (0xae974a11, none, .amoCas ⟨10, 14, true, 5, false, 2, 1⟩),
     (0x3eaaa17a, none, .amoFmin ⟨3, 21, false, 16, true, 15⟩),
     (0xcfa077e2, none, .amoFminNr ⟨12, true, 27, true, 28⟩),
     (0x5eb18c4a, none, .amoFmax ⟨5, 3, false, 6, false, 9⟩),
     (0xefb062b2, none, .amoFmaxNr ⟨14, true, 17, false, 22⟩),
     (0x7ec8b91a, none, .amoFadd ⟨7, 17, false, 28, true, 3⟩),
     (0xfc04f82, none, .amoFaddNr ⟨0, true, 7, true, 16⟩),
     (0x9fd024ec, none, .amoXadd ⟨9, false, 18, false, 29, 4⟩)] = true := by decide

/-- Words of the family put together from the formats of R304 and R305 and the maps of R312 to R315. -/
theorem test_decodes_lanes : decodes
    [(0x28037a50, none, .vadd ⟨2, 6, true, 29, false, 10, 0⟩),
     (0xb81691b9, none, .vsub ⟨11, 13, false, 8, true, 23, 1⟩),
     (0x482a6722, none, .vmul ⟨4, 20, true, 19, true, 4, 2⟩),
     (0xd83dbc8b, none, .vfma ⟨13, 27, false, 30, false, 17, 3⟩),
     (0x684152f4, none, .vfms ⟨6, 2, true, 9, false, 30, 4⟩),
     (0xf854a95d, none, .vmin ⟨15, 9, false, 20, true, 11, 5⟩),
     (0x8869ffc0, none, .vmax ⟨8, 19, true, 31, true, 24, 0⟩),
     (0x187b9404, none, .vabs ⟨1, 23, false, 10, 4⟩),
     (0xa88f6a05, none, .vneg ⟨10, 30, true, 21, 5⟩),
     (0x389281f8, none, .vand ⟨3, 5, false, 0, true, 31⟩),
     (0xc8a65760, none, .vor ⟨12, 12, true, 11, true, 12⟩),
     (0x58b9acc8, none, .vxor ⟨5, 19, false, 22, false, 25⟩),
     (0xe8cd4230, none, .vshl ⟨14, 26, true, 1, false, 6⟩),
     (0x78d09998, none, .vshrL ⟨7, 1, false, 12, true, 19⟩),
     (0x8d9ef01, none, .vshrA ⟨0, 19, true, 23, true, 0⟩),
     (0x99010468, none, .vcmp ⟨9, 0, 2, false, 2, false, 13, 0⟩),
     (0x2911dad1, none, .vcmp ⟨2, 1, 3, true, 13, false, 26, 1⟩),
     (0xb922313a, none, .vcmp ⟨11, 2, 4, false, 24, true, 7, 2⟩),
     (0x4932c7a3, none, .vcmp ⟨4, 3, 5, true, 3, true, 20, 3⟩),
     (0xd9431c09, none, .vcmp ⟨13, 4, 6, false, 14, false, 1, 1⟩),
     (0x6953f272, none, .vcmp ⟨6, 5, 7, true, 25, false, 14, 2⟩),
     (0xf96c89dd, none, .vsel ⟨15, 25, false, 4, true, 27, 5⟩),
     (0x8979de00, none, .vmov ⟨8, 19, true, 15⟩),
     (0x1983b403, none, .vbcast ⟨1, 7, false, 26, 3⟩)] = true := by decide

/-- Words of the family put together from the formats of R304 and R305 and the maps of R312 to R315. -/
theorem test_decodes_lane_moves : decodes
    [(0xa9974a3f, none, .vext ⟨10, 14, true, 5, 63⟩),
     (0x39aaa000, none, .viota ⟨3, 21, false, 16⟩),
     (0xc9be77e0, none, .vperm ⟨12, 28, true, 27, true, 28⟩),
     (0x59c18c29, none, .vrot ⟨5, 3, false, 6, 41⟩),
     (0xe9d50a00, none, .vpopc 14 10 5),
     (0x79e8b834, none, .vred ⟨7, 17, false, 28, 6, 4⟩),
     (0x9e9ce19, none, .vred ⟨0, 19, true, 7, 3, 1⟩),
     (0x99ffa415, none, .vscan ⟨9, 31, false, 18, 2, 5⟩),
     (0x2a037a53, none, .vcvt ⟨2, 6, true, 29, false, 10, 3⟩),
     (0xba169014, none, .vrnd ⟨11, 13, false, 8, 2, 4⟩),
     (0x4a2a6603, none, .vfexp ⟨4, 20, true, 19, 3⟩),
     (0xda3dbc8d, none, .vscale ⟨13, 27, false, 30, false, 17, 5⟩),
     (0x6a415203, none, .vgetexp ⟨6, 2, true, 9, 3⟩),
     (0xfa54a804, none, .vrcp ⟨15, 9, false, 20, 4⟩),
     (0x8a69fe05, none, .vrsq ⟨8, 19, true, 31, 5⟩),
     (0x1a7b9403, none, .vflog ⟨1, 23, false, 10, 3⟩),
     (0xaa8f6a90, none, .vrand ⟨10, 30, true, 21, false, 18⟩),
     (0x3a9281f5, none, .vsrnd ⟨3, 5, false, 0, true, 15, 5⟩),
     (0xcaa65762, none, .vquant ⟨12, 12, true, 11, true, 6, 2⟩),
     (0x5ab9acce, none, .vdeq ⟨5, 19, false, 22, false, 25, 6⟩),
     (0xeacd4230, none, .vxacc ⟨14, 26, true, 1, false, 6⟩),
     (0x7b009998, none, .accrd ⟨7, 1, false, 12, true, 19⟩),
     (0xb106f00, none, .accclr ⟨0, true, 23, true, 0⟩),
     (0x9b200400, none, .xclr ⟨9, false, 2⟩),
     (0x2b305ad3, none, .xaddv ⟨2, true, 13, false, 26, 3⟩),
     (0xbb4eb004, none, .xrd ⟨11, 29, false, 24, 4⟩)] = true := by decide

/-- Words of the family put together from the formats of R304 and R305 and the maps of R312 to R315, worked by the spec in R316. -/
theorem test_decodes_worked_examples : decodes
    [(0x80010720, none, .add ⟨8, 2, false, 3, true, 4⟩),
     (0x98018215, none, .vadd ⟨9, 3, false, 1, false, 2, 5⟩),
     (0x4b39200, none, .gld ⟨0, 3, 7, false, 9, 0⟩),
     (0xc790640, none, .fladd ⟨0, 2, 1, false, 3, false, 8⟩),
     (0xa281ff, some 0xffffffd, .movi 0 5 0x1FFFFFFFFD),
     (0x105ffd0, none, .pbr 0 2 0x1FFD0),
     (0x2313002, none, .ecmd 0 1 false 12 2),
     (0x5900000, none, .markL 0),
     (0xd900000, none, .markW 0)] = true := by decide

/-- Words that spec/14_reference_a_to_e.md writes out beside their assembly text. -/
theorem test_decodes_words_of_14 : decodes
    [(0xb020418, none, .accrd ⟨0, 4, false, 2, false, 3⟩),
     (0xe939253, none, .amoCas ⟨0, 7, false, 9, false, 10, 3⟩),
     (0x2200620, none, .amsg ⟨0, false, 3, false, 4⟩),
     (0x2500000, none, .bar 0),
     (0xd18800, some 0x3c8, .bfx ⟨0, 3, false, 4, 8, 15⟩),
     (0x124e000, none, .br 0 2 3 true 0),
     (0x310624, none, .cmp ⟨0, 2, false, 3, false, 4, 4⟩)] = true := by decide

/-- Words that spec/15_reference_f_to_s.md writes out beside their assembly text. -/
theorem test_decodes_words_of_15 : decodes
    [(0x4220402, none, .ld ⟨0, 2, 4, false, 2, 2⟩),
     (0xc01122b, none, .st ⟨0, 2, false, 9, false, 5, 3⟩),
     (0xc850641, none, .flwait ⟨0, 1, 1, false, 3, false, 8⟩ true),
     (0x58e0000, none, .fenceL 0 3 2),
     (0xd8e0000, none, .fenceW 0 3 2),
     (0x410625, none, .sel ⟨0, 2, false, 3, false, 4, 5⟩),
     (0x2838011, none, .getc 0 7 0x11),
     (0x930c0c, none, .shli ⟨0, 6, false, 6, 12⟩),
     (0x5201458, none, .rngwait ⟨0, false, 10, false, 11⟩),
     (0x1900008, some 0x26, .live 0 false 0x80000026),
     (0x2648000, none, .qwait 0 9),
     (0xbf00003, none, .skip 0 2 3),
     (0x1400000, none, .ret 0 0),
     (0xb28a00, some 0x1234567, .movhi ⟨0, 5, false, 5, 0x1234567⟩),
     (0x1170e00, some 0x4, .pbrxReg 0 3 false 7 4),
     (0x1c00000, none, .rte 0)] = true := by decide

/-- Words that spec/16_reference_t_to_z.md writes out beside their assembly text. -/
theorem test_decodes_words_of_16 : decodes
    [(0x8320215, none, .vfma ⟨0, 4, false, 1, false, 2, 5⟩),
     (0x9210a35, none, .vcmp ⟨0, 2, 2, false, 5, false, 6, 5⟩),
     (0x9e38605, none, .vred ⟨0, 7, false, 3, 0, 5⟩),
     (0x9c11205, none, .vrot ⟨0, 2, false, 9, 5⟩),
     (0xaa28c55, none, .vquant ⟨0, 5, false, 6, false, 5, 5⟩),
     (0xb300625, none, .xaddv ⟨0, false, 3, false, 4, 5⟩),
     (0xb440605, none, .xrd ⟨0, 8, false, 3, 5⟩),
     (0x2100800, none, .tdec ⟨0, false, 4⟩),
     (0x1a00007, none, .trapW 0 7),
     (0x2c00b2c, none, .trmark 0 false 5 300),
     (0x841c, none, .xorW ⟨0, 1, false, 2, false, 3⟩),
     (0x8105ff, none, .xori ⟨0, 2, false, 2, 0x1FF⟩),
     (0x2401868, none, .xpf ⟨0, false, 12, false, 13⟩),
     (0x1700000, none, .yield 0)] = true := by decide

/-- Words that spec/13_formats_and_opcode_map.md writes out beside their assembly text. -/
theorem test_decodes_words_of_13 : decodes
    [(0x1ff00000, none, .skip 1 3 0),
     (0xa20000, some 0x5, .movi 0 4 5),
     (0x1520800, some 0x2, .loopW 0 1 false 4 2),
     (0x510401, none, .addi ⟨0, 2, false, 2, 1⟩),
     (0x530dff, none, .addi ⟨0, 6, false, 6, 0x1FF⟩),
     (0x1600000, none, .endW 0)] = true := by decide

/-- Words that the maps leave unassigned or reserve, fields that must be zero, and an extension word with a DQ nibble: R310 in
its order. -/
theorem test_decode_refuses : ([
     (0xf00000, none, .reservedOp),
     (0x1d00000, none, .reservedOp),
     (0x2e00000, none, .reservedOp),
     (0x3e00000, none, .reservedOp),
     (0x4700000, none, .reservedOp),
     (0x5a00000, none, .reservedOp),
     (0x8e00000, none, .reservedOp),
     (0xad00000, none, .reservedOp),
     (0xb500000, none, .reservedOp),
     (0xcb00000, none, .reservedOp),
     (0xe900004, none, .reservedOp),
     (0xf900000, none, .reservedOp),
     (0xfe00000, none, .reservedOp),
     (0x100007, none, .reservedOp),
     (0x200006, none, .reservedOp),
     (0x1600001, none, .reservedOp),
     (0x5100001, none, .reservedOp),
     (0xc000004, none, .reservedOp),
     (0xc800002, none, .reservedOp),
     (0xea00003, none, .reservedOp),
     (0x8d00002, none, .reservedOp),
     (0x340000, none, .operand),
     (0x20000c, none, .operand),
     (0x1608000, none, .operand),
     (0x1302000, none, .operand),
     (0x1420000, none, .operand),
     (0x1a00200, none, .operand),
     (0x2800200, none, .operand),
     (0xc908000, none, .operand),
     (0x5808000, none, .operand),
     (0xbf00200, none, .operand),
     (0xaa28c5d, none, .operand),
     (0xa00200, some 0x5, .operand),
     (0xb00001, some 0x5, .operand),
     (0xd18800, some 0x13c8, .operand),
     (0x1508000, some 0x2, .operand),
     (0x1510000, some 0x2, .operand),
     (0x1900010, some 0x0, .operand),
     (0x1100001, some 0x0, .operand),
     (0xa20000, some 0x10000005, .dqExt),
     (0xa00200, some 0x80000005, .dqExt),
     (0xa20000, none, .truncated),
     (0x1c08000, none, .operandSup)]
    : List (W32 × Option W32 × DecodeError)).all (fun r => decodeRefuses r.1 r.2.1 r.2.2) = true := by decide

/-! Ill-formed terms: each limit of the maps and of the package, one past it or below it. -/

/-- Each limit of R307 to R315 refuses a word just outside it. -/
theorem test_ill_formed_words : ([
    .cmp ⟨0, 2, false, 3, false, 4, 6⟩, .shli ⟨0, 6, false, 6, 64⟩, .bfx ⟨0, 3, false, 4, 49, 15⟩, .bfi ⟨0, 3, false, 4, 63, 1⟩,
    .loopW 0 1 false 4 0, .trapW 0 256, .ecmd 0 7 false 12 2, .ldvx ⟨0, 1, false, 2, false, 3, 3⟩,
    .stvx ⟨0, 1, false, 2, false, 3, 3⟩, .fenceL 0 0 0, .fenceW 0 0 1, .fladd ⟨0, 1, 0, false, 3, false, 8⟩,
    .flwait ⟨0, 2, 0, false, 3, false, 8⟩ true, .fladd ⟨0, 0, 1, false, 3, false, 8⟩, .amoXadd ⟨0, false, 3, false, 4, 5⟩,
    .vadd ⟨0, 4, false, 1, false, 2, 6⟩, .vsub ⟨0, 4, false, 1, false, 2, 6⟩, .vmul ⟨0, 4, false, 1, false, 2, 6⟩,
    .vfma ⟨0, 4, false, 1, false, 2, 6⟩, .vfms ⟨0, 4, false, 1, false, 2, 6⟩, .vmin ⟨0, 4, false, 1, false, 2, 6⟩,
    .vmax ⟨0, 4, false, 1, false, 2, 6⟩, .vcvt ⟨0, 4, false, 1, false, 2, 6⟩, .vabs ⟨0, 4, false, 1, 6⟩,
    .vneg ⟨0, 4, false, 1, 7⟩, .vcmp ⟨0, 6, 2, false, 5, false, 6, 5⟩, .vcmp ⟨0, 4, 2, false, 5, false, 6, 3⟩,
    .vbcast ⟨0, 4, false, 1, 6⟩, .vext ⟨0, 4, false, 1, 64⟩, .vrot ⟨0, 4, false, 1, 64⟩, .vred ⟨0, 7, false, 3, 7, 5⟩,
    .vred ⟨0, 7, false, 3, 3, 3⟩, .vred ⟨0, 7, false, 3, 6, 1⟩, .vscan ⟨0, 7, false, 3, 3, 5⟩, .vrnd ⟨0, 7, false, 3, 4, 5⟩,
    .vrnd ⟨0, 7, false, 3, 0, 2⟩, .vscale ⟨0, 4, false, 1, false, 2, 2⟩, .vfexp ⟨0, 4, false, 1, 2⟩,
    .vgetexp ⟨0, 4, false, 1, 2⟩, .vrcp ⟨0, 4, false, 1, 2⟩, .vrsq ⟨0, 4, false, 1, 2⟩, .vflog ⟨0, 4, false, 1, 2⟩,
    .xrd ⟨0, 4, false, 1, 2⟩, .vsrnd ⟨0, 5, false, 6, false, 5, 6⟩, .vquant ⟨0, 5, false, 6, false, 5, 6⟩,
    .vdeq ⟨0, 4, false, 1, false, 2, 7⟩, .xaddv ⟨0, false, 3, false, 4, 1⟩]
    : List Instr).all (fun i => i.wellFormed == false) = true := by decide

/-- Each limit of a command or device event refuses a unit that no package has, or a number outside its range. -/
theorem test_ill_formed_events : ([
    .cpy ⟨512, 0⟩, .cpyg ⟨512, 0⟩, .cpys ⟨512, 0⟩, .mma ⟨512, 0⟩, .epil ⟨512, 0⟩, .mrg ⟨512, 0⟩, .sisect ⟨512, 0⟩,
    .mskev ⟨512, 0⟩, .coll ⟨512, 0⟩, .qctlSpill ⟨512, 0⟩, .commandCompletion ⟨512, 0⟩, .stampEdge ⟨512, 0⟩,
    .copyAgePromotion ⟨512, 0⟩, .ecmdQueueTimeout 4096, .windowWrite 4096 0, .trapFramesWrite 4096 0, .stopAtWrite 512 0,
    .detcauseClear 512 0x140, .detcauseClear 0 0x13F, .detcauseClear 0 0x151, .rangeRegisterWrite 4096 0x100 0,
    .rangeRegisterWrite 0 0xFF 0, .rangeRegisterWrite 0 0x130 0, .arithFlagsWrite 512 0, .boot ⟨[], []⟩,
    .ageingMonitorUpdate 604 0 0 0, .tileFailure 512, .tileService 512, .hbmChannelService 0 384, .lpddrChannelService 0 16,
    .cxlPortService 0 4, .fabricPortService 96 .train, .attestationRequest (2 ^ 256), .keyLoad 0, .keyLoad 512,
    .submissionTailWrite 16 0, .launchTask 16, .launchGraph 16, .trackReset (.queue 16), .endJob (.queue 16), .trackReset (.forwarded 64), .endJob (.forwarded 0xFFFF), .hostPortDown 2, .linkFlitLoss 96,
    .portDown 96 [], .dispatch 32, .relaunch 4096, .clusterSteal 32, .loadReport 512 0, .packageStealRequest 512,
    .departureCommit 4096, .backoffExpiry 512 0, .accswapAtQuiescence 512, .quietBroadcast 64 0, .ringDeadlockDetect 4096,
    .stopAtExpiry 512, .traceSample 512, .heltisStopRequest [0, 512] 0, .heltisResume 512, .heltisAccess 512 (.readS 0 0),
    .linkRetraining 96 0 0, .linkRetraining 0 3 0, .hostPortUp 2]
    : List Instr).all (fun i => i.wellFormed == false) = true := by decide

/-- The words and events at the limits are well formed. -/
theorem test_well_formed : ([
    .cmp ⟨0, 2, false, 3, false, 4, 5⟩, .shli ⟨0, 6, false, 6, 63⟩, .bfx ⟨0, 3, false, 4, 48, 15⟩, .bfi ⟨0, 3, false, 4, 0, 63⟩,
    .loopW 0 1 false 4 0xFFFF, .trapW 0 255, .ecmd 0 6 false 12 3, .ldvx ⟨0, 1, false, 2, false, 3, 2⟩, .fenceW 0 3 3,
    .fladd ⟨0, 0, 0, false, 3, false, 8⟩, .flwait ⟨0, 1, 3, false, 3, false, 8⟩ false, .amoXadd ⟨0, false, 3, false, 4, 4⟩,
    .vadd ⟨0, 4, false, 1, false, 2, 5⟩, .vcmp ⟨0, 5, 2, false, 5, false, 6, 2⟩, .vext ⟨0, 4, false, 1, 63⟩,
    .vred ⟨0, 7, false, 3, 6, 2⟩, .vred ⟨0, 7, false, 3, 5, 2⟩, .vscan ⟨0, 7, false, 3, 2, 5⟩, .vrnd ⟨0, 7, false, 3, 3, 3⟩,
    .vfexp ⟨0, 4, false, 1, 3⟩, .vdeq ⟨0, 4, false, 1, false, 2, 6⟩, .xaddv ⟨0, false, 3, false, 4, 2⟩, .cpy ⟨511, 6⟩,
    .windowWrite 4095 0, .detcauseClear 511 0x150, .rangeRegisterWrite 4095 0x12F 0, .ageingMonitorUpdate 603 0 0 0,
    .keyLoad 511, .dispatch 31, .quietBroadcast 63 0, .linkRetraining 95 2 0]
    : List Instr).all (fun i => i.wellFormed == true) = true := by decide

/-! Results of single words and operations. Each expected value is one that a rule or a worked example of the spec states; the
example's file stands in the comment. -/

/-- One step performs the word. -/
def runs (i : Instr) (s : State) : State := nextOf (exec i s)

/-- The word, then its result. -/
def ends (e : Engine) (i : Instr) (s : State) : State := nextOf ((runs i s).land e)

/-- The flags of tile 0. -/
def raised (s : State) : FlagSet := (s.tile 0).arithFlags

/-- 15: loading 0x1234_5678_9ABC_DEF0 takes MOVI and MOVHI. -/
theorem test_constant_in_two_words :
    ((runs (.movi 0 5 0x89ABCDEF0) small).cur.sreg 5 = 0x89ABCDEF0) ∧
    (runs (.movhi ⟨0, 5, false, 5, 0x1234567⟩) (reg 5 0x89ABCDEF0 small)).cur.sreg 5 = 0x123456789ABCDEF0 := by decide +kernel

/-- R360, R405: truncation toward zero, division by zero, and the quotient that wraps. -/
theorem test_divide_corners :
    let at_ (x y : W64) (i : RRR → Instr) := (ends .s (i ⟨0, 3, false, 1, false, 2⟩) (reg 1 x (reg 2 y small))).cur.sreg 3
    at_ (-7) 2 .div = -3 ∧ at_ (-7) 2 .rem = -1 ∧ at_ 5 0 .div = -1 ∧ at_ 5 0 .remu = 5 ∧
    at_ 0x8000000000000000 (-1) .div = 0x8000000000000000 ∧ at_ 0x8000000000000000 (-1) .rem = 0 := by decide +kernel

/-- R395, R354, R411: the high half of products, CLZ of zero, shift amounts modulo 64. -/
theorem test_scalar_corners :
    let two (x y : W64) (i : RRR → Instr) := (ends .s (i ⟨0, 3, false, 1, false, 2⟩) (reg 1 x (reg 2 y small))).cur.sreg 3
    two (-1) (-1) .mulh = 0 ∧ two (-1) (-1) .mulhu = -2 ∧ two (-8) 65 .shra = -4 ∧ two (-8) 65 .shrl = 0x7FFFFFFFFFFFFFFC ∧
    two 1 2 .sub = -1 ∧ (ends .s (.clz ⟨0, 3, false, 1⟩) small).cur.sreg 3 = 64 ∧
    (runs (.addi ⟨0, 2, false, 2, 0x1FF⟩) small).cur.sreg 2 = -1 := by decide +kernel

/-- R355, R409: signed and unsigned conditions write all ones or zero; SEL reads bit 0 of a predicate. -/
theorem test_compare_and_select :
    let at_ (cc : BitVec 3) := (runs (.cmp ⟨0, 2, false, 1, false, 2, cc⟩) (reg 1 (-1) (reg 2 1 small))).cur.preg 2
    at_ 2 = BitVec.allOnes 64 ∧ at_ 4 = 0 ∧ at_ 1 = BitVec.allOnes 64 ∧ at_ 0 = 0 ∧
    (runs (.sel ⟨0, 3, false, 1, false, 2, 5⟩) (reg 1 7 (reg 2 9 (pred 5 2 small)))).cur.sreg 3 = 9 := by decide +kernel

/-- R384, R415: a load zero-extends; a store writes the low bytes, little-endian, at base plus offset. -/
theorem test_load_and_store :
    let s := reg 2 0x4000 (reg 3 0x1122334455667788 small)
    (ends .l (.ld ⟨0, 0, 5, false, 2, 1⟩) (bytes 0x4001 1 0x80 s)).cur.sreg 5 = 0x80 ∧
    let t := runs (.st ⟨0, 31, false, 2, false, 3, 1⟩) s
    t.readNum 0x3FFE 2 = 0x7788 ∧ t.readNum 0x4000 2 = 0 := by decide +kernel

/-- 14: byte X holds 0x80, and the value is 0x7F. -/
theorem test_atomic_minimum_of_a_byte :
    let s := reg 9 0x4000 (reg 10 0x7F (bytes 0x4000 1 0x80 small))
    let t := ends .w (.amoMin ⟨0, 5, false, 9, false, 10, 0⟩) s
    let u := ends .w (.amoMinu ⟨0, 5, false, 9, false, 10, 0⟩) s
    t.readNum 0x4000 1 = 0x80 ∧ t.cur.sreg 5 = 0xFFFFFFFFFFFFFF80 ∧ u.readNum 0x4000 1 = 0x7F ∧ u.cur.sreg 5 = 0x80 := by decide +kernel

/-- 04: 2^24 + 1 ties to even in FP32, and the event is counted in DETCAUSE. -/
theorem test_atomic_fp_add_rounds :
    let t := runs (.amoFaddNr ⟨0, false, 9, false, 10⟩) (reg 9 0x4000 (reg 10 0x3F800000 (bytes 0x4000 4 0x4B800000 small)))
    t.readNum 0x4000 4 = 0x4B800000 ∧ raised t = Flag.inexact ∧ (t.tile 0).detcause.toList.any (· != 0) = true := by decide +kernel

/-- Lanes 0 to 3, the others zero. -/
def lanes4 (a b c d : W32) : VReg := Vector.ofFn fun l : Fin 64 => if l.val = 0 then a else if l.val = 1 then b else if l.val = 2 then c else if l.val = 3 then d else 0

/-- 16: 2^24, 1.0 and 1.0 reduced, and scanned lane by lane. -/
theorem test_reduce_rounds_once :
    let t := ends .a (.vred ⟨0, 7, false, 3, 0, 5⟩) (vec 3 (lanes4 0x4B800000 0x3F800000 0x3F800000 0) small)
    t.cur.sreg 7 = 0x4B800001 ∧ raised t = 0 := by decide +kernel

theorem test_scan_rounds_each_sum :
    let t := ends .a (.vscan ⟨0, 8, false, 3, 0, 5⟩) (vec 3 (lanes4 0x4B800000 0x3F800000 0x3F800000 0) small)
    ((t.cur.vreg 8).toList = [0x4B800000, 0x4B800000] ++ List.replicate 62 0x4B800001) ∧ raised t = Flag.inexact := by decide +kernel

/-- 16: VQUANT of 0.75, −2.6, 1.1 and 0 to BFP4, and VDEQ of the mantissas. -/
theorem test_quantise_two_blocks :
    let t := ends .a (.vquant ⟨0, 5, false, 6, false, 5, 5⟩)
      (vec 6 (lanes4 0x3F400000 0xC0266666 0x3F8CCCCD 0) (reg 10 0x4000 (bytes 0x4000 16 0x0414 small)))
    ((t.cur.vreg 5).toList = [0x7E000002, 0x7EFFFFFB, 0x7E000002] ++ List.replicate 29 0x7E000000 ++ List.replicate 32 0) ∧
    raised t = Flag.inexact := by decide +kernel

theorem test_dequantise :
    let t := ends .a (.vdeq ⟨0, 7, false, 5, false, 3, 2⟩) (vec 5 (lanes4 0x7E000002 0x7EFFFFFB 0x7E000002 0x7E000000) (reg 3 0x7E small))
    (t.cur.vreg 7).toList = [0x3F800000, 0xC0200000, 0x3F800000] ++ List.replicate 61 0 ∧ raised t = 0 := by decide +kernel

/-- R441, R430: lanes move toward lane 0 and wrap. -/
theorem test_rotate_lanes :
    let t := ends .a (.vrot ⟨0, 2, false, 1, 63⟩) (vec 1 (lanes4 5 6 7 8) small)
    lane (t.cur.vreg 2) 1 = 5 ∧ lane (t.cur.vreg 2) 0 = 0 ∧ lane (t.cur.vreg 2) 4 = 8 := by decide +kernel

/-- R424, R439: an integer lane wraps; XADDV and XRD sum exactly what FP32 cannot. -/
theorem test_lane_add_wraps :
    lane ((ends .a (.vadd ⟨0, 2, false, 1, false, 1, 2⟩) (vec 1 (lanes4 0x80000001 3 0 0) small)).cur.vreg 2) 0 = 2 := by decide +kernel

theorem test_exact_sum_in_memory :
    let s := reg 1 0x4000 (vec 1 (lanes4 0x4B800000 0x3F800000 0x3F800000 0) small)
    (ends .a (.xrd ⟨0, 8, false, 1, 5⟩) (ends .a (.xaddv ⟨0, false, 1, false, 1, 5⟩) s)).cur.sreg 8 = 0x4B800001 := by decide +kernel

/-- R353, R406, R397: CALL saves the index after it; RET takes s31; PBR is relative to its own word. -/
theorem test_call_and_return :
    let at5 (s : State) := s.modCur fun t => { t with pcs := t.pcs.set 0 5 }
    (runs (.call 0 1 0) (at5 (branch 1 0x40 small))).cur.sreg 31 = 6 ∧
    (runs (.call 0 1 0) (at5 (branch 1 0x40 small))).cur.pc .s = 0x40 ∧
    (runs (.ret 0 0) (at5 (reg 31 0xFFFFFFFF00000007 small))).cur.pc .s = 7 ∧
    wfield ((runs (.pbr 0 1 0x1FFFF) (at5 small)).cur.breg 1) 0 32 = 4 := by decide +kernel

/-- R267, R272: a SOFTWARE trap with code 7 at word 0 of slot 0 enters at word 16 × 0xC at supervisor level, with s1 the frame and s2 TRAP_CAUSE. -/
theorem test_trap_enters_its_handler :
    let t := ((handlers small).takeTrap .s { cause := 0xC, sub := 7 }).cur
    t.super = true ∧ t.pcs = #v[192, 192, 192, 192] ∧ t.sreg 1 = 0x40000 ∧ t.sreg 2 = 0x70C := by
  rw [State.takeTrap_enters _ _ _ ⟨by decide, by decide, by decide +kernel⟩ (by decide)]
  obtain ⟨m, h⟩ := ((handlers small).noteTrap .s { cause := 0xC, sub := 7 }).enterHandler_eq .s { cause := 0xC, sub := 7 }
  rw [h]
  exact ⟨rfl, rfl, rfl, (by decide : trapCauseWord .s { cause := 0xC, sub := 7 } = 0x70C)⟩

/-- R373, R375: FLADD adds to a pip, and FLWAIT.sub takes its threshold away only when it passes. -/
theorem test_flag_add_and_wait :
    let s := reg 3 0xFFE10 (reg 8 3 small)
    let t := runs (.fladd ⟨0, 0, 0, false, 3, false, 8⟩) s
    t.readNum 0xFFE10 4 = 3 ∧ (runs (.flwait ⟨0, 0, 0, false, 3, false, 8⟩ true) t).readNum 0xFFE10 4 = 0 ∧
    (runs (.flwait ⟨0, 0, 0, false, 3, false, 8⟩ true) s).cur.departing.isSome = true := by decide +kernel

/-- R377, R410: WINDOW holds what SETC wrote. -/
theorem test_control_register :
    (ends .s (.getc 0 7 0x011) (runs (.setc 0 false 4 0x011) (reg 4 40 small))).cur.sreg 7 = 40 := by decide +kernel

/-- 04: a BFP4 block with E = 0x7E and mantissas 2, −5, 2. -/
theorem test_bfp4_block :
    (packBlock 4 0x7E ([2, -5, 2] ++ List.replicate 29 0)).take 4 = [0x7E, 0xB2, 0x02, 0x00] ∧
    blockValue 4 (packBlock 4 0x7E ([2, -5, 2] ++ List.replicate 29 0)) 1 = .fin true 5 (-1) := by decide +kernel

/-- 04: with BOUND 2.0 the block clamps −2.6. -/
theorem test_bfp4_bound :
    bfpBlock 4 ⟨0x14, false, true, 0, 0x40000000, 0⟩
      ([0x3F400000, 0xC0266666, 0x3F8CCCCD, 0].map (readFmt (.fp Fp.fp32))) [0, 0, 0, 0] =
      (126, [2, -4, 2, 0], Flag.clamp ||| Flag.inexact) := by decide +kernel

/-- 04: three products in an accumulator entry lose bits and keep the sign symmetry of the sum. -/
theorem test_accumulator_example :
    let w := awAdd (awAdd (awAdd 0 3 0 3 (-3) (-1)) (-3) 0 3 (-3) (-1)) 5 0 1 (-3) (-1)
    w = awMake 1 true false ∧ (awRead w (-1) (.fp Fp.fp32) pFp32 0).1 = 0x3F000000 ∧
    awSum (awAdd (awAdd (awAdd 0 (-3) 0 3 (-3) (-1)) 3 0 3 (-3) (-1)) (-5) 0 1 (-3) (-1)) = -1 := by decide +kernel

/-- 07: the code table and the chunk byte 0x3A. -/
theorem test_entropy_example :
    let lens := (List.range 256).map fun i => if i = 0 then 1 else if i = 0x7F then 2 else if i = 1 ∨ i = 0x80 then 3 else (0 : Byte)
    entValid lens = true ∧ entNext lens 2 = 2 ∧ entNext lens 3 = 6 ∧ entSymbols lens 4 (entBits [0x3A]) = some [0x00, 0x7F, 0x80, 0x00] := by
  decide +kernel

/-- 01: chip 171, tile 37. -/
theorem test_slice_address : (State.reset.modPkg fun p => { p with coord := 0xABFF80AB }).sliceBase 37 = 0x55800002500000 := by decide

/-- 05: the walk of a read of VA 0x0012_3456_7890 on chip 171. -/
theorem test_translation_example :
    let s := (small.modPkg fun p => { p with coord := 0xABFF80AB }).modCur fun t =>
      { t with ranges := t.ranges.set 3 ⟨0x1234000003, 0x1237FF0000, 0x5580EE0C000000⟩ }
    let a := 0x10040567890
    s.iaOf .l 0x1234567890 8 false = some 0x55810040567890 ∧ chipOf 0x55810040567890 = 171 ∧ localOf 0x55810040567890 = a ∧
    s.region a = some .memory ∧ field a 38 9 = 4 ∧ field a 29 9 = 2 ∧ field a 21 8 = 2 ∧ field a 16 5 = 0x16 ∧
    s.leaf 0 0x0005000312500007 0x10000 = some ⟨0, 0x312500000, 0x10000, true, 5⟩ := by decide +kernel

/-- 02: the record of a departing GLD, without its walk block. -/
theorem test_departure_record :
    let live := liveSet 0x980000026 (some (.s 7))
    live = 0x9800000A6 ∧ imageOffset live (.s 1) = 0x40 ∧ imageOffset live (.s 7) = 0x58 ∧ imageOffset live (.v 0) = 0x68 ∧
    imageOffset live (.v 3) = 0x168 ∧ (regImage small.cur live).length + 64 = 744 ∧ (padTo64 (List.replicate 64 0 ++ regImage small.cur live)).length = 768 := by
  decide +kernel

/-- 08: rows 0, 1 and 3 of ten entries, steps of four cycles: stalls, splits and the last cycle of the three runs. -/
theorem test_schedule_example :
    let pend := [0, 2, 6] ++ (List.range 7).map fun k => 128 * (k + 1) + 6
    let fresh (policy lag : Nat) : Schedule := { policy := policy, lag := lag, width := 4, rows := List.replicate 32 {} }
    let run (policy lag : Nat) := Schedule.drain true 200 (Schedule.run true 0 200 (fresh policy lag) pend)
    (run 0 16).stalls = 14 ∧ (run 0 16).splits = 0 ∧ (run 0 16).cycle = 33 ∧ (run 1 16).stalls = 0 ∧ (run 1 16).splits = 4 ∧
    (run 1 16).cycle = 17 ∧ (run 1 2).splits = 4 ∧ (run 1 2).cycle = 21 := by decide +kernel

/-- 09: two documents that start at 0 and 96, under a causal program: the classes of rows q to q + 31 against the keys from 32 and
from 64 on. -/
def docCausal (q : Nat) : List Nat :=
  let desc := toBytes 8 0 ++ toBytes 8 0x5000 ++ toBytes 8 0x5000 ++ toBytes 4 2 ++ toBytes 4 2 ++ toBytes 4 64 ++ toBytes 4 32 ++
    toBytes 4 128 ++ toBytes 4 128 ++ toBytes 16 6
  let words := [0x10000000, 0x31000000, 0x42100000, 0x63200000, 0xB0300000, 0xC0000000]
  let r : Run :=
    { s := bytes 0x5000 8 (96 * 2 ^ 32) small, k := 0
      c := { command 7 9 .running 4 with ranges := small.cur.ranges, work := { head := desc, prog := words } } }
  (Run.maskRows q 32 r [] fun r rows =>
    let cls (k0 : Nat) := classOf 32 (rows.zipIdx.map fun x => allowedWord (MaskDesc.ofBytes r.c.work.head) (q + x.2) k0 32 x.1)
    r.modWork fun w => { w with classes := [cls 32, cls 64] }).c.work.classes

theorem test_document_mask_example : docCausal 64 = [2, 1] ∧ docCausal 96 = [0, 0] := by decide +kernel

/-- FIPS 202: SHAKE256 of no bytes (log 63). -/
theorem test_shake256_of_nothing : shake256 [] 32 =
    [0x46, 0xB9, 0xDD, 0x2B, 0x0B, 0xA8, 0x8D, 0x13, 0x23, 0x3B, 0x3F, 0xEB, 0x74, 0x3E, 0xEB, 0x24,
     0x3F, 0xCD, 0x52, 0xEA, 0x62, 0xB8, 0x1B, 0x82, 0xB5, 0x0C, 0x27, 0x64, 0x6E, 0xD5, 0x76, 0x2F] := by decide +kernel

end Sys2Proof.Tests
end

/-! PROOF. Reading memory after a write of bytes, and control space, whose bytes stand at their own address (R95, R121, R131). -/

namespace Sys2Proof.Machine

/-- A write of bytes leaves every byte outside them alone. -/
theorem cellRead_cellsWrite_outside (m : List Host.Cell) (a c : Nat) (bs : List Byte) (h : Memory.wf m = true)
    (hc : c < a ∨ a + bs.length ≤ c) : cellRead (cellsWrite m a bs) c = cellRead m c := by
  induction bs generalizing m a with
  | nil => rfl
  | cons b bs ih =>
    rw [List.length_cons] at hc
    rw [cellsWrite, ih _ _ (cellWrite_wf m a b h) (by omega), cellRead_cellWrite m a c b h, if_neg (by omega)]

/-- The bytes written are read back. -/
theorem cellRead_cellsWrite_inside (m : List Host.Cell) (a i : Nat) (bs : List Byte) (h : Memory.wf m = true) (hi : i < bs.length) :
    cellRead (cellsWrite m a bs) (a + i) = bs[i] := by
  induction bs generalizing m a i with
  | nil => exact absurd hi (Nat.not_lt_zero i)
  | cons b bs ih =>
    have hw := cellWrite_wf m a b h
    cases i with
    | zero => rw [Nat.add_zero, cellsWrite, cellRead_cellsWrite_outside _ _ _ _ hw (by omega), cellRead_cellWrite m a _ b h, if_pos rfl]; rfl
    | succ i => rw [cellsWrite, show a + (i + 1) = a + 1 + i by omega, ih _ _ i hw (by simpa using hi)]; rfl

theorem cellsRead_congr {m m' : List Host.Cell} {a n : Nat} (h : ∀ c, a ≤ c → c < a + n → cellRead m' c = cellRead m c) :
    cellsRead m' a n = cellsRead m a n := by
  induction n generalizing a with
  | zero => rfl
  | succ n ih => rw [cellsRead, cellsRead, h a (by omega) (by omega), ih fun c h1 h2 => h c (by omega) (by omega)]

theorem toBytes_length (n v : Nat) : (toBytes n v).length = n := by
  induction n generalizing v with
  | zero => rfl
  | succ n ih => simp [toBytes, ih]

/-- A number that fits in n bytes is what its bytes hold. -/
theorem ofBytes_toBytes_of_lt (n v : Nat) (h : v < 256 ^ n) : ofBytes (toBytes n v) = v := by
  induction n generalizing v with
  | zero => rw [Nat.pow_zero] at h; rw [toBytes, ofBytes]; omega
  | succ n ih =>
    have : v / 256 < 256 ^ n := by rw [Nat.pow_succ] at h; omega
    rw [toBytes, ofBytes, ih _ this, BitVec.toNat_ofNat]
    omega

theorem ofBytes_lt (bs : List Byte) : ofBytes bs < 256 ^ bs.length := by
  induction bs with
  | nil => exact Nat.one_pos
  | cons b bs ih =>
    have := b.isLt
    rw [ofBytes, List.length_cons, Nat.pow_succ]
    omega

namespace State

theorem readLocal_length (s : State) (a n : Nat) : (s.readLocal a n).length = n := by
  induction n generalizing a with
  | zero => rfl
  | succ n ih => rw [readLocal, List.length_cons, ih]

/-- Bytes that each read as the list says are read as that list. -/
theorem readLocal_eq (s : State) (a : Nat) (l : List Byte) (h : ∀ i (hi : i < l.length), s.readByte (a + i) = l[i]) :
    s.readLocal a l.length = l := by
  induction l generalizing a with
  | nil => rfl
  | cons b l ih =>
    rw [List.length_cons, readLocal, ih (a + 1) fun i hi => ?_]
    · exact congrArg (· :: l) (h 0 (Nat.zero_lt_succ _))
    · rw [show a + 1 + i = a + (i + 1) by omega]
      exact h (i + 1) (Nat.succ_lt_succ hi)

/-- A byte below 2^40 is no device memory (R121). -/
theorem region_below (s : State) (c : Nat) (h : c < 0x10000000000) : s.region c ≠ some .memory := by
  unfold region
  rw [if_neg (show ¬(0x10000000000 ≤ c ∧ c ≤ 0x1BFFFFFFFFF) by omega), if_neg (show ¬(0x100000000000 ≤ c ∧ c ≤ 0x17FFFFFFFFFF) by omega),
    if_neg (show ¬(0x200000000000 ≤ c ∧ c ≤ 0x2FFFFFFFFFFF) by omega)]
  split
  · nofun
  · split
    · nofun
    · nofun

/-- Such a byte stands at its own address. -/
theorem place_below (s : State) (c : Nat) (h : c < 0x10000000000) : s.place c = some c := by
  unfold place
  split
  next hm => exact absurd hm (s.region_below c h)
  next => rfl

/-- A byte stands at its own address or in a frame. -/
theorem place_cases {s : State} {c p : Nat} (h : s.place c = some p) : p = c ∨ 2 ^ 48 ≤ p := by
  unfold place at h
  split at h
  · obtain ⟨l, -, rfl⟩ := Option.map_eq_some_iff.mp h
    exact .inr (by unfold frameAt; omega)
  · exact .inl (Option.some.inj h).symm

/-- The walk reads PT_ROOT and frames, nothing else (R131). -/
theorem place_withMem (s : State) (m : List Host.Cell) (c : Nat)
    (hroot : ∀ a, 0x180000000 ≤ a → a < 0x180000008 → cellRead m a = cellRead s.mem a)
    (hframe : ∀ a, 2 ^ 48 ≤ a → cellRead m a = cellRead s.mem a) : ({ s with mem := m } : State).place c = s.place c := by
  have hr : cellsRead m 0x180000000 8 = cellsRead s.mem 0x180000000 8 := cellsRead_congr fun a h1 h2 => hroot a h1 (by omega)
  have hp : ({ s with mem := m } : State).pte = s.pte := by
    funext p
    exact congrArg ofBytes (cellsRead_congr fun a h1 _ => hframe a (by unfold frameAt at h1; omega))
  have hl : ({ s with mem := m } : State).leaf = s.leaf := rfl
  have hw : ({ s with mem := m } : State).walk c = s.walk c := by
    unfold walk
    rw [hr, hp, hl]
  unfold place
  rw [hw]
  rfl

/-- Bytes of control space, PT_ROOT not among them. -/
structure ControlSpan (a n : Nat) : Prop where
  from_ : 0x100000000 ≤ a
  to_ : a + n ≤ 0x200000000
  root : a + n ≤ 0x180000000 ∨ 0x180000008 ≤ a

/-- Bytes placed below the memory regions are written at their own addresses. -/
theorem poke_below (s : State) (a : Nat) (bs : List Byte) (h : a + bs.length ≤ 0x10000000000) :
    s.poke a bs = { s with mem := cellsWrite s.mem a bs } := by
  induction bs generalizing s a with
  | nil => rfl
  | cons b bs ih =>
    rw [List.length_cons] at h
    have hb : s.pokeByte a b = { s with mem := cellWrite s.mem a b } := by
      unfold pokeByte
      rw [s.place_below a (by omega)]
    rw [poke_eq, hb, ih _ _ (by omega)]
    rfl

section
variable {s : State} {a : Nat} {bs : List Byte} (hs : s.memoryCanonical) (h : ControlSpan a bs.length)
include hs h

theorem place_poke_control (c : Nat) : (s.poke a bs).place c = s.place c := by
  obtain ⟨h1, h2, h3⟩ := h
  rw [s.poke_below a bs (by omega)]
  exact s.place_withMem _ c (fun c _ _ => cellRead_cellsWrite_outside _ _ _ _ hs (by omega))
    fun c _ => cellRead_cellsWrite_outside _ _ _ _ hs (by omega)

/-- Bytes placed in control space leave every other byte of the package's addresses alone. -/
theorem readByte_poke_control_outside (c : Nat) (hc : c < a ∨ a + bs.length ≤ c) : (s.poke a bs).readByte c = s.readByte c := by
  have hm := s.poke_below a bs (by have := h.to_; omega)
  unfold readByte
  rw [place_poke_control hs h c, hm]
  cases hp : s.place c with
  | none => rfl
  | some p =>
    refine cellRead_cellsWrite_outside _ _ _ _ hs ?_
    have := h.to_
    rcases place_cases hp with rfl | hp <;> omega

/-- Bytes placed in control space are read back. -/
theorem readByte_poke_control_inside (i : Nat) (hi : i < bs.length) : (s.poke a bs).readByte (a + i) = bs[i] := by
  have := h.to_
  unfold readByte
  rw [place_below _ _ (by omega), s.poke_below a bs (by omega)]
  exact cellRead_cellsWrite_inside _ _ _ _ hs hi

theorem readLocal_poke_control (o n : Nat) (ho : o + n ≤ bs.length) : (s.poke a bs).readLocal (a + o) n = (bs.drop o).take n := by
  have hl : ((bs.drop o).take n).length = n := by simp; omega
  have := (s.poke a bs).readLocal_eq (a + o) ((bs.drop o).take n) fun i hi => by
    rw [Nat.add_assoc, readByte_poke_control_inside hs h (o + i) (by omega)]
    simp
  rwa [hl] at this

end
end State
end Sys2Proof.Machine

/-! PROOF. Fields of a 64-bit register under masks, and the fields of PORT_MAP (R21). -/

namespace Sys2Proof.Machine

/-- A field is the bits taken out of the register. -/
theorem wfield_eq_extract (v : W64) (lo len : Nat) : wfield v lo len = (v.extractLsb' lo len).toNat := by
  rw [BitVec.extractLsb'_toNat, Nat.shiftRight_eq_div_pow]
  rfl

/-- A mask that holds a field does not change it. -/
theorem wfield_and_of_ones {v m : W64} {lo len : Nat} (hm : m.extractLsb' lo len = BitVec.allOnes len) :
    wfield (v &&& m) lo len = wfield v lo len := by
  rw [wfield_eq_extract, BitVec.extractLsb'_and, hm, BitVec.and_allOnes, ← wfield_eq_extract]

/-- A mask that leaves a field out clears it. -/
theorem wfield_and_of_zero {v m : W64} {lo len : Nat} (hm : m.extractLsb' lo len = 0#len) : wfield (v &&& m) lo len = 0 := by
  rw [wfield_eq_extract, BitVec.extractLsb'_and, hm, BitVec.and_zero, BitVec.toNat_ofNat, Nat.zero_mod]

/-- Bits set outside a field do not change it. -/
theorem wfield_or_of_zero {v m : W64} {lo len : Nat} (hm : m.extractLsb' lo len = 0#len) : wfield (v ||| m) lo len = wfield v lo len := by
  rw [wfield_eq_extract, BitVec.extractLsb'_or, hm, BitVec.or_zero, ← wfield_eq_extract]

/-- A value without bits under a mask has zero in each field that the mask holds. -/
theorem wfield_eq_zero_of_and {v m : W64} {lo len : Nat} (h : v &&& m = 0) (hm : m.extractLsb' lo len = BitVec.allOnes len) :
    wfield v lo len = 0 := by
  rw [← wfield_and_of_ones hm, h]
  simp [wfield, field]

theorem portState_def (v : W64) : portState v = v.toNat % 8 := by
  simp [portState, wfield, field]

@[simp] theorem portState_setPortState (v : W64) (st : Nat) (h : st < 8) : portState (setPortState v st) = st := by
  have := v.isLt
  simp only [setPortState, portState_def, BitVec.toNat_add, BitVec.toNat_sub, BitVec.toNat_ofNat]
  omega

@[simp] theorem portState_setLanes (v : W64) (n : Nat) : portState (setLanes v n) = portState v := by
  have := v.isLt
  simp only [setLanes, portState_def, BitVec.toNat_add, BitVec.toNat_sub, BitVec.toNat_ofNat]
  omega

@[simp] theorem portState_portFec (step mode port : Nat) (v : W64) : portState (portFec step mode port v) = portState v := by
  unfold portFec portState
  rw [wfield_or_of_zero (by split <;> rfl), wfield_and_of_ones (by decide)]

/-- PORT_MAP with its RETRAINS field replaced by n. -/
def withRetrains (v : W64) (n : Nat) : W64 := (v &&& 0xFFFF0000FFFFFFFF) + BitVec.ofNat 64 (2 ^ 32 * n)

theorem portState_withRetrains (v : W64) (n : Nat) : portState (withRetrains v n) = portState v := by
  have h : portState (v &&& 0xFFFF0000FFFFFFFF) = portState v := wfield_and_of_ones (by decide)
  simp only [portState_def] at h ⊢
  simp only [withRetrains, BitVec.toNat_add, BitVec.toNat_ofNat]
  omega

theorem retrains_withRetrains (v : W64) (n : Nat) (hn : n < 2 ^ 16) : wfield (withRetrains v n) 32 16 = n := by
  have h : wfield (v &&& 0xFFFF0000FFFFFFFF) 32 16 = 0 := wfield_and_of_zero (by decide)
  simp only [wfield, field] at h ⊢
  simp only [withRetrains, BitVec.toNat_add, BitVec.toNat_ofNat]
  omega

end Sys2Proof.Machine

/-! PROOF. What a write of a control register does, number by number (R68, R94, R118, R120, R270, R279, R288, R410). -/

namespace Sys2Proof.Machine

/-- An event whose meaning answers `t`. -/
theorem does_of_next {i : Instr} {s t : State} {P : State → Prop} (h : exec i s = .next t) (hp : P t) : Does i s P := ⟨t, h, hp⟩

/-- A write of a range register changes the one part of the one register that its number names (R118). -/
theorem rangePut_eq_set (rs : Vector RangeReg 16) (num : Nat) (i : Fin 16) (v : W64) (h : num % 16 = i.val) :
    rangePut rs num v = rs.set i (if num < 0x110 then { rs[i] with base := v } else if num < 0x120 then { rs[i] with limit := v }
      else { rs[i] with offset := v }) := by
  ext j hj
  rw [rangePut, Vector.getElem_ofFn, Vector.getElem_set]
  by_cases e : i.val = j
  · subst e
    simp [h]
  · simp [h, e]

namespace State

theorem writeCtl_of_some {s t : State} {n num : Nat} {v : W64} (h : s.setCtl n num v = some t) : s.writeCtl n num v = .next t := by
  rw [writeCtl, h, Option.getD_some]

theorem setCtl_window (s : State) (n : Nat) (v : W64) (h : 16 ≤ wfield v 0 11 ∧ wfield v 0 11 ≤ 1024) :
    s.setCtl n 0x011 v = some (s.modStrand n fun x => { x with window := v.setWidth 11 }) := by
  simp [setCtl, h]

theorem setCtl_trapFrames (s : State) (n : Nat) (v : W64) (h : s.trapFramesOk (n / 8) v = true) :
    s.setCtl n 0x061 v = some (s.modTile (n / 8) fun x => { x with trapFrames := v &&& 0xFFFC1 }) := by
  simp [setCtl, h]

theorem setCtl_stopAt (s : State) (n : Nat) (v : W64) :
    s.setCtl n 0x069 v = some (s.modTile (n / 8) fun x => { x with stopAt := v }) := by
  simp [setCtl]

theorem setCtl_arithFlags (s : State) (n : Nat) (v : W64) :
    s.setCtl n 0x012 v = some (s.modTile (n / 8) fun x => { x with arithFlags := x.arithFlags &&& ~~~(v.setWidth 8) }) := by
  simp [setCtl, flagsCleared]

theorem setCtl_detSum (s : State) (n : Nat) : s.setCtl n 0x150 0 = some (s.modPkg fun p => { p with detSum := 0 }) := by
  simp [setCtl]

theorem setCtl_detcause (s : State) (n : Nat) (i : Fin 16) :
    s.setCtl n (0x140 + i.val) 0 = some (s.modTile (n / 8) fun x => { x with detcause := x.detcause.set i 0 }) := by
  have hset (x : Tile) : (Vector.ofFn fun j : Fin 16 => if 0x140 + i.val = 0x140 + j.val then 0 else x.detcause[j]) = x.detcause.set i 0 := by
    ext j hj
    simp [Vector.getElem_set]
  have hi := i.isLt
  unfold setCtl
  simp (disch := omega) only [if_neg, if_pos, hset]
  rfl

theorem setCtl_range (s : State) (n num : Nat) (v : W64) (h : 0x100 ≤ num ∧ num < 0x130) (hv : rangeOk num v = true) :
    s.setCtl n num v = some (s.modStrand n fun x => x.setRanges (rangePut x.ranges num v)) := by
  unfold setCtl
  simp (disch := omega) only [if_neg, if_pos, hv, if_true]

end State

/-- A write of range register `num` of a strand that stands in its slot (R118, R120). -/
theorem execRangeRegisterWrite_eq (s : State) (n num : Nat) (i : Fin 16) (v : W64) (f : RangeReg → RangeReg) (hl : (s.strand n).live = true)
    (hn : 0x100 ≤ num ∧ num < 0x130) (hi : num % 16 = i.val) (hv : rangeOk num v = true)
    (hf : ∀ r : RangeReg, (if num < 0x110 then { r with base := v } else if num < 0x120 then { r with limit := v }
      else { r with offset := v }) = f r) :
    execRangeRegisterWrite n (BitVec.ofNat 9 num) v s =
      .next (s.modStrand n fun x => x.setRanges (x.ranges.set i (f x.ranges[i]))) := by
  have hnum : (BitVec.ofNat 9 num).toNat = num := by rw [BitVec.toNat_ofNat]; omega
  unfold execRangeRegisterWrite
  rw [hnum, if_pos ⟨hl, hn⟩, State.writeCtl_of_some (s.setCtl_range n num v hn hv)]
  simp only [rangePut_eq_set _ num i v hi, hf]

/-- The reserved bits of BASE (R118). -/
theorem rangeOk_base {num : Nat} {v : W64} (hn : num < 0x110) (h : v &&& 0xFE0000000000FFFC = 0) : rangeOk num v = true := by
  simp [rangeOk, hn, wfield_eq_zero_of_and (lo := 57) (len := 7) h (by decide), wfield_eq_zero_of_and (lo := 2) (len := 14) h (by decide)]

/-- The reserved bits of LIMIT (R118). -/
theorem rangeOk_limit {num : Nat} {v : W64} (h0 : 0x110 ≤ num) (hn : num < 0x120) (h : v &&& 0xFE0000000000FFFF = 0) :
    rangeOk num v = true := by
  simp [rangeOk, hn, Nat.not_lt.mpr h0, wfield_eq_zero_of_and (lo := 57) (len := 7) h (by decide),
    wfield_eq_zero_of_and (lo := 0) (len := 16) h (by decide)]

/-- The reserved bits of OFFSET (R118). -/
theorem rangeOk_offset {num : Nat} {v : W64} (h0 : 0x120 ≤ num) (h : v &&& 0xFF0000000000FFFF = 0) : rangeOk num v = true := by
  simp [rangeOk, Nat.not_lt.mpr h0, show ¬num < 0x110 by omega, wfield_eq_zero_of_and (lo := 56) (len := 8) h (by decide),
    wfield_eq_zero_of_and (lo := 0) (len := 16) h (by decide)]

end Sys2Proof.Machine

/-! PROOF. O53: events of registers. -/

namespace Sys2Proof.Machine

section Envelope
variable (s : State)

theorem envelopeModeWrite_does (m : BitVec 2) : Does (.envelopeModeWrite m) s fun t => t.mem = s.mem ∧ t.tiles = s.tiles ∧
    t.pkg = if s.pkg.envPending then { s.pkg with envRefused := true } else if m = s.pkg.envActive then s.pkg
      else { s.pkg with envMode := m, envPending := true } :=
  does_of_next (t := s.modPkg fun p => p.requestMode m) rfl ⟨rfl, rfl, rfl⟩

/-- A request of a mode does not change the mode in force (R26). -/
theorem requestMode_envActive (p : Pkg) (m : BitVec 2) : (p.requestMode m).envActive = p.envActive := by
  unfold Pkg.requestMode
  split
  · rfl
  · split
    · rfl
    · rfl

/-- Nor does the release of a thermal request (R301). -/
theorem releaseThermal_envActive (p : Pkg) : p.releaseThermal.envActive = p.envActive := by
  unfold Pkg.releaseThermal
  split
  · split
    · rfl
    · exact requestMode_envActive _ _
  · rfl

theorem releaseThermal_envPending_none {p : Pkg} (h : p.thermalHeld = none) : p.releaseThermal.envPending = p.envPending := by
  rw [Pkg.releaseThermal, h]

/-- A thermal request that was held starts the next transition, when the mode and SERVICE are not in force (R301). -/
theorem releaseThermal_starts {p : Pkg} {m : BitVec 2} (h : p.thermalHeld = some m) (hp : p.envPending = false) (hm : m ≠ p.envActive)
    (h3 : p.envActive ≠ 3) : p.releaseThermal.envPending = true ∧ p.releaseThermal.envMode = m := by
  have hne : ¬(p.envActive = m ∨ p.envActive = 3) := not_or.mpr ⟨hm.symm, h3⟩
  have he : p.releaseThermal = { p with thermalHeld := none, envMode := m, envPending := true } := by
    simp only [Pkg.releaseThermal, h, if_neg hne, Pkg.requestMode, hp, if_neg hm, Bool.false_eq_true, if_false]
  rw [he]
  exact ⟨rfl, rfl⟩

theorem envelopeTransitionDone_does (h : s.pkg.envPending = true) :
    Does .envelopeTransitionDone s fun t => t.pkg.envActive = s.pkg.envMode ∧ t.mem = s.mem ∧ t.tiles = s.tiles ∧
      (s.pkg.thermalHeld = none → t.pkg.envPending = false) ∧
      (∀ m, s.pkg.thermalHeld = some m → m ≠ s.pkg.envMode → s.pkg.envMode ≠ 3 → t.pkg.envPending = true ∧ t.pkg.envMode = m) := by
  refine does_of_next (if_pos h) ⟨releaseThermal_envActive _, rfl, rfl, fun hn => ?_, fun m hm hne h3 => ?_⟩
  · exact releaseThermal_envPending_none hn
  · exact releaseThermal_starts hm rfl hne h3

end Envelope

theorem windowWrite_next (s : State) (n : Nat) (v : W64) (hl : (s.strand n).live = true) (h : 16 ≤ wfield v 0 11 ∧ wfield v 0 11 ≤ 1024) :
    exec (.windowWrite n v) s = .next (s.modStrand n fun x => { x with window := v.setWidth 11 }) :=
  (if_pos hl).trans (State.writeCtl_of_some (s.setCtl_window n v h))

theorem stopAtWrite_next (s : State) (k : Nat) (v : W64) : exec (.stopAtWrite k v) s = .next (s.modTile k fun x => { x with stopAt := v }) := by
  have h := s.setCtl_stopAt (8 * k) v
  rw [Nat.mul_div_cancel_left k (by decide)] at h
  exact State.writeCtl_of_some h

theorem arithFlagsWrite_next (s : State) (k : Nat) (v : W64) :
    exec (.arithFlagsWrite k v) s = .next (s.modTile k fun x => { x with arithFlags := x.arithFlags &&& ~~~(v.setWidth 8) }) := by
  have h := s.setCtl_arithFlags (8 * k) v
  rw [Nat.mul_div_cancel_left k (by decide)] at h
  exact State.writeCtl_of_some h

theorem execDetcauseClear_eq (s : State) (k : Nat) (num : BitVec 9) (h : 0x140 ≤ num.toNat ∧ num.toNat ≤ 0x150) :
    execDetcauseClear k num s = s.writeCtl (8 * k) num.toNat 0 := if_pos h

theorem detcauseClear_next (s : State) (k : Nat) (i : Fin 16) :
    exec (.detcauseClear k (BitVec.ofNat 9 (0x140 + i.val))) s = .next (s.modTile k fun x => { x with detcause := x.detcause.set i 0 }) := by
  have hnum : (BitVec.ofNat 9 (0x140 + i.val)).toNat = 0x140 + i.val := by rw [BitVec.toNat_ofNat]; omega
  have h := s.setCtl_detcause (8 * k) i
  rw [Nat.mul_div_cancel_left k (by decide), ← hnum] at h
  exact (execDetcauseClear_eq s k _ (by omega)).trans (State.writeCtl_of_some h)

theorem detSumClear_next (s : State) (k : Nat) : exec (.detcauseClear k 0x150) s = .next (s.modPkg fun p => { p with detSum := 0 }) :=
  (execDetcauseClear_eq s k 0x150 (by decide)).trans (State.writeCtl_of_some (s.setCtl_detSum (8 * k)))

section RangeRegisters
variable {s : State} {n : Nat} (hl : (s.strand n).live = true) (i : Fin 16) (v : W64)
include hl

theorem rangeBaseWrite_next (h : v &&& 0xFE0000000000FFFC = 0) : exec (.rangeRegisterWrite n (BitVec.ofNat 9 (0x100 + i.val)) v) s =
    .next (s.modStrand n fun x => x.setRanges (x.ranges.set i { x.ranges[i] with base := v })) :=
  execRangeRegisterWrite_eq s n _ i v (fun r => { r with base := v }) hl (by omega) (by omega) (rangeOk_base (by omega) h) fun _ => if_pos (by omega)

theorem rangeLimitWrite_next (h : v &&& 0xFE0000000000FFFF = 0) : exec (.rangeRegisterWrite n (BitVec.ofNat 9 (0x110 + i.val)) v) s =
    .next (s.modStrand n fun x => x.setRanges (x.ranges.set i { x.ranges[i] with limit := v })) :=
  execRangeRegisterWrite_eq s n _ i v (fun r => { r with limit := v }) hl (by omega) (by omega) (rangeOk_limit (by omega) (by omega) h) fun _ =>
    (if_neg (by omega)).trans (if_pos (by omega))

theorem rangeOffsetWrite_next (h : v &&& 0xFF0000000000FFFF = 0) : exec (.rangeRegisterWrite n (BitVec.ofNat 9 (0x120 + i.val)) v) s =
    .next (s.modStrand n fun x => x.setRanges (x.ranges.set i { x.ranges[i] with offset := v })) :=
  execRangeRegisterWrite_eq s n _ i v (fun r => { r with offset := v }) hl (by omega) (by omega) (rangeOk_offset (by omega) h) fun _ =>
    (if_neg (by omega)).trans (if_neg (by omega))

end RangeRegisters

/-- A SEED write sets the job's SEED, and changes beside it the tiles' copies alone (R39, R377). -/
theorem performSeed_spec (s : State) (job : W16) (v : W64) : ((s.performSeed job v).job job).seed = some v ∧
    (s.performSeed job v).toDispatch = s.toDispatch ∧ (s.performSeed job v).mem = s.mem ∧ (s.performSeed job v).strands = s.strands := by
  have hj : ((s.modJob job fun j => { j with seed := some v }).job job).seed = some v := by rw [State.job_modJob, if_pos rfl]
  unfold State.performSeed
  dsimp only
  split
  · exact ⟨hj, rfl, rfl, rfl⟩
  · exact ⟨hj, rfl, rfl, rfl⟩

theorem seedWrite_does (s : State) (job : W16) (v : W64) (rest : List DispatchMsg) (h : s.toDispatch = .seedWrite job v :: rest) :
    Does (.seedWrite job v) s fun t => t.toDispatch = rest ∧ (t.job job).seed = some v ∧ t.mem = s.mem ∧ t.strands = s.strands := by
  have hturn : s.seedTurn (.seedWrite job v) = true := by simp [State.seedTurn, h]
  have hrest : s.toDispatch.erase (.seedWrite job v) = rest := by rw [h, List.erase_cons_head]
  obtain ⟨hseed, hdisp, hmem, hstrands⟩ := performSeed_spec { s with toDispatch := s.toDispatch.erase (.seedWrite job v) } job v
  exact does_of_next (if_pos hturn) ⟨hdisp.trans hrest, hseed, hmem, hstrands⟩

/-- A control word that keeps the rules is stored whole where none is valid (R123 to R126). -/
theorem queueStore_valid {s : State} {k i : Nat} {bytes : List Byte} (hlen : bytes.length = 32)
    (hold : (s.tileQcw k i).valid = false) (hnew : (Qcw.ofBytes bytes).valid = true)
    (hok : s.queueOk k i (Qcw.ofBytes bytes) = true) (haddr : localOf (qcwTable k i) = qcwTable k i) :
    ∃ tiles, s.queueStore k i 0 bytes = { s.poke (qcwTable k i) bytes with tiles := tiles } := by
  have hpatch : patch (s.readLocal (qcwTable k i) 32) 0 bytes = bytes := by
    rw [patch, List.take_zero, List.nil_append, List.drop_eq_nil_of_le (by rw [State.readLocal_length]; omega), List.append_nil]
  have hvalid : (Qcw.ofBytes (s.readLocal (qcwTable k i) 32)).valid = false := by
    rw [State.tileQcw, State.qcwAt, haddr] at hold
    exact hold
  unfold State.queueStore
  simp only [hpatch, hvalid, hnew, hok, Bool.false_eq_true, if_false, if_true]
  split
  · exact ⟨_, rfl⟩
  · exact ⟨_, rfl⟩

section QueueControlWord
variable {s : State} {k i : Nat} {bytes : List Byte} (hk : k < s.tileCount) (hc : s.tileCount ≤ 512) (hi : i < 31) (hlen : bytes.length = 32)
include hk hc hi

/-- The table of queue control words stands in control space (R122). -/
theorem qcwTable_controlSpan : State.ControlSpan (qcwTable k i) 32 := by
  constructor <;> unfold qcwTable <;> omega

/-- A table address as an IA of this package. -/
theorem qcwTable_address : chipOf (2 ^ 47 * s.chip + qcwTable k i) = s.chip ∧ localOf (2 ^ 47 * s.chip + qcwTable k i) = qcwTable k i := by
  have hchip : s.chip < 2 ^ 9 := Nat.mod_lt _ (by decide)
  unfold chipOf localOf qcwTable
  omega

theorem qcwTable_region : s.region (qcwTable k i) = some .control := by
  unfold State.region qcwTable
  rw [if_neg (by omega), if_pos (by omega)]

include hlen

/-- A store of 32 bytes at a table entry is one store into that entry (R124). -/
theorem controlStore_qcwTable : s.controlStore (qcwTable k i) bytes = s.queueStore k i 0 bytes := by
  have ha : qcwTable k i < 0x102000000 ∧ qcwTable k i % 0x10000 = 32 * i ∧ qcwTable k i % 0x100000000 / 0x10000 = k ∧ qcwTable k i % 32 = 0 := by
    unfold qcwTable
    omega
  obtain ⟨hlow, hentry, htile, hstart⟩ := ha
  have hunits : (qcwTable k i % 32 + bytes.length + 31) / 32 = 1 := by omega
  have hunit : s.controlUnit (qcwTable k i) bytes = s.queueStore k i 0 bytes := by
    unfold State.controlUnit
    rw [hentry, htile, hstart, if_pos ⟨hlow, by omega, hk⟩, Nat.mul_div_cancel_left i (by decide)]
  unfold State.controlStore
  rw [hunits, List.range_one, List.foldl_cons, List.foldl_nil]
  simp only [if_true, Nat.sub_self, hstart, List.drop_zero]
  rw [List.take_of_length_le (by omega), hunit]

theorem qcwWrite_does (hs : s.memoryCanonical) (hold : (s.tileQcw k i).valid = false) (hnew : (Qcw.ofBytes bytes).valid = true)
    (hok : s.queueOk k i (Qcw.ofBytes bytes) = true) :
    Does (.qcwWrite (2 ^ 47 * s.chip + qcwTable k i) bytes) s fun t => t.readLocal (qcwTable k i) 32 = bytes ∧
      (∀ a, a < qcwTable k i ∨ qcwTable k i + 32 ≤ a → t.readByte a = s.readByte a) ∧ t.pkg = s.pkg ∧ t.strands = s.strands := by
  have hspan : State.ControlSpan (qcwTable k i) bytes.length := hlen ▸ qcwTable_controlSpan hk hc hi
  obtain ⟨hchip, hlocal⟩ := qcwTable_address hk hc hi
  obtain ⟨tiles, hstore⟩ := queueStore_valid hlen hold hnew hok (Nat.mod_eq_of_lt (by unfold qcwTable; omega))
  have hexec : execQcwWrite (2 ^ 47 * s.chip + qcwTable k i) bytes s = .next { s.poke (qcwTable k i) bytes with tiles := tiles } := by
    unfold execQcwWrite
    rw [hlocal, if_pos ⟨hchip, qcwTable_region hk hc hi⟩, controlStore_qcwTable hk hc hi hlen, hstore]
  have hread := State.readLocal_poke_control hs hspan 0 32 (by omega)
  rw [List.drop_zero, List.take_of_length_le (by omega)] at hread
  obtain ⟨m, hm⟩ := s.poke_only (qcwTable k i) bytes
  refine does_of_next hexec ⟨hread, fun a ha => State.readByte_poke_control_outside hs hspan a (by omega), ?_, ?_⟩
  · rw [hm]
  · rw [hm]

end QueueControlWord

/-- Settles O53: each event is the write of its register, or the store of its control word, clause by clause. -/
theorem registerEventsPerformTheirWrite : Obligations.RegisterEventsPerformTheirWrite := by
  intro s n k v m job rest
  refine ⟨envelopeModeWrite_does s m, envelopeTransitionDone_does s, fun hl h1 h2 => windowWrite_next s n v hl ⟨h1, h2⟩,
    seedWrite_does s job v rest, fun h => State.writeCtl_of_some (s.setCtl_trapFrames n v h), stopAtWrite_next s k v, detcauseClear_next s k,
    detSumClear_next s k, fun i hl => ⟨rangeBaseWrite_next hl i v, rangeLimitWrite_next hl i v, rangeOffsetWrite_next hl i v⟩,
    arithFlagsWrite_next s k v, fun i bytes hs hi hk hc hlen => qcwWrite_does hk hc hi hlen hs⟩

end Sys2Proof.Machine

/-! PROOF. O55: service of tiles, channels and ports (R10, R11, R21, R29 to R31, R303). -/

namespace Sys2Proof.Machine

namespace State

/-- Pre-emption of a tile's tasks changes tasks only. -/
theorem preemptTile_only (s : State) (k : Nat) : ∃ tasks, s.preemptTile k = { s with tasks := tasks } := by
  unfold preemptTile
  generalize s.tasksOn k = ts
  induction ts generalizing s with
  | nil => exact ⟨s.tasks, rfl⟩
  | cons tid ts ih =>
    rw [List.foldl_cons]
    split
    · obtain ⟨tasks, h⟩ := ih (s.modTask tid fun t => { t with preempting := true })
      exact ⟨tasks, h⟩
    · exact ih s

/-- A recalibration changes memory only. -/
theorem recalibrate_only (s : State) (m : Nat) : ∃ mem, s.recalibrate m = { s with mem := mem } := by
  unfold recalibrate
  dsimp only
  split
  · exact ⟨s.mem, rfl⟩
  · exact s.poke_only _ _

@[simp] theorem recalibrate_pkg (s : State) (m : Nat) : (s.recalibrate m).pkg = s.pkg := by
  obtain ⟨mem, h⟩ := s.recalibrate_only m
  rw [h]

@[simp] theorem poke_pkg (s : State) (a : Nat) (bs : List Byte) : (s.poke a bs).pkg = s.pkg := by
  obtain ⟨mem, h⟩ := s.poke_only a bs
  rw [h]

@[simp] theorem poke_tile (s : State) (a k : Nat) (bs : List Byte) : (s.poke a bs).tile k = s.tile k := by
  obtain ⟨mem, h⟩ := s.poke_only a bs
  rw [h]
  rfl

end State

/-! Tiles (R29, R30). -/

section Tiles
variable {s : State} {k : Nat}

/-- A tile in service starts to drain where a spare is free. -/
theorem tileAction_starts (hoff : (s.tile k).offline = false) (hdrain : (s.tile k).draining = false) (hfree : s.sparesFree (s.dieOf k) ≠ 0) :
    s.tileAction k = (s.modTile k fun t => { t with draining := true }).preemptTile k := by
  simp [State.tileAction, hoff, hdrain, hfree]

theorem tileAction_refuses (hdrain : (s.tile k).draining = false) (hfree : s.sparesFree (s.dieOf k) = 0) :
    s.tileAction k = s.emit (.notify 0x31) := by
  simp [State.tileAction, hdrain, hfree, State.refuse]

/-- A drained tile is replaced by a spare. -/
theorem tileAction_replaces (hdrain : (s.tile k).draining = true) (hdone : s.drained k = true) :
    s.tileAction k = (s.modTile k fun t =>
      { t with draining := false, spareSubst := true, sparePos := 127 + s.pkg.spares.getD (s.dieOf k) 0 }).modPkg fun p =>
        { p with spares := p.spares.set (s.dieOf k) (p.spares.getD (s.dieOf k) 0 - 1) } := by
  simp [State.tileAction, hdrain, hdone]

theorem tileAction_starts_effect (hoff : (s.tile k).offline = false) (hdrain : (s.tile k).draining = false)
    (hfree : s.sparesFree (s.dieOf k) ≠ 0) :
    ((s.tileAction k).tile k).draining = true ∧ (s.tileAction k).pkg = s.pkg ∧ (s.tileAction k).mem = s.mem := by
  obtain ⟨tasks, h⟩ := (s.modTile k fun t => { t with draining := true }).preemptTile_only k
  have htile : ((s.modTile k fun t => { t with draining := true }).tile k).draining = true := by rw [State.tile_modTile, if_pos rfl]
  rw [tileAction_starts hoff hdrain hfree, h]
  exact ⟨htile, rfl, rfl⟩

theorem tileService_next (hk : k < s.tileCount) : exec (.tileService k) s = .next (s.tileAction k) := if_neg (Nat.not_le.mpr hk)

theorem tileFailure_next (hk : k < s.tileCount) (hoff : (s.tile k).offline = false) (hdrain : (s.tile k).draining = false)
    (hfree : s.sparesFree (s.dieOf k) ≠ 0) : exec (.tileFailure k) s = .next (s.tileAction k) :=
  (if_neg (by simp [hoff, hdrain, hk])).trans (if_pos hfree)

/-- A failing tile without a spare goes offline (R29). -/
theorem tileFailure_offline (hk : k < s.tileCount) (hoff : (s.tile k).offline = false) (hdrain : (s.tile k).draining = false)
    (hfree : s.sparesFree (s.dieOf k) = 0) (htasks : s.tasksOn k = []) :
    Does (.tileFailure k) s fun t => (t.tile k).offline = true ∧ t.pkg = s.pkg := by
  have htasks' : (s.modTile k fun t => { t with offline := true }).tasksOn k = [] := htasks
  refine ⟨_, (if_neg (by simp [hoff, hdrain, hk])).trans (if_neg (not_not_intro hfree)), ?_⟩
  dsimp only
  rw [htasks', List.foldl_nil, State.poke_tile, State.poke_pkg, State.tile_modTile, if_pos rfl]
  exact ⟨rfl, rfl⟩

theorem tileService_replaces (hk : k < s.tileCount) (hdrain : (s.tile k).draining = true) (hdone : s.drained k = true)
    (hdie : s.dieOf k < s.pkg.spares.length) :
    Does (.tileService k) s fun t => (t.tile k).draining = false ∧ (t.tile k).spareSubst = true ∧
      (t.tile k).sparePos = 127 + s.pkg.spares.getD (s.dieOf k) 0 ∧
      t.pkg.spares.getD (s.dieOf k) 0 = s.pkg.spares.getD (s.dieOf k) 0 - 1 ∧ t.mem = s.mem := by
  refine does_of_next ((tileService_next hk).trans (congrArg _ (tileAction_replaces hdrain hdone))) ?_
  have htile (f : Tile → Tile) (g : Pkg → Pkg) : ((s.modTile k f).modPkg g).tile k = f (s.tile k) := (s.tile_modTile k k f).trans (if_pos rfl)
  rw [htile]
  refine ⟨rfl, rfl, rfl, ?_, rfl⟩
  simp [List.getD, hdie]

end Tiles

/-! Channels and CXL ports (R10, R30, R31). -/

section Channels
variable {s : State}

theorem startAction_starts {unit : Nat} {k : State → State} (hd : unit ∉ s.pkg.drains) :
    s.startAction unit k = k (s.modPkg fun p => { p with drains := p.drains ++ [unit] }) :=
  if_neg (by simpa using hd)

theorem startAction_refuses {unit : Nat} {k : State → State} (hd : unit ∈ s.pkg.drains) :
    s.startAction unit k = s.emit (.notify 0x31) :=
  if_pos (List.contains_iff_mem.mpr hd)

/-- A unit begins to drain when the free frames suffice and no action of it is under way. -/
theorem drainUnit_starts {kind unit free : Nat} (hfree : Config.channelPages s.steps kind unit ≤ free)
    (hd : 1024 * kind + unit ∉ s.pkg.drains) :
    s.drainUnit kind unit free = s.modPkg fun p => { p with drains := p.drains ++ [1024 * kind + unit] } :=
  (if_neg (Nat.not_lt.mpr hfree)).trans (startAction_starts hd)

theorem drainUnit_refuses {kind unit free : Nat} (h : free < Config.channelPages s.steps kind unit ∨ 1024 * kind + unit ∈ s.pkg.drains) :
    s.drainUnit kind unit free = s.emit (.notify 0x31) := by
  unfold State.drainUnit
  split
  · rfl
  · exact startAction_refuses (h.resolve_left ‹_›)

/-- An event whose meaning is that unit number u is to drain. -/
theorem drains_of_drainUnit {i : Instr} {kind unit free u : Nat} (h : exec i s = .next (s.drainUnit kind unit free))
    (hu : 1024 * kind + unit = u) :
    (Config.channelPages s.steps kind unit ≤ free → u ∉ s.pkg.drains →
      Does i s fun t => t.pkg = { s.pkg with drains := s.pkg.drains ++ [u] } ∧ t.mem = s.mem) ∧
    (free < Config.channelPages s.steps kind unit ∨ u ∈ s.pkg.drains → exec i s = .next (s.emit (.notify 0x31))) := by
  subst hu
  exact ⟨fun hfree hd => does_of_next (h.trans (congrArg _ (drainUnit_starts hfree hd))) ⟨rfl, rfl⟩,
    fun hr => h.trans (congrArg _ (drainUnit_refuses hr))⟩

theorem hbmChannelService_next {c free : Nat} (hc : c < 384) (hon : c ∉ s.pkg.hbmOff) :
    exec (.hbmChannelService free c) s = .next (s.drainUnit 0 c free) :=
  (if_neg (Nat.not_le.mpr hc)).trans (if_neg (by simpa using hon))

theorem hbmChannelService_off {c free : Nat} (hc : c < 384) (hoff : c ∈ s.pkg.hbmOff) :
    exec (.hbmChannelService free c) s = .next (s.emit (.notify 0x31)) :=
  (if_neg (Nat.not_le.mpr hc)).trans (if_pos (by simpa using hoff))

theorem lpddrChannelService_next {c free : Nat} (hc : c < 16) (hon : s.pkg.lpddrGib.getD c 0 ≠ 0) :
    exec (.lpddrChannelService free c) s = .next (s.drainUnit 1 c free) :=
  (if_neg (Nat.not_le.mpr hc)).trans (if_neg hon)

theorem lpddrChannelService_off {c free : Nat} (hc : c < 16) (hoff : s.pkg.lpddrGib.getD c 0 = 0) :
    exec (.lpddrChannelService free c) s = .next (s.emit (.notify 0x31)) :=
  (if_neg (Nat.not_le.mpr hc)).trans (if_pos hoff)

theorem cxlPortService_next {c free : Nat} (hc : c < 4) (hon : s.pkg.cxlLinked.getLsbD c = true) :
    exec (.cxlPortService free c) s = .next (s.drainUnit 2 c free) :=
  if_neg (by simp [hon, hc])

theorem drainComplete_hbm (s : State) (c : Nat) : exec (.drainComplete (.hbmChannel c)) s =
    s.drainDone c (fun p => { p with hbmOff := p.hbmOff ++ [c] }) fun s => s.recalibrate (544 + c / 32) := rfl

theorem drainComplete_lpddr (s : State) (c : Nat) : exec (.drainComplete (.lpddrChannel c)) s =
    s.drainDone (1024 + c) (fun p => { p with lpddrGib := p.lpddrGib.set c 0 }) id := rfl

theorem drainComplete_cxl (s : State) (port gib : Nat) : exec (.drainComplete (.cxlPort port gib)) s =
    s.drainDone (2048 + port) (fun p =>
      let q := { p with cxlLinked := p.cxlLinked &&& ~~~(1#4 <<< port), cxlWidth := p.cxlWidth &&& ~~~(3#8 <<< (2 * port)) }
      { q with poolGib := min (q.poolGib - gib) q.poolMost }) id := rfl

/-- A drain that is complete takes effect when no page is left in what goes (R30, R31). -/
theorem drainComplete_does {u : DrainUnit} {unit : Nat} {f : Pkg → Pkg} {k : State → State}
    (h : exec (.drainComplete u) s = s.drainDone unit f k) (hu : unit ∈ s.pkg.drains)
    (hfits : s.fits { s with pkg := f { s.pkg with drains := s.pkg.drains.erase unit } } = true) :
    Does (.drainComplete u) s fun t => t = k { s with pkg := f { s.pkg with drains := s.pkg.drains.erase unit } } := by
  have hboth : (s.pkg.drains.contains unit && s.fits { s with pkg := f { s.pkg with drains := s.pkg.drains.erase unit } }) = true := by
    rw [hfits, Bool.and_true]
    exact List.contains_iff_mem.mpr hu
  exact ⟨_, h.trans (congrArg Host.Outcome.next (if_pos hboth)), rfl⟩

end Channels

/-! Monitors (R302, R303). -/

section Monitors
variable {s : State} {c : Nat}

theorem monitorBytes_length (osc margin days updated : Nat) (offline : Bool) : (monitorBytes osc margin days updated offline).length = 16 := by
  simp [monitorBytes, toBytes_length]

/-- MARGIN of a monitor's entry. -/
theorem monitorBytes_margin (osc margin days updated : Nat) (offline : Bool) :
    ((monitorBytes osc margin days updated offline).drop 4).take 2 = toBytes 2 margin := by
  have h4 : (toBytes 4 osc).length = 4 := toBytes_length 4 osc
  have h2 : (toBytes 2 margin).length = 2 := toBytes_length 2 margin
  unfold monitorBytes
  simp only [List.append_assoc]
  rw [List.drop_left' h4, List.take_left' h2]

/-- The monitors' entries stand in control space (R302). -/
theorem monitorBytes_controlSpan (hc : c < 604) (osc margin days updated : Nat) (offline : Bool) :
    State.ControlSpan (monitorAt c) (monitorBytes osc margin days updated offline).length := by
  rw [monitorBytes_length]
  constructor <;> unfold monitorAt <;> omega

/-- A recalibration changes its monitor's entry alone. -/
theorem readByte_recalibrate (hs : s.memoryCanonical) (hc : c < 604) (a : Nat) (ha : a < monitorAt c ∨ monitorAt c + 16 ≤ a) :
    (s.recalibrate c).readByte a = s.readByte a := by
  unfold State.recalibrate
  dsimp only
  split
  · rfl
  · exact State.readByte_poke_control_outside hs (monitorBytes_controlSpan hc _ _ _ _ _) a (by rwa [monitorBytes_length])

/-- MARGIN reads as the entry was published. -/
theorem margin_poke_monitorBytes (hs : s.memoryCanonical) (hc : c < 604) (osc margin days updated : Nat) (offline : Bool)
    (hm : margin < 65536) :
    (s.poke (monitorAt c) (monitorBytes osc margin days updated offline)).readNum (monitorAt c + 4) 2 = margin := by
  have hlocal : localOf (monitorAt c + 4) = monitorAt c + 4 := Nat.mod_eq_of_lt (by unfold monitorAt; omega)
  rw [State.readNum, hlocal, State.readLocal_poke_control hs (monitorBytes_controlSpan hc _ _ _ _ _) 4 2
    (by rw [monitorBytes_length]; omega), monitorBytes_margin, ofBytes_toBytes_of_lt _ _ hm]

/-- A recalibration does not lower MARGIN. -/
theorem margin_le_recalibrate (hs : s.memoryCanonical) (hc : c < 604) :
    s.readNum (monitorAt c + 4) 2 ≤ (s.recalibrate c).readNum (monitorAt c + 4) 2 := by
  have hlt : s.readNum (monitorAt c + 4) 2 < 65536 := by
    have := ofBytes_lt (s.readLocal (localOf (monitorAt c + 4)) 2)
    rwa [State.readLocal_length] at this
  unfold State.recalibrate
  dsimp only
  split
  · exact Nat.le_refl _
  · rw [margin_poke_monitorBytes hs hc _ _ _ _ _ (by omega)]
    omega

end Monitors

/-! Fabric ports, Ethernet ports and the pool (R11, R13, R21, R22, R30). -/

section Ports
variable {s : State} {port : Nat} (hport : port < 96)

/-- PORT_MAP of a port. -/
def State.portMapOf (s : State) (port : Nat) : W64 := Tab.get 0 s.pkg.portMap port

@[simp] theorem portMapOf_modPort (s : State) (port : Nat) (f : W64 → W64) : (s.modPort port f).portMapOf port = f (s.portMapOf port) :=
  Tab.get_put_same _ _ _ _

theorem portMapOf_modPkg (s : State) (port : Nat) (g : Pkg → Pkg) (h : (g s.pkg).portMap = s.pkg.portMap) :
    (s.modPkg g).portMapOf port = s.portMapOf port := by
  rw [State.portMapOf, State.modPkg_pkg, h, State.portMapOf]

@[simp] theorem portMapOf_recalibrate (s : State) (port m : Nat) : (s.recalibrate m).portMapOf port = s.portMapOf port := by
  rw [State.portMapOf, State.recalibrate_pkg, State.portMapOf]

include hport

theorem fabricPortService_drain (hd : 3072 + port ∉ s.pkg.drains) (hst : portState (s.portMapOf port) = 2) :
    Does (.fabricPortService port .drain) s fun t => portState (t.portMapOf port) = 3 ∧ 3072 + port ∈ t.pkg.drains := by
  have hexec : execFabricPortService port .drain s =
      .next ((s.modPkg fun p => { p with drains := p.drains ++ [3072 + port] }).modPort port fun v => setPortState v 3) := by
    refine (if_neg (Nat.not_le.mpr hport)).trans ((if_neg (by simpa using hd)).trans ((if_pos hst).trans ?_))
    rw [startAction_starts hd]
  refine does_of_next hexec ⟨?_, by simp [State.modPort]⟩
  rw [portMapOf_modPort, portState_setPortState _ _ (by decide)]

theorem fabricPortService_service (hd : 3072 + port ∈ s.pkg.drains) (hst : portState (s.portMapOf port) = 3) :
    Does (.fabricPortService port .service) s fun t => portState (t.portMapOf port) = 5 := by
  have hexec : execFabricPortService port .service s = .next (s.modPort port fun v => setLanes (setPortState v 5) 0) := by
    exact (if_neg (Nat.not_le.mpr hport)).trans (if_pos ⟨List.contains_iff_mem.mpr hd, hst⟩)
  refine does_of_next hexec ?_
  rw [portMapOf_modPort, portState_setLanes, portState_setPortState _ _ (by decide)]

theorem fabricPortService_train (hd : 3072 + port ∈ s.pkg.drains) (hst : portState (s.portMapOf port) = 5) :
    Does (.fabricPortService port .train) s fun t => portState (t.portMapOf port) = 1 := by
  have hexec : execFabricPortService port .train s = .next (s.modPort port fun v => setPortState v 1) := by
    exact (if_neg (Nat.not_le.mpr hport)).trans (if_pos ⟨List.contains_iff_mem.mpr hd, hst⟩)
  refine does_of_next hexec ?_
  rw [portMapOf_modPort, portState_setPortState _ _ (by decide)]

theorem fabricPortService_up (hd : 3072 + port ∈ s.pkg.drains) (hst : portState (s.portMapOf port) = 1) :
    Does (.fabricPortService port .up) s fun t => portState (t.portMapOf port) = 2 := by
  have hexec : execFabricPortService port .up s = .next (((s.modPort port fun v =>
      portFec s.steps s.pkg.envActive.toNat port (setLanes (setPortState v 2) (if Config.trainsWide s.steps port then 2 else 1))).modPkg fun p =>
        { p with drains := p.drains.erase (3072 + port) }).recalibrate (556 + port / 2)) := by
    exact (if_neg (Nat.not_le.mpr hport)).trans (if_pos ⟨List.contains_iff_mem.mpr hd, hst⟩)
  refine does_of_next hexec ?_
  rw [portMapOf_recalibrate, portMapOf_modPkg _ _ _ rfl, portMapOf_modPort, portState_portFec, portState_setLanes,
    portState_setPortState _ _ (by decide)]

/-- A retrained link stands in the given state, and RETRAINS counts it, saturating (R21). -/
theorem linkRetraining_does {lanes : BitVec 2} {state : BitVec 3} (hd : 3072 + port ∉ s.pkg.drains) (hst : portState (s.portMapOf port) ≠ 0)
    (hlanes : lanes ≠ 3) (hstate : state = 1 ∨ state = 2 ∨ state = 4) :
    Does (.linkRetraining port lanes state) s fun t => portState (t.portMapOf port) = state.toNat ∧
      wfield (t.portMapOf port) 32 16 = min (wfield (s.portMapOf port) 32 16 + 1) 0xFFFF := by
  have hexec : execLinkRetraining port lanes state s = .next (s.modPort port fun v =>
      withRetrains (portFec s.steps s.pkg.envActive.toNat port (setLanes (setPortState v state.toNat) lanes.toNat))
        (min (wfield (s.portMapOf port) 32 16 + 1) 0xFFFF)) := by
    refine if_neg ?_
    have hok : (state == 1 || state == 2 || state == 4) = true := by simpa [or_assoc] using hstate
    rw [hok]
    rintro (h | h | h | h | h)
    · exact absurd hport (Nat.not_lt.mpr h)
    · exact hst h
    · exact hd (List.contains_iff_mem.mp h)
    · exact hlanes h
    · exact absurd h (by decide)
  refine does_of_next hexec ?_
  rw [portMapOf_modPort]
  constructor
  · rw [portState_withRetrains, portState_portFec, portState_setLanes, portState_setPortState _ _ state.isLt]
  · exact retrains_withRetrains _ _ (by omega)

end Ports

/-- An Ethernet port loses its link, and no other does (R13, R22). -/
theorem hostPortDown_does (s : State) (e : Fin 2) : Does (.hostPortDown e.val) s fun t =>
    t.pkg.hostLink.getLsbD e = false ∧ ∀ d : Fin 2, d ≠ e → t.pkg.hostLink.getLsbD d = s.pkg.hostLink.getLsbD d := by
  have hbits (x : BitVec 2) : ∀ e : Fin 2, (x &&& ~~~(1#2 <<< e.val)).getLsbD e = false ∧
      ∀ d : Fin 2, d ≠ e → (x &&& ~~~(1#2 <<< e.val)).getLsbD d = x.getLsbD d := by
    revert x
    decide
  exact does_of_next (t := s.modPkg fun p => { p with hostLink := p.hostLink &&& ~~~(1#2 <<< e.val) }) rfl (hbits s.pkg.hostLink e)

/-- An Ethernet port has its link again (R22). -/
theorem hostPortUp_does (s : State) (e : Fin 2) : Does (.hostPortUp e.val) s fun t =>
    t.pkg.hostLink.getLsbD e = true ∧ ∀ d : Fin 2, d ≠ e → t.pkg.hostLink.getLsbD d = s.pkg.hostLink.getLsbD d := by
  have hbits (x : BitVec 2) : ∀ e : Fin 2, (x ||| (1#2 <<< e.val)).getLsbD e = true ∧
      ∀ d : Fin 2, d ≠ e → (x ||| (1#2 <<< e.val)).getLsbD d = x.getLsbD d := by
    revert x
    decide
  exact does_of_next (t := s.modPkg fun p => { p with hostLink := p.hostLink ||| (1#2 <<< e.val) }) rfl (hbits s.pkg.hostLink e)

/-- Where no page is mapped or moves, an extent changes the pool up to the limit of the linked ports (R10, R11; log 49). -/
theorem dynamicCapacityExtent_next {s : State} (gib : Int) (hmig : s.pkg.migrations = []) (hleaves : s.leaves = []) :
    exec (.dynamicCapacityExtent gib) s =
      .next (s.modPkg fun p => { p with poolGib := min ((p.poolGib : Int) + gib).toNat p.poolMost }) :=
  if_pos (by simp [State.fits, hmig, hleaves])

/-- Settles O55: each event of service, failure or a link, unit by unit. -/
theorem unitsAreServiced : Obligations.UnitsAreServiced := by
  intro s k c port free lanes state gib
  refine ⟨?tiles, tileService_replaces, ?hbm, ?lpddr, ?cxl, hbmChannelService_off, lpddrChannelService_off, ?drained, ?monitor,
    margin_le_recalibrate, ?ports, fun e => ⟨hostPortDown_does s e, hostPortUp_does s e⟩, ?added, ?released⟩
  case tiles =>
    intro hk hoff hdrain
    refine ⟨fun hfree => ?_, fun hfree => ⟨?_, tileFailure_offline hk hoff hdrain hfree⟩⟩
    · have heffect := tileAction_starts_effect hoff hdrain hfree
      exact ⟨does_of_next (tileService_next hk) heffect, does_of_next (tileFailure_next hk hoff hdrain hfree) heffect⟩
    · exact (tileService_next hk).trans (congrArg _ (tileAction_refuses hdrain hfree))
  case hbm => exact fun hc hon => drains_of_drainUnit (hbmChannelService_next hc hon) (Nat.zero_add c)
  case lpddr => exact fun hc hon => drains_of_drainUnit (lpddrChannelService_next hc hon) rfl
  case cxl => exact fun hc hon => drains_of_drainUnit (cxlPortService_next hc hon) rfl
  case drained =>
    intro lost
    have hbm := drainComplete_does (drainComplete_hbm s c)
    have lpddr := drainComplete_does (drainComplete_lpddr s c)
    have cxl := drainComplete_does (drainComplete_cxl s c lost)
    exact ⟨hbm, lpddr, cxl⟩
  case monitor => exact fun a hs ha hc => readByte_recalibrate hs hc a ha
  case ports =>
    exact fun hport => ⟨fabricPortService_drain hport, fabricPortService_service hport, fabricPortService_train hport,
      fabricPortService_up hport, linkRetraining_does hport⟩
  case added =>
    intro hgib hmost hmig hleaves
    refine does_of_next (dynamicCapacityExtent_next gib hmig hleaves) ⟨?_, rfl⟩
    simp only [State.modPkg_pkg, Pkg.poolMost]
    omega
  case released =>
    intro hgib hmost hmig hleaves
    refine does_of_next (dynamicCapacityExtent_next gib hmig hleaves) ⟨?_, rfl⟩
    simp only [State.modPkg_pkg, Pkg.poolMost]
    omega

end Sys2Proof.Machine
